-- ==== Sys2Proof/Word.lean ====
section
/-! DEFINITION. The words of the HJ-832: 64-bit scalar values, bytes, 32-bit instruction words, 64-byte rows, and the
register, row, tile and handle numbers (R43), and the named choices that instruction fields hold. Only types stand here. -/

namespace Sys2Proof

/-- A 64-bit scalar value, address or control-register value (R43). -/
abbrev Word := BitVec 64

/-- One byte of memory (R4). -/
abbrev Byte := BitVec 8

/-- One 32-bit instruction or pattern word (R22, R191). -/
abbrev Word32 := BitVec 32

/-- The 64 bytes of a tile row; byte 0 is bits [7:0] (R43, R207). -/
abbrev RowBits := BitVec 512

/-- A scalar register number s0..s15. -/
abbrev SReg := Fin 16

/-- A vector register number v0..v63: row `v mod 16` of tile `v / 16` (R43). -/
abbrev VReg := Fin 64

/-- A tile number t0..t3. -/
abbrev TileNo := Fin 4

/-- A ring handle number h0..h7. -/
abbrev HandleNo := Fin 8

/-- The all-ones reply of refused door operations (R106, R260). -/
abbrev all1 : Word := 0xFFFFFFFFFFFFFFFF#64

/-- Direction codes of reeds and lanes (R16, R28, R123). -/
inductive Dir where
  | e | w | n | s
  deriving DecidableEq, Repr

/-- Conditions of bc (R42). -/
inductive Cond where
  | eq | ne | lt | ge | ltu | geu | z | nz
  deriving DecidableEq, Repr

/-- Access sizes of loads (R23). -/
inductive LoadSize where
  | b | h | w | d | sb | sh | sw
  deriving DecidableEq, Repr

/-- Access sizes of stores (R23). -/
inductive StoreSize where
  | b | h | w | d
  deriving DecidableEq, Repr

/-- Operations of amo and amol (R77). -/
inductive AtomOp where
  | ld | swp | cas | add | and | or | max | min
  deriving DecidableEq, Repr

/-- Order of an atomic (R77). -/
inductive AtomOrd where
  | none | acq | rel | ar
  deriving DecidableEq, Repr

/-- Spaces of a copy side (R29). -/
inductive Space where
  | loc | glob | peer
  deriving DecidableEq, Repr

/-- Tile types (R207). -/
inductive TileType where
  | f32 | f16 | bf16 | i32 | i16 | i8
  deriving DecidableEq, Repr

/-- Functions of vcord (R31). -/
inductive CordFn where
  | sin | cos | atan | exp | ln | tanh | sigm | sqrt
  deriving DecidableEq, Repr

/-- Shapes of a stream (R32). -/
inductive StreamShape where
  | one | row | col
  deriving DecidableEq, Repr

/-- Operations of bred (R257). -/
inductive RedOp where
  | add | min | max
  deriving DecidableEq, Repr

/-- Lane types of bred (R257). -/
inductive RedType where
  | f32 | i32 | i64
  deriving DecidableEq, Repr

/-- Orders of a fence (R283). -/
inductive FenceOrd where
  | acq | rel | full
  deriving DecidableEq, Repr

/-- Scopes of fences and TLB invalidations (R274, R347). -/
inductive Scope where
  | core | slice | loaf | dev
  deriving DecidableEq, Repr

/-- What a service-network WRITE or READ names (R340): of the live context its registers, their presence bits and its CSRs; of PB0 or PB1 the
items of R315; a tile's row, and its type, DNZ and presence bits; local memory; BCONF, TRIMC and the error counters, the core's and that of
its loaf's base die (R339); the trim counter of one of the core's outputs (R236); and the header of packet `k` at the core's router (R233). -/
inductive SvcItem where
  | reg (r : SReg) | present | csr (n : BitVec 10)
  | bankReg (r : SReg) | bankPresent | bankPc | bankTags | bankHandle (h : HandleNo) | bankSrseed | bankVflag | bankTask | bankRestart
  | row (v : VReg) | tile (t : TileNo) | byte (off : Nat)
  | trimc | bconf | errors | dieErrors | trims (port : Nat) | header (k : Nat)
  deriving DecidableEq, Repr

/-- A node of the bellows tree (R250): a slice, a slice row of a loaf, a loaf, or the device root. -/
inductive BellowsNode where
  | slice (n : Nat) | srow (loaf sy : Nat) | loaf (l : Nat) | root
  deriving DecidableEq, Repr

/-- Which wait of a reed passes its bound (R175). -/
inductive ReedWait where
  | side (north : Bool) | delivery (slot : Nat)
  deriving DecidableEq, Repr

/-- Who asked for a page walk: a context, or an element of an engine operation (R64). -/
inductive WalkFor where
  | ctx (hv : Bool) | engine (op : Nat)
  deriving DecidableEq, Repr

/-- What the resident kernel chooses when it places a launch (R54, R289, R324, R333): the page-table root, the queue
area, the trap table and the slot of the launch; `num` is the launch number it would grant. -/
structure Grant where
  num    : Nat
  root   : Nat
  qarea  : Word
  ttab   : Word
  deriving DecidableEq, Repr

/-- What the outside gives a start of the part (R359..R366): the image bytes that were fetched, none as yet where they are empty; the PTP time
when a master answered; whether the strap chooses the host mode of PCIe (R365); the steps whose action or check fails; and whether the hash
and the read-back test of a kept training result hold, for HBM and for the links (R360). -/
structure StartInput where
  image     : List Byte
  ptp       : Option Nat
  hostMode  : Bool
  bad       : List Nat
  trainKept : Bool
  linksKept : Bool
  deriving DecidableEq, Repr

end Sys2Proof
end

