-- ==== Sys2Proof/Syntax.lean ====
section
/-! DEFINITION. The syntax of the part's steps: one constructor of `Instr` per row of spec/opcode_table.json. The rows
with a word are the Troron instructions in their base, literal and extended forms (R22..R32, R40); the rows without one
are the events of the part's other agents, and their operands say which packet, core, reed, slice or request the event is
about. -/

namespace Sys2Proof

/-- The steps of the part: every row of spec/opcode_table.json. -/
inductive Instr where
  -- register operations (R112)
  | add (d a b : SReg) | addLit (d a : SReg) (lit : Word)
  | sub (d a b : SReg) | subLit (d a : SReg) (lit : Word)
  | mul (d a b : SReg) | mulLit (d a : SReg) (lit : Word)
  | mulh (d a b : SReg) | mulhLit (d a : SReg) (lit : Word)
  | mulhu (d a b : SReg) | mulhuLit (d a : SReg) (lit : Word)
  | div (d a b : SReg) | divLit (d a : SReg) (lit : Word)
  | divu (d a b : SReg) | divuLit (d a : SReg) (lit : Word)
  | rem (d a b : SReg) | remLit (d a : SReg) (lit : Word)
  | remu (d a b : SReg) | remuLit (d a : SReg) (lit : Word)
  | and (d a b : SReg) | andLit (d a : SReg) (lit : Word)
  | or (d a b : SReg) | orLit (d a : SReg) (lit : Word)
  | xor (d a b : SReg) | xorLit (d a : SReg) (lit : Word)
  | shl (d a b : SReg) | shlLit (d a : SReg) (lit : Word)
  | shr (d a b : SReg) | shrLit (d a : SReg) (lit : Word)
  | sra (d a b : SReg) | sraLit (d a : SReg) (lit : Word)
  | min (d a b : SReg) | minLit (d a : SReg) (lit : Word)
  | max (d a b : SReg) | maxLit (d a : SReg) (lit : Word)
  | minu (d a b : SReg) | minuLit (d a : SReg) (lit : Word)
  | maxu (d a b : SReg) | maxuLit (d a : SReg) (lit : Word)
  | cmpeq (d a b : SReg) | cmpeqLit (d a : SReg) (lit : Word)
  | cmplt (d a b : SReg) | cmpltLit (d a : SReg) (lit : Word)
  | cmpltu (d a b : SReg) | cmpltuLit (d a : SReg) (lit : Word)
  | clz (d a : SReg)
  | popc (d a : SReg)
  | sel (d a b c : SReg) | selLit (d a c : SReg) (lit : Word)
  -- immediates (R113..R116)
  | addi (d a : SReg) (i : BitVec 16) | addiLit (d a : SReg) (lit : Word)
  | andi (d a : SReg) (i : BitVec 16) | andiLit (d a : SReg) (lit : Word)
  | ori (d a : SReg) (i : BitVec 16) | oriLit (d a : SReg) (lit : Word)
  | xori (d a : SReg) (i : BitVec 16) | xoriLit (d a : SReg) (lit : Word)
  | li (d : SReg) (i : BitVec 16) | liLit (d : SReg) (lit : Word)
  | shli (d a : SReg) (n : Fin 64)
  | shri (d a : SReg) (n : Fin 64)
  | srai (d a : SReg) (n : Fin 64)
  | bext (d a : SReg) (p w : Fin 64)
  | bins (d a : SReg) (p w : Fin 64)
  | lea (d : SReg) (i : BitVec 16) | leaLit (d : SReg) (lit : Word)
  -- control flow (R117..R122)
  | b (delta : BitVec 7) (w : Fin 32) | bLit (t : Word)
  | bc (c : Cond) (a b : SReg) (delta : BitVec 7) (w : Fin 32) | bcLit (c : Cond) (a b : SReg) (t : Word)
  | call (l : SReg) (delta : BitVec 7) (w : Fin 32) | callLit (l : SReg) (t : Word)
  | callr (d a : SReg)
  | ret (a : SReg)
  | done
  | cont (a : SReg) (delta : BitVec 7) (w : Fin 32) | contLit (a : SReg) (t : Word)
  -- lanes and messages (R126..R128)
  | nput (a : SReg) (r : Dir)
  | nget (d : SReg) (r : Dir)
  | send (d a b : SReg) (n : Fin 8) | sendLit (d a : SReg) (n : Fin 8) (lit : Word)
  -- local and peer memory (R90..R93)
  | ldl (d a : SReg) (sz : LoadSize) (off : BitVec 13)
  | stl (d a : SReg) (sz : StoreSize) (off : BitVec 13)
  | ldlV (v : VReg) (a : SReg) (n : Fin 64) | ldlVLit (v : VReg) (a : SReg) (lit : Word)
  | stlV (v : VReg) (a : SReg) (n : Fin 64) | stlVLit (v : VReg) (a : SReg) (lit : Word)
  | ldp (d a b : SReg) (sz : LoadSize) | ldpLit (d a : SReg) (sz : LoadSize) (lit : Word)
  | stp (d a b : SReg) (sz : StoreSize) | stpLit (d a : SReg) (sz : StoreSize) (lit : Word)
  | stpN (d a b : SReg) (k : Bool) | stpNLit (d a : SReg) (k : Bool) (lit : Word)
  | amol (o : AtomOp) (dbl : Bool) (r : AtomOrd) (d a b : SReg)
  | amolLit (o : AtomOp) (dbl : Bool) (r : AtomOrd) (d a : SReg) (lit : Word)
  -- rings (R106)
  | qbindC (h : HandleNo) (d a b : SReg)
  | qbindP (h : HandleNo) (d a : SReg)
  | qwait (h : HandleNo) (d : SReg)
  | qadv (h : HandleNo)
  | qres (h : HandleNo) (d : SReg)
  | qpub (h : HandleNo) (d a : SReg)
  | qeos (h : HandleNo)
  -- copies (R100..R102)
  | cpy (d a b : SReg) (src dst : Space)
  | cpyBar (d a b : SReg) (src dst : Space) (bhome : BitVec 15) (boff : BitVec 16)
  | cgat (d a b : SReg) (src dst : Space) (idx : BitVec 16)
  | cscat (d a b : SReg) (src dst : Space) (idx : BitVec 16)
  | cwait (d a : SReg)
  | cpoll (d a : SReg)
  -- global memory (R75..R79)
  | ldg (d a : SReg) (sz : LoadSize) (off : BitVec 13)
  | stg (d a : SReg) (sz : StoreSize) (off : BitVec 13)
  | ldgV (v : VReg) (a : SReg) (n : Fin 64) | ldgVLit (v : VReg) (a : SReg) (lit : Word)
  | stgV (v : VReg) (a : SReg) (n : Fin 64) | stgVLit (v : VReg) (a : SReg) (lit : Word)
  | gred (v : VReg) (a : SReg) (n : Fin 64) | gredLit (v : VReg) (a : SReg) (lit : Word)
  | amo (o : AtomOp) (dbl : Bool) (r : AtomOrd) (d a b : SReg)
  | amoLit (o : AtomOp) (dbl : Bool) (r : AtomOrd) (d a : SReg) (lit : Word)
  | pref (a b : SReg) | prefLit (a : SReg) (lit : Word)
  -- reeds and the chanter (R183..R187, R205, R206)
  | rset (d a : SReg) (gen : BitVec 16) (fmt : Fin 16) (r : Dir) (sp tr : Bool) (uses : BitVec 8) (ncol1 : Fin 64)
  | rfeed (d a b : SReg) (gen : BitVec 16) (fmt : Fin 16) (r : Dir) (kb : BitVec 12) (t : TileNo) (row0 m1 : Fin 16)
  | tarm (d : SReg) (wide : Bool) (kbn1 : BitVec 12) (t : TileNo) (row0 m1 : Fin 16) (ovw : Bool)
  | rstat (d : SReg) (r : Dir)
  | rcancel (r : Dir)
  | rcancelArm (t : TileNo)
  | pload (d a b : SReg) (r : Dir)
  | pnnz (d a : SReg) (r : Dir)
  -- tiles and the vector unit (R212..R228)
  | tcfg (t : TileNo) (ty : TileType) (dnz : Bool)
  | tzero (t : TileNo)
  | tdrain (d a b : SReg) (t : TileNo) (fmt1 fmt2 : Fin 16) (rnd1 rnd2 : Fin 8) (sc1 sc2 : BitVec 16)
  | vadd (v a n : VReg) | vaddLit (v a : VReg) (lit : Word)
  | vsub (v a n : VReg) | vsubLit (v a : VReg) (lit : Word)
  | vmul (v a n : VReg) | vmulLit (v a : VReg) (lit : Word)
  | vfma (v a n : VReg) | vfmaLit (v a : VReg) (lit : Word)
  | vmin (v a n : VReg) | vminLit (v a : VReg) (lit : Word)
  | vmax (v a n : VReg) | vmaxLit (v a : VReg) (lit : Word)
  | vabs (v a : VReg)
  | vneg (v a : VReg)
  | vand (v a n : VReg) | vandLit (v a : VReg) (lit : Word)
  | vor (v a n : VReg) | vorLit (v a : VReg) (lit : Word)
  | vxor (v a n : VReg) | vxorLit (v a : VReg) (lit : Word)
  | vshl (v a n : VReg) | vshlLit (v a : VReg) (lit : Word)
  | vshr (v a n : VReg) | vshrLit (v a : VReg) (lit : Word)
  | vmov (v n : VReg) | vmovLit (v : VReg) (lit : Word)
  | vsel (v a n : VReg) | vselLit (v a : VReg) (lit : Word)
  | vshuf (v a n : VReg) | vshufLit (v a : VReg) (lit : Word)
  | vcmpEq (v a n : VReg) | vcmpEqLit (v a : VReg) (lit : Word)
  | vcmpNe (v a n : VReg) | vcmpNeLit (v a : VReg) (lit : Word)
  | vcmpLt (v a n : VReg) | vcmpLtLit (v a : VReg) (lit : Word)
  | vcmpLe (v a n : VReg) | vcmpLeLit (v a : VReg) (lit : Word)
  | vcmpGt (v a n : VReg) | vcmpGtLit (v a : VReg) (lit : Word)
  | vcmpGe (v a n : VReg) | vcmpGeLit (v a : VReg) (lit : Word)
  | vcmpUn (v a n : VReg) | vcmpUnLit (v a : VReg) (lit : Word)
  | vredAdd (v a : VReg)
  | vredMin (v a : VReg)
  | vredMax (v a : VReg)
  | vsplat (v : VReg) (a : SReg)
  | vext (d : SReg) (a : VReg) (l : Fin 64)
  | vins (v : VReg) (a : SReg) (l : Fin 64)
  | vnnz (d : SReg) (a : VReg) (e : Fin 16)
  | vcvt (v a : VReg) (part : Fin 64) (tfmt sfmt : Fin 16) (rnd : Fin 8) (sat : Bool)
  | vq (v a n : VReg) (tfmt sfmt : Fin 16) (rnd : Fin 8) (sat : Bool)
  | vscale (v a n : VReg) (fmt : Fin 16) (rnd : Fin 8) (sat : Bool)
  | vcord (v a : VReg) (f : CordFn) (n : Fin 32)
  -- streams, bellows, barriers (R248, R249, R257, R264)
  | sopen (d a : SReg) (sh : StreamShape) (count1 : BitVec 8) (h : HandleNo) (p : Bool)
  | ssend (d a b : SReg) (p : Bool)
  | sclose (p : Bool)
  | bred (o : RedOp) (t : RedType) (d a b : SReg)
  | bbar (d b : SReg)
  | bjoin (d a : SReg)
  | barv (d a b : SReg) | barvLit (d a : SReg) (lit : Word)
  | bdrop (d a b : SReg) | bdropLit (d a : SReg) (lit : Word)
  | bexp (a b : SReg) | bexpLit (a : SReg) (lit : Word)
  | bwait (d a b : SReg) | bwaitLit (d a : SReg) (lit : Word)
  | binit (a b : SReg) | binitLit (a : SReg) (lit : Word)
  -- tasks and launches (R284, R296..R307)
  | spawn (d a b : SReg) | spawnLit (d a : SReg) (lit : Word)
  | spawnPark (d a b : SReg) | spawnParkLit (d a : SReg) (lit : Word)
  | join (d a : SReg)
  | await (d a b : SReg) | awaitLit (d a : SReg) (lit : Word)
  | migrate (d a b : SReg) | migrateLit (d a : SReg) (lit : Word)
  | yield (d : SReg)
  | whlAt (d a b : SReg) | whlAtLit (d a : SReg) (lit : Word)
  | launch (d a b : SReg) (cls : Fin 16)
  -- harvest, system, fence (R326, R344..R349, R283)
  | lend (a : SReg)
  | reclaim
  | hvon
  | hvoff
  | trap (code : BitVec 10)
  | rte (d : SReg)
  | rteAt (d a : SReg)
  | csrr (d : SReg) (n : BitVec 10)
  | csrw (n : BitVec 10) (a : SReg)
  | tlbi (all : Bool) (sc : Scope) (a b : SReg)
  | tlbv (all : Bool) (sc : Scope) (b : SReg)
  | halt
  | svc (d a : SReg) (n : Fin 8)
  | fence (o : FenceOrd) (sc : Scope)
  -- csrw and csrr steps with an effect of their own: the operand is the register named (R346)
  | srseedWrite (a : SReg)
  | rdvtoWrite (a : SReg)
  | hvctlWrite (a : SReg)
  | ebudWrite (a : SReg)
  | pwrstatWrite (a : SReg)
  | pstepWrite (a : SReg)
  | rampWrite (a : SReg)
  | fabmodeWrite (a : SReg)
  | bconfWrite (a : SReg)
  | trimcWrite (a : SReg)
  | statusWrite (a : SReg)
  | vflagRead (d : SReg)
  -- base-die and door steps, packets: k is the packet's number among those in flight
  | grd (k : Nat)
  | gwr (k : Nat)
  | gat (k : Nat)
  | gredPacket (k : Nat)
  | drd (k : Nat)
  | dwr (k : Nat)
  | dat (k : Nat)
  | qbindConsumerDoor (k : Nat)
  | qbindProducerDoor (k : Nat)
  | qresDoor (k : Nat)
  | qpubDoor (k : Nat)
  | qeosDoor (k : Nat)
  | qwaitDoor (k : Nat)
  | qadvDoor (k : Nat)
  | binitDoor (k : Nat)
  | bjoinDoor (k : Nat)
  | barvDoor (k : Nat)
  | bdropDoor (k : Nat)
  | bexpDoor (k : Nat)
  | bwaitDoor (k : Nat)
  | barrierCredit (k : Nat)
  | joinDoorOp (k : Nat)
  | parkFrameWrite (k : Nat)
  | msg (k : Nat)
  | rdl (k : Nat)
  | rreq (k : Nat)
  | rply (k : Nat)
  | ack (k : Nat)
  | cwr (k : Nat)
  | eack (k : Nat)
  | rack (k : Nat)
  | rdef (k : Nat)
  | sres (k : Nat)
  | sopn (k : Nat)
  | sdat (k : Nat)
  | streamSlotPublish (cn stream : Nat)
  | smrk (k : Nat)
  | unassignedKind (cn : Nat) (kind : BitVec 6)
  | trim (k : Nat)
  | trimmedHeader (k : Nat)
  | rreqSend (cn src : Nat)
  | tokenRefill (cn src : Nat)
  | retransmitTimeout (cn k : Nat)
  | linkReplay (cn : Nat) (r : Dir)
  | linkRetrain (cn : Nat) (r : Dir)
  -- walks, fills, migration, engines
  | tlbWalk (cn : Nat) (who : WalkFor)
  | lineFill (cn : Nat) (hv : Bool)
  | migration (cn : Nat) (hv : Bool)
  | copyStart (cn op : Nat)
  | copyComplete (cn op : Nat)
  | copyStop (cn op above : Nat)
  | drainComplete (cn op : Nat)
  | vcordComplete (cn : Nat) (v : VReg)
  -- reeds
  | sideQueueHead (reed : Nat) (north : Bool)
  | latchLoaded (reed : Nat)
  | rowStart (reed : Nat)
  | rowComputed (reed : Nat)
  | deliveryResend (reed slot : Nat)
  | rdvtoTimeout (reed : Nat) (w : ReedWait)
  -- lanes, timeouts, streams, bellows
  | laneWordArrival (cn : Nat) (r : Dir)
  | laneCreditReturn (cn : Nat) (r : Dir)
  | presenceTimeout (cn : Nat) (hv : Bool)
  | sopenSetupTimeout (stream : Nat)
  | ssendServe (cn : Nat) (p : Bool)
  | ssendComplete (cn : Nat) (p : Bool)
  | bellowsContribute (cn op : Nat)
  | bellowsNodeCombine (op : Nat) (node : BellowsNode)
  | bellowsResult (op cn : Nat)
  -- scheduling and launches
  | pick (cn : Nat) (hv : Bool)
  | hardwarePost (n : Nat)
  | quantumBoundary (slice : Nat)
  | wheelTick (slice : Nat)
  | launchAccept (req : Nat) (g : Grant)
  | hostLaunchDoorbell (slot : Nat) (desc : List Byte)
  | launchEnd (l : Nat)
  | harvestPark (cn : Nat)
  | harvestResume (cn : Nat)
  | asyncFaultTake (cn : Nat) (hv : Bool)
  | svcReply (cn : Nat) (hv : Bool) (v : Word)
  -- service network (R340)
  | read (cn : Nat) (hv : Bool) (it : SvcItem) (l : Nat)
  | write (cn : Nat) (hv : Bool) (it : SvcItem) (v : RowBits)
  | restart (cn : Nat) (hv : Bool) (at_ : Option Word)
  | repost (cn : Nat) (akind aid : Nat)
  | preempt (cn : Nat) (l : Nat)
  | permit (cn : Nat) (v : Bool)
  | retire (cn : Nat)
  | teardown (l : Nat)
  | reset (cn : Nat)
  -- power, start, attachment
  | powerWindow (avg mw : Nat)
  | throttleStepChange (loaf : Nat)
  | rampPeriod (loaf : Nat)
  | coldStart (i : StartInput)
  | warmStart (i : StartInput)
  | warmreq (v : Bool)
  | imageFetchRestart
  | gatewayDatagram (dev seq off : Nat) (data : List Byte)
  | gatewayRetransmit (dev seq : Nat)
  | ptpMessage (offset : Int)
  | pageReturn (pte : Nat) (entry : Word)
  | keyInstall (id : Nat)
  deriving DecidableEq, Repr

end Sys2Proof
end

