-- ==== Sys2Proof/Config.lean ====
section
/-! DEFINITION. What one implementation fixes and the values the specification leaves open. An open value is a constant
without a body: no proof can see what it is, so a statement about it holds for every value. -/

namespace Sys2Proof

/-- A byte the specification leaves open: a read under another key, keystream or address, or of a byte that no write has
reached (R63, R319, R359, R363). The argument is the count of free values drawn so far, so each read draws anew. -/
opaque Config.freeByte : Nat → Byte

/-- A number the specification leaves open where it names only a range or nothing. -/
opaque Config.freeNat : Nat → Nat

/-- The public key held in ROM, a point of P-384 (R361). -/
opaque Config.romKey : Nat × Nat

/-- The rollback floor held in the fuses (R361). -/
opaque Config.rollbackFloor : Nat

/-- The phase, in ns, of a slice's wheel ticks within the 1,000 ns period (R301: fixed for each slice at start). -/
opaque Config.wheelPhase : Nat → Nat

/-- The phase of a loaf's cycle counter modulo 16 against the part's cycle count (R352, R353 name the loaf's own counter). -/
opaque Config.loafPhase : Nat → Nat

/-- The set of the second-level TLB in which a page's entry stands, before it is taken modulo 256 (R64 gives the ways only). -/
opaque Config.tlbSet : Nat → Nat

/-- Flits by which the queues of a virtual network other than VN2 exceed one packet (R230 names separate buffers and no size). -/
opaque Config.queueExtra : Nat → Nat

/-- Flits by which a router's input buffers exceed one packet (R230). -/
opaque Config.inputExtra : Nat → Nat

/-- The calibrated coefficients of R357, in millionths of a µJ: the kind of an event, and what qualifies it. -/
opaque Config.energy : Nat → Nat → Nat

/-- Cores of the whole part: 32,768 compute cores (R9). -/
def Config.computeCores : Nat := 32768

/-- Service cores (R9); service core `i` is core `Config.computeCores + i` of the model. -/
def Config.serviceCores : Nat := 16

/-- Every core of the part (R9). -/
def Config.cores : Nat := Config.computeCores + Config.serviceCores

/-- Bytes of memory of each service core (R9). -/
def Config.svcMemSize : Nat := 16777216

/-- The stall bound of R110. -/
def Config.presenceLimit : Nat := 65536

/-- What the resident kernel, which is a program of the service cores that the specification does not print, sets outside
the requests of R340: the system root (R54), where a loaf's reports go (R338), the devices of its peer table and its export
window (R367), and the root it gives the PCIe host (R365); its request of a warm start (R359); and its paging to flash: the 64 KiB frames of
its pool, and the two halves of a swap-out (R343). -/
inductive KernelAct where
  | sysRoot (pa : Nat) | reportTo (loaf svc : Nat) | peer (dev : Nat) (known : Bool)
  | exportWin (off len : Nat) (va : Word) (launch : Nat) | unexport (off : Nat) | hostRoot (pa : Nat)
  | clearTrims (cn : Nat) | warmReq | reserve (frame : Nat) | swapOut (pte lvl slot : Nat) | swapStore (pte : Nat)
  deriving DecidableEq, Repr

/-- Who moves in a turn: a context that issues its next instruction, an event of the table, an engine operation of a core
that begins its next element (R99), sends up to `n` elements in one packet (R235), or credits what it has moved (R101), a memory upset (R71, R82), the resident kernel, the far device of a gateway, or a gateway
that sends what it has gathered (R367), a packet that a router takes into a queue (R231), an output that sends a flit (R230), a door
that looks again at what it holds (R106, R263), a hand-over at a base die whose old check fails on a request, or on the next access that a
unit of the part makes there (R364), a block of an image fetch and its end (R362), the PCIe host that reads a management register (R365), an upset of the kept image in crust memory (R360), or nobody. -/
inductive Agent where
  | issue (cn : Nat) (hv : Bool)
  | event (i : Instr)
  | engine (cn op : Nat)
  | write (cn op n : Nat)
  | credit (cn op : Nat)
  | upsetLocal (cn off : Nat) (correctable : Bool)
  | upsetHbm (pa : Nat) (correctable : Bool)
  | kernel (a : KernelAct)
  | gwAck (dev seq : Nat) (ok : Bool)
  | gwSend (i : Nat)
  | route (k : Nat)
  | flit (cn port : Nat)
  | door (cn : Nat)
  | handover (k : Nat) (reported : Bool)
  | handUnit (die : Nat) (reported : Bool)
  | imageBlock
  | image (img : List Byte)
  | barRead (off : Nat)
  | upsetCrust (i : Nat) (b : Byte)
  | idle
  deriving DecidableEq, Repr

/-- One turn of the whole part: the cycles that pass before it (R11), and who moves. -/
structure Turn where
  wait : Nat
  who  : Agent
  deriving DecidableEq, Repr

/-- A turn in which one cycle passes and no agent moves. -/
def Turn.idle : Turn := ⟨1, .idle⟩

/-- The order in which agents move, which the specification leaves to the fabric, the outside and the cores' pace
(R231, R272): used where the state names no turn. Wrapped in Option so that the type has a value without a choice of one;
`none` stands for `Turn.idle`. -/
opaque Config.freeTurn : Nat → Option Turn

end Sys2Proof
end

