-- ==== Sys2Proof/Machine/State.lean ====
section
/-! DEFINITION. The state of the whole part as plain data: cores with their two contexts, local memory, tiles, copy engine,
door and harvest state; reeds; slices; loaves; HBM; packets in flight; launches; the crust; and the turns that say who
moves next. Sparse parts are lists of (number, value) pairs in rising order of number, and an unlisted number stands for
the part's reset value. The operations on these types stand in the other files of this folder. -/

namespace Sys2Proof.Machine

open Sys2Proof

/-! ### Faults, traps and records -/

/-- The trap causes of R331; their numbers are given by `Cause.num`. -/
inductive Cause where
  | illegalOp | lineMalformed | targetUnmarked | align | localRange | peerDenied | addrNoncanon | pageNotPresent
  | pageProt | eccUncorr | mmRace | copyFault | queueFull | trapInsn | presenceTimeout | reedFormat | reedMismatch
  | reedTimeout | tileType | patternNoninv | patternIllegal | ringEosLate | barOver
  deriving DecidableEq, Repr

/-- Delivery kinds of R330, in the order of ECAUSE.KIND (R332). -/
inductive TKind where
  | precise | access | async | pending
  deriving DecidableEq, Repr

/-- A fault waiting to be taken: the launch it belongs to, its cause, EPC and EVAL (R178, R316, R336). -/
structure Pend where
  launch : Nat
  cause : Cause
  epc   : Word
  val   : Word
  deriving DecidableEq, Repr

/-- A refused arrival waiting to be taken (R262): the arrive's address, the object's peer address, and the register that
still holds ALL1 from it. -/
structure Bop where
  epc  : Word
  obj  : Word
  reg  : Option SReg
  deriving DecidableEq, Repr

/-- A continuation record (R285). -/
structure CR where
  saved    : Vector Word 16
  launch   : Nat
  akind    : Nat
  aid      : Nat
  excl     : Bool
  loanLost : Bool
  migr     : Bool
  resume   : Bool
  pflt     : Bool
  chan     : Nat
  join     : BitVec 32
  frame    : Word
  mask     : BitVec 16
  pc       : BitVec 48
  deriving DecidableEq, Repr

/-- What a running task keeps of its record (R286, R295). -/
structure Task where
  launch   : Nat
  chan     : Nat
  akind    : Nat
  aid      : Nat
  frame    : Word
  excl     : Bool
  loanLost : Bool
  deriving DecidableEq, Repr

/-! ### Registers of a context -/

/-- A scalar register with its presence bit (R107, R108). -/
structure Reg where
  val     : Word
  present : Bool
  deriving DecidableEq, Repr

/-- A ring handle (R105). While a qbind is under way the handle names the register its result goes to. -/
inductive Handle where
  | unbound
  | binding (d : SReg)
  | consumer (desc : Word) (base lsize lslots : Nat)
  | producer (desc : Word) (p base lsize lslots : Nat)
  deriving DecidableEq, Repr

/-- The home of an access: a door or a base die (R265), or the export window of another device, beyond the gateway (R367). -/
inductive Home where
  | door (cn : Nat) | die (loaf : Nat) | far (dev : Nat)
  deriving DecidableEq, Repr

/-- What a reply does with its value (R67, R105, R106, R262). A bind or an arrival whose register an rte has restored keeps its
other effect (R345). -/
inductive Dest where
  | none
  | reg (r : SReg) (sz : LoadSize)
  | row (v : VReg)
  | bindC (d : Option SReg) (h : HandleNo)
  | bindP (d : Option SReg) (h : HandleNo)
  | arrive (d : Option SReg)
  deriving DecidableEq, Repr

/-- An outstanding access of a context: its issue number, its tag when it holds one (R66, R89), where its reply goes, how
it counts for order (R266, R270, R273), and the address and instruction its faults name (R73). -/
structure Out where
  id      : Nat
  tag     : Option (Bool × Nat)
  dest    : Dest
  load    : Bool
  store   : Bool
  acq     : Bool
  home    : Home
  epc     : Word
  addr    : Word
  handler : Bool
  serial  : Bool
  deriving DecidableEq, Repr

/-- A fence.rel mark that is not yet complete: accesses up to `upTo` with a home in `scope` count (R283). -/
structure RelMark where
  scope : Scope
  upTo  : Nat
  deriving DecidableEq, Repr

/-- A reserve bank PB0 or PB1 (R315, R320). -/
structure Bank where
  regs    : Vector Reg 16
  rpc     : Word
  handles : Vector Handle 8
  srseed  : BitVec 32
  vflag   : BitVec 6
  task    : Option Task
  restart : Option CR
  deriving DecidableEq, Repr

/-- The stall of a context: what is waited on, as R110 codes it, when the wait counts, since which cycle, and whether its count has passed
the bound. -/
structure Stall where
  code  : Option Nat
  since : Nat
  due   : Bool
  deriving DecidableEq, Repr

/-- Kinds of translation (R58). -/
inductive AccKind where
  | rd | w | x
  deriving DecidableEq, Repr

/-- A TLB entry (R64): the page's base address and level, its launch (0 for the system root), the leaf's address, its
frame and its rights. -/
structure TlbEntry where
  base   : Nat
  lvl    : Nat
  launch : Nat
  pte    : Nat
  frame  : Nat
  key    : Nat
  mig    : Bool
  rchk   : Bool
  rd     : Bool
  wr     : Bool
  ex     : Bool
  dirty  : Bool
  deriving DecidableEq, Repr

/-- A translation that a context or engine waits for (R64). `val` is the EVAL of its faults; a pref names its length and
takes no fault (R79). `mark` is the cached entry of a write that hit with D clear: only D is set at its leaf (R60). -/
structure WalkReq where
  va   : Word
  kind : AccKind
  val  : Word
  pref : Option Nat
  mark : Option TlbEntry
  deriving DecidableEq, Repr

/-- State of a fetched line (R33, R34): well formed, not, or its fill met an uncorrectable error. -/
inductive LineState where
  | ok | ecc | malformed
  deriving DecidableEq, Repr

/-- A line of the instruction cache: its address, its state and its 32 words (R34, R39). -/
structure Line where
  addr  : Word
  state : LineState
  words : List Word32
  deriving DecidableEq, Repr

/-- A line that a context waits for (R34), the request under way that fetches 64 bytes of it, and the bytes that have come. -/
structure Fill where
  addr  : Word
  asked : Option Nat
  got   : List Byte
  deriving DecidableEq, Repr

/-- A row access under way (R83, R91): its offset, the 16-byte units that are done, and the row's bytes as far as they are read, or to be
written. -/
structure RowMove where
  off   : Nat
  done  : Nat
  bytes : List Byte
  deriving DecidableEq, Repr

/-- A pending nget (R124): direction, destination, issue number, its instruction, and whether a handler issued it. -/
structure NGet where
  dir     : Dir
  dest    : Option SReg
  id      : Nat
  epc     : Word
  handler : Bool
  deriving DecidableEq, Repr

/-- An svc request that waits for the kernel's reply (R349). -/
structure SvcReq where
  dest : SReg
  args : List Word
  deriving DecidableEq, Repr

/-- How a task that has passed its commit point ends (R295, R321): discarded, posted, put on the wheel, awaiting an object,
or moved. -/
inductive Ending where
  | drop
  | post (r : CR)
  | wheel (t : Nat) (r : CR)
  | await (obj : Nat) (r : CR)
  deriving DecidableEq, Repr

/-- An arrival that is checked before the next instruction issues (R286, R334): none, a task entry with its RESUME flag, or
a trap vector. -/
inductive Arrival where
  | none | entry (resume : Bool) | vector
  deriving DecidableEq, Repr

/-- One context of a core: owner or harvest (R43, R107, R310, R332). `inval` is the issue number at which its tlbi or tlbv removed
the entries (R347); `born` is the number at which its task started (R39); `further` says that a BAR_OVER has been taken and no
instruction has issued outside a handler since, so that one more is due after an rte (R262). -/
structure Ctx where
  regs       : Vector Reg 16
  pc         : Word
  closedFrom : Option Word
  task       : Option Task
  mode       : Bool
  pmode      : Bool
  inh        : Bool
  dbl        : Bool
  stop       : Bool
  povf       : Bool
  ecause     : BitVec 10
  epc        : Word
  eval       : Word
  async      : List Pend
  held       : List Pend
  bops       : List Bop
  further    : Bool
  srseed     : BitVec 32
  vflag      : BitVec 6
  handles    : Vector Handle 8
  out        : List Out
  rels       : List RelMark
  bank       : Bank
  stall      : Option Stall
  walk       : Option WalkReq
  fill       : Option Fill
  icache     : List Line
  ngets      : List NGet
  sends      : Nat
  svc        : Option SvcReq
  inval      : Option Nat
  ending     : Option Ending
  moving     : Option Nat
  pflt       : Option Nat
  arrive     : Arrival
  born       : Nat
  units      : Option RowMove
  deriving DecidableEq, Repr

/-! ### Local memory, tiles and engines of a core -/

/-- A race tag: the core and launch of one writer (R279). -/
structure Tag where
  core   : Nat
  launch : Nat
  deriving DecidableEq, Repr

/-- The 64 KiB of local memory (R80..R84, R279, R363): bytes that differ from zero, the keystream (launch number) under
which each byte was written, the 16-byte units with an uncorrectable error, and the race tags by 32-byte granule. -/
structure LMem where
  bytes : List Host.Cell
  keys  : List (Nat × Nat)
  bad   : List Nat
  tags  : List (Nat × Tag)
  deriving DecidableEq, Repr

/-- A tile row with its presence bit (R207, R208). -/
structure Row where
  bits    : RowBits
  present : Bool
  deriving DecidableEq, Repr

/-- An accumulator tile (R207). -/
structure Tile where
  ty   : TileType
  dnz  : Bool
  rows : Vector Row 16
  deriving DecidableEq, Repr

/-- An arm record of the sink (R170, R185): tiles, first row, rows, k-blocks, overwrite mode, tile type, the next k-block
of every row, the completion object and the additions made. -/
structure Arm where
  id    : Nat
  wide  : Bool
  tile  : TileNo
  row0  : Nat
  m     : Nat
  kbn   : Nat
  ovw   : Bool
  ty    : TileType
  next  : List Nat
  obj   : Nat
  made  : Nat
  launch : Nat
  deriving DecidableEq, Repr

/-- What a reed delivery carries (R165, R234). -/
structure Delivery where
  reed : Nat
  slot : Nat
  sink : Nat
  tile : TileNo
  row  : Nat
  kb   : Nat
  wide : Bool
  sat  : Bool
  int  : Bool
  lanes : List (BitVec 32)
  launch : Nat
  deriving DecidableEq, Repr

/-- A delivery kept in the reorder store for an arm (R171). -/
structure Stored where
  arm : Nat
  row : Nat
  del : Delivery
  deriving DecidableEq, Repr

/-- A vcord under way (R226): its row, its results, its events, whose it is and when it ends. -/
structure VCord where
  row    : VReg
  bits   : RowBits
  events : BitVec 6
  hv     : Bool
  ready  : Nat
  live   : Bool
  deriving DecidableEq, Repr

/-- A parsed layout record (R94). -/
structure LRec where
  base    : Nat
  strides : List Int
  exts    : List Nat
  skip    : Nat
  lesize  : Nat
  deriving DecidableEq, Repr

/-- What a copy does beside moving elements (R100, R101). -/
inductive CopyKind where
  | plain | bar (home off : Nat) | gather (idx : Nat) | scatter (idx : Nat)
  deriving DecidableEq, Repr

/-- Where an element under way stands: request `id` reads it; the first bytes have been read from own local memory, unit by unit (R83);
it has been read; its first `n` bytes have been written there; request `id` to core `dst` writes it, in granules `gs`; it has been
written; or it has failed. -/
inductive MoveState where
  | reading (id : Nat) | fetching (got : List Byte) | loaded (data : List Byte) | storing (data : List Byte) (n : Nat) | writing (id dst : Nat) (gs : List (Home × Nat)) | done | failed
  deriving DecidableEq, Repr

/-- An element of a copy under way: its numbers in the two records, and where it stands. -/
structure Elem where
  src : Nat
  dst : Nat
  st  : MoveState
  deriving DecidableEq, Repr

/-- The work of an engine operation of the copy engine: a copy's records, or the captured writes of a drain (R228). -/
inductive Work where
  | copy (kind : CopyKind) (src dst : Space) (rs rd : LRec)
  | drain (writes : List (Nat × List Byte))
  deriving DecidableEq, Repr

/-- A queued or running operation of the copy engine (R96..R99): who issued it, in which mode and when (R269), its work, its
object, the elements that are written with all before them, those under way from there on, the bytes credited (R101), the credit in
flight with its bytes, the granules it wrote, and the lowest element that failed with its cause. -/
structure CopyOp where
  op      : Nat
  hv      : Bool
  sup     : Bool
  launch  : Nat
  fork    : Nat
  work    : Work
  obj     : Nat
  fin     : Nat
  elems   : List Elem
  credited : Nat
  credit  : Option (Nat × Nat)
  wrote   : List (Home × Nat)
  failed  : Option (Nat × Cause)
  running : Bool
  deriving DecidableEq, Repr

/-- A range scoreboard entry (R96, R257). -/
structure Range where
  op : Nat
  hv : Bool
  lo : Nat
  hi : Nat
  deriving DecidableEq, Repr

/-- A command of a stream port's queue (R249). -/
inductive PortCmd where
  | send (off n obj : Nat) (id : Nat) (hv : Bool) (epc : Word)
  | close
  deriving DecidableEq, Repr

/-- A stream port (R245, R249): its open stream, the stream whose marker still releases links, its queue, and the command
being served. -/
structure Port where
  opened  : Option Nat
  closing : Option Nat
  queue   : List PortCmd
  serving : Option PortCmd
  deriving DecidableEq, Repr

/-- An await entry (R298): the object, the record, and the context that ended with it, whose accesses up to number `upTo` come before
the record's post (R290). -/
structure AwaitEntry where
  obj  : Nat
  cr   : CR
  hv   : Bool
  upTo : Nat
  deriving DecidableEq, Repr

/-- A word on a lane (R124): its put's number, its sender's launch, and its value. -/
structure LaneWord where
  id     : Nat
  launch : Nat
  word   : Word
  deriving DecidableEq, Repr

/-- A neighbour lane of one direction (R123): words on their way to this core, words buffered here, this core's credits
for sending that way, and the launches of credits on their way back. -/
structure Lane where
  link    : List LaneWord
  buf     : List LaneWord
  credits : Nat
  back    : List Nat
  deriving DecidableEq, Repr

/-- What the owner lends (R318). -/
structure Loan where
  t3     : Bool
  nunits : Nat
  base   : Nat
  deriving DecidableEq, Repr

/-! ### Packets -/

/-- Which agent sent a request: a context, an engine operation, the walker of a request, the fill of a line, or a gateway that writes a far
device's datagram. -/
inductive Src where
  | ctx (hv : Bool) | engine (op : Nat) | walk (w : WalkFor) | fill (hv : Bool) | gate (dev seq : Nat)
  deriving DecidableEq, Repr

/-- The HBM location of a request: physical address, the address that is the cipher's tweak (R363: the virtual one, or for a
page-table entry the physical one), key, race checking, and whether it is a page-table entry. -/
structure GLoc where
  pa   : Nat
  va   : Nat
  key  : Nat
  rchk : Bool
  phys : Bool
  deriving DecidableEq, Repr

/-- A door operation of kind DAT (R106, R234, R259, R297). -/
inductive DoorOp where
  | atom (o : AtomOp) (dbl : Bool) (v c : Word)
  | bindC (nprod : Nat) | bindP | qwait | qadv | qres (p : Nat) | qpub (p : Nat) (v : Word) | qeos (p : Nat)
  | binit (v : Word) | bjoin | barv (v : Word) | bdrop (v : Word) | bexp (v : Word) | bwait (v : Word)
  | credit (n : Nat) | join
  deriving DecidableEq, Repr

/-- What a reply carries: no value, a scalar, bytes, a bind's result, or a fault with its EVAL. -/
inductive Result where
  | ack
  | val (v : Word)
  | data (bs : List Byte)
  | bound (v : Word) (p base lsize lslots : Nat)
  | fault (c : Cause) (v : Word)
  deriving DecidableEq, Repr

/-- Contents of a packet by kind (R234). A row read keeps the granule it has read (R76), and a row write what is still to be
written. A line read is a GRD of a fill, for half a line, for a task that started at `born` (R34, R39). A mark is the walker's OR of A and D
at a leaf that it met as `leaf` (R60). A set-up keeps its ARG field; stream data and a close marker name the destination, by its place in
the stream's order, that they travel to. -/
inductive Body where
  | grd (g : GLoc) (n : Nat) (got : List Byte)
  | line (g : GLoc) (born : Nat)
  | mark (g : GLoc) (k : AccKind) (leaf : Nat)
  | gwr (g : GLoc) (data : List Byte)
  | gat (g : GLoc) (o : AtomOp) (dbl : Bool) (v c : Word)
  | gred (g : GLoc) (ty : TileType) (bits : RowBits)
  | drd (off n : Nat)
  | dwr (off : Nat) (data : List Byte)
  | nibble (off : Nat) (k : Bool) (v : BitVec 4)
  | dat (off : Nat) (op : DoorOp)
  | park (off : Nat) (r : CR)
  | msg (handler : Word) (vals : List Word)
  | rdl (d : Delivery)
  | rreq (seq vn : Nat)
  | rply (res : Result)
  | ack (res : Result)
  | cwr (home : Home) (off : Nat) (g : GLoc) (data : List Byte)
  | eack (seq vn : Nat)
  | rack (reed slot : Nat)
  | rdef (reed slot : Nat)
  | sopn (stream arg : Nat)
  | sres (stream : Nat) (res : Word)
  | sdat (stream pos total off : Nat) (data : List Byte)
  | smrk (stream pos : Nat)
  | unknown (kind : BitVec 6)
  deriving DecidableEq, Repr

/-- Where a packet is (R230, R231): its header at router `cn`, having come over output `via`, waiting for room in an output's queue; in the
queue of an output, as flit `left` from its end is the next to be sent; or handed to its destination. -/
inductive Where where
  | router (cn via : Nat)
  | queue (cn port left : Nat)
  | arrived
  deriving DecidableEq, Repr

/-- A packet in flight, or kept (R233, R241): its number in order of sending, its issuing agent, its two ends, its launch,
its flow's number, its flags, for a reply the request it answers, its ISEQ and TAG fields, where it is, whether it has taken
the escape channel (R231), and the MOD field of the instruction that sent it, which ARG shows of a GAT or DAT (R234). -/
structure Packet where
  id     : Nat
  who    : Src
  src    : Nat
  dst    : Nat
  vn     : Nat
  launch : Nat
  seq    : Nat
  trim   : Bool
  retx   : Bool
  ord    : Bool
  e      : Bool
  rel    : Bool
  req    : Nat
  body   : Body
  iseq   : BitVec 16
  tag    : BitVec 8
  at_    : Where
  esc    : Bool
  mod_   : BitVec 6 := 0
  deriving DecidableEq, Repr

/-- A kept copy of an E packet and the cycle of its last sending (R241). -/
structure Kept where
  pkt  : Packet
  sent : Nat
  deriving DecidableEq, Repr

/-- What a destination remembers of an E flow (R242): every packet below `floor` is executed, and those listed above it, all modulo
2^16. -/
structure FlowSeen where
  src   : Nat
  vn    : Nat
  floor : Nat
  above : List Nat
  deriving DecidableEq, Repr

/-- A result-cache entry (R242): the requester, the request's flow number and issue number, and the result. -/
structure Cached where
  src : Nat
  seq : Nat
  req : Nat
  res : Result
  deriving DecidableEq, Repr

/-- A hole (R237): the flow and number that a trimmed header left, whether it has been asked for, and the header's launch. -/
structure Hole where
  src   : Nat
  vn    : Nat
  seq   : Nat
  asked : Bool
  launch : Nat
  deriving DecidableEq, Repr

/-- A token bucket (R237). -/
structure Bucket where
  src    : Nat
  tokens : Nat
  at_    : Nat
  deriving DecidableEq, Repr

/-- The fabric state of a core's network interface (R232, R233, R237, R241, R242): the next number of each flow, the kept
copies, what it has executed, the result cache, the faults that answered writes, the deliveries of a flow that it deferred, holes, token buckets, and the issue sequences of the
core and of its copy engine. -/
structure Fab where
  next    : List ((Nat × Nat) × Nat)
  kept    : List Kept
  seen    : List FlowSeen
  cache   : List Cached
  acks    : List Cached
  deferred : List (Nat × Nat)
  holes   : List Hole
  buckets : List Bucket
  issued  : Nat
  moved   : Nat
  deriving DecidableEq, Repr

/-- A request that a door holds (R87, R106, R263): the packet it came in, and the new PHASE that a completion answers a bwait with. -/
structure DoorHeld where
  pkt  : Packet
  due  : Option Nat
  deriving DecidableEq, Repr

/-! ### Reeds -/

/-- A pattern instruction, decoded (R192). -/
inductive Pat where
  | band (lo hi : Int) | dil (off : Int) (d n : Nat) | bdiag (bh bw : Nat) | hash (t : Nat) | walk (g : Nat)
  | storBm (mo : Nat) | storNm (n m mo : Nat) (tt : Option Nat)
  | full | uni | isect | diff | kron (p q : Nat) (rows : List (BitVec 8)) | shft (di dj : Int)
  | clip (r0 r1 c0 c1 : Nat) | lim (n : Nat) | swap
  deriving DecidableEq, Repr

/-- A binding of one side of a reed (R189): program, parameters, metadata (offset and byte), and the members of its set in
forward order. -/
structure Binding where
  prog   : List Word32
  par    : List Word32
  md     : List Host.Cell
  nrow   : Nat
  ncol   : Nat
  inv    : Bool
  cols   : List (List Nat)
  launch : Nat
  deriving DecidableEq, Repr

/-- States of a latch (R168). -/
inductive LState where
  | empty | loading | ready | ending | spent
  deriving DecidableEq, Repr

/-- The arguments of an rset that a side queue and the latch keep (R183). -/
structure LoadCmd where
  gen   : BitVec 16
  fmt   : Nat
  uses  : Nat
  ncol  : Nat
  sp    : Bool
  tr    : Bool
  cols  : Nat
  scl   : Nat
  obj   : Nat
  bind  : Option Binding
  deriving DecidableEq, Repr

/-- The arguments of an rfeed (R184). -/
structure FeedCmd where
  gen  : BitVec 16
  fmt  : Nat
  kb   : Nat
  sink : Nat
  tile : TileNo
  row0 : Nat
  m    : Nat
  cols : Nat
  scl  : Nat
  obj  : Nat
  deriving DecidableEq, Repr

/-- A command of a side queue (R159): its core, launch, issue number (R269), and the cycles it has waited at the head
before `since` (R175). -/
structure RCmd where
  core   : Nat
  launch : Nat
  id     : Nat
  body   : LoadCmd ⊕ FeedCmd
  waited : Nat
  since  : Option Nat
  deriving DecidableEq, Repr

/-- The latch of a reed (R158, R166, R168). -/
structure Latch where
  state  : LState
  side   : Bool
  core   : Nat
  launch : Nat
  cmd    : LoadCmd
  left   : Nat
  ended  : Nat
  normal : Nat
  abort  : Bool
  vals   : List Byte
  scales : List Byte
  deriving DecidableEq, Repr

/-- A row in the output buffer (R165): its delivery, whether it has been sent and waits for its notice, the cycle of its
last deferral, and the cycles it has waited before `since` (R175). -/
structure OSlot where
  del    : Delivery
  flying : Bool
  defer  : Option Nat
  waited : Nat
  since  : Option Nat
  deriving DecidableEq, Repr

/-- A running product (R164): the feed, the rows started, computed and accepted, and the values and scales of the row that is
being computed. -/
structure Product where
  cmd      : RCmd
  feed     : FeedCmd
  started  : Nat
  computed : Nat
  accepted : Nat
  row      : Option (List Byte × List Byte)
  deriving DecidableEq, Repr

/-- A reed (R158): latch, side queues (west/south, east/north), running product, output buffer, the number of its next slot,
the cycle of its last row start and the allowed cycles of the loaf up to it (R353), and bindings. A command stays at the head of its queue until it has ended (R159). -/
structure Reed where
  latch : Latch
  qw    : List RCmd
  qe    : List RCmd
  run   : Option Product
  obuf  : List OSlot
  slot  : Nat
  last  : Option Nat
  allow : Nat
  bw    : Option Binding
  be    : Option Binding
  deriving DecidableEq, Repr

/-! ### Cores -/

/-- What a launch's save frame keeps of a core (R323), with what R124, R180 and R298 park of it: reed commands, arms,
store, bindings, pending ngets, noted BAR_OVERs and scoreboard entries. -/
structure Frame where
  launch   : Nat
  lm       : LMem
  tiles    : Vector Tile 4
  arms     : List Arm
  store    : List Stored
  awaits   : List AwaitEntry
  rdvto    : BitVec 32
  bconf    : Word
  trimc    : Word
  en       : Bool
  excld    : Bool
  lanes    : Vector Lane 4
  ports    : Vector Port 2
  srseeds  : BitVec 32 × BitVec 32
  vflags   : BitVec 6 × BitVec 6
  handles  : Vector Handle 8
  queues   : List (Nat × Bool × List RCmd)
  binds    : List (Nat × Bool × Binding)
  revokes  : Nat
  ngets    : List NGet
  bops     : List Bop
  board    : List Range
  deriving DecidableEq, Repr

/-- A PREEMPT under way (R323): the launch to switch to, 0 for none, and whether the owner's state stands in PB0. -/
structure Preempt where
  launch : Nat
  saved  : Bool
  deriving DecidableEq, Repr

/-- A compute or service core (R9, R43, R107, R312). `gone` lists reclaimed loans with the number at which each was reclaimed (R326);
`tilesOf` is the launch under whose keystream the tiles stand (R363). -/
structure Core where
  owner    : Ctx
  harv     : Ctx
  launch   : Nat
  lm       : LMem
  tiles    : Vector Tile 4
  tilesOf  : Nat
  arms     : List Arm
  store    : List Stored
  vcords   : List VCord
  dtlb     : List TlbEntry
  itlb     : List TlbEntry
  copies   : List CopyOp
  board    : List Range
  ports    : Vector Port 2
  awaits   : List AwaitEntry
  lanes    : Vector Lane 4
  bconf    : Word
  trimc    : Word
  rdvto    : BitVec 32
  en       : Bool
  permit   : Bool
  excld    : Bool
  parked   : Bool
  parking  : Option Nat
  revokes  : Nat
  loan     : Loan
  gone     : List (Nat × Loan)
  preempt  : Option Preempt
  since    : Vector Nat 8
  elig     : Vector Bool 8
  lastChan : Vector Nat 8
  fab      : Fab
  qwaits   : List DoorHeld
  bwaits   : List DoorHeld
  frames   : List Frame
  retired  : Bool
  corrected : Nat
  deriving DecidableEq, Repr

/-! ### Slices, loaves, links, streams, the bellows -/

/-- Where a walk stands (R58): not begun; a table whose entry is to be read; its GRD under way; the entry that came; the OR of A and D at
the leaf `e` at `pte` to be sent, under way, or answered with the entry `x` that it found (R60); or the fault that came in place of an
answer. -/
inductive WalkPhase where
  | start
  | next (table lvl : Nat)
  | asked (table lvl id : Nat)
  | got (table lvl entry : Nat)
  | mark (pte lvl e : Nat)
  | marking (pte lvl e id : Nat)
  | marked (pte lvl e x : Nat)
  | failed (c : Cause)
  deriving DecidableEq, Repr

/-- A request for a page walk in arrival order (R64), and where its walk stands. -/
structure Walk where
  core   : Nat
  who    : WalkFor
  req    : WalkReq
  phase  : WalkPhase
  deriving DecidableEq, Repr

/-- A queue's name: launch and queue index (R287, R289). -/
structure QName where
  launch : Nat
  idx    : Nat
  deriving DecidableEq, Repr

/-- A mapped queue (R291): its name, its header as the slice holds it (R289), when it was mapped, the first quantum boundary at or after
that (R292), and the cycle and child index of the last pick from it (R294). -/
structure QSlot where
  name : QName
  head : Nat
  tail : Nat
  at_  : Nat
  from_ : Nat
  last : Option (Nat × Nat)
  deriving DecidableEq, Repr

/-- A record on a timer wheel (R301): its release time, the tick before which it came, and the context that ended with it, whose
accesses up to number `upTo` come before the record's post (R290). -/
structure WheelRec where
  t    : Nat
  cr   : CR
  core : Nat
  tick : Nat
  hv   : Bool
  upTo : Nat
  deriving DecidableEq, Repr

/-- A slice (R9, R64, R291, R301). -/
structure Slice where
  tlb     : List TlbEntry
  walks   : List Walk
  slots   : List (Nat × QSlot)
  waiting : List QName
  quantum : Nat
  wheel   : List WheelRec
  ticked  : Nat
  deriving DecidableEq, Repr

/-- A loaf (R241, R338, R352, R354, R355). `octet` is the aligned period of 8 cycles in which `starts` rows have started; `prevReed` is the last
reed granted before it. `allowed` counts the cycles below `stepAt` in which the throttle allowed row starts (R353). -/
structure Loaf where
  floor    : Nat
  step     : Nat
  rampEn   : Bool
  period   : Nat
  g        : Nat
  perStart : Nat
  held     : Bool
  starts   : Nat
  octet    : Nat
  most     : Nat
  lastReed : Nat
  prevReed : Nat
  stepAt   : Nat
  allowed  : Nat
  heldWin  : Bool
  ramping  : Bool
  modeE    : Bool
  rto      : Nat
  reports  : Nat
  target   : Nat
  deriving DecidableEq, Repr

/-- An output of a router (R230, R236, R239, R240): the cycles of its recent CRC failures, its replays, a retrain that is due, its
width, the packets it has trimmed, the cycle from which it may send its next flit, the virtual network it served last of VN1 to
VN3, and the packets of the flits in the group being sent, in the group that the receiver has not accepted, and to be replayed. -/
structure Link where
  fails   : List Nat
  replays : Nat
  due     : Bool
  half    : Bool
  trims   : Nat
  next    : Nat
  last    : Nat
  group   : List Nat
  check   : List Nat
  replay  : List Nat
  deriving DecidableEq, Repr

/-- Stages of a stream (R245..R248). -/
inductive StreamState where
  | setup | opened | closing
  deriving DecidableEq, Repr

/-- A stream (R245): its source, destinations and the links of its path in order, those reserved and released, its wait,
the producer number at each destination, and the service of its current ssend: the slots reserved for it, those whose data is all there, the
destinations that are done with it, and the first that discarded it. -/
structure Stream where
  id       : Nat
  core     : Nat
  port     : Nat
  launch   : Nat
  dests    : List Nat
  path     : List Nat
  hnd      : HandleNo
  state    : StreamState
  reserved : Nat
  released : Nat
  waited   : Nat
  since    : Option Nat
  prods    : List (Nat × Option Nat)
  slots    : List (Nat × Word)
  arrived  : List (Nat × Nat)
  done     : List Nat
  failed   : Option Nat
  out      : Nat
  deriving DecidableEq, Repr

/-- A member's part in a bellows operation (R252..R257): its core, context's issue number, object, buffer, and what it
sent: nothing yet, a value, or an abort mark with its cause. -/
structure Member where
  core : Nat
  id   : Nat
  hv   : Bool
  op   : RedOp
  ty   : RedType
  bar  : Bool
  buf  : Nat
  obj  : Nat
  sent : Option (Except Cause (List Byte))
  done : Bool
  deriving DecidableEq, Repr

/-- A combined value of a node: the value (none: an abort), and the lowest member below it (R256). -/
structure NodeVal where
  node : BellowsNode
  val  : Option (List Byte)
  low  : Nat
  deriving DecidableEq, Repr

/-- A bellows operation (R252): its launch, descriptor, occurrence, members, node values, and the result of the root. -/
structure Bellows where
  op      : Nat
  launch  : Nat
  desc    : Word
  nth     : Nat
  cores   : List Nat
  members : List Member
  nodes   : List NodeVal
  deriving DecidableEq, Repr

/-! ### Launches and the crust -/

/-- Who asked for a launch: a context with the issue number of its access, a service core, or the PCIe host (R307, R365). -/
inductive Launcher where
  | ctx (cn : Nat) (hv : Bool) (out : Nat) | host
  deriving DecidableEq, Repr

/-- A launch request that the crust has not answered (R307). -/
structure LReq where
  id     : Nat
  by_    : Launcher
  launch : Nat
  desc   : Word
  bytes  : List Byte
  obj    : Nat
  cls    : Nat
  deriving DecidableEq, Repr

/-- A launch (R303..R305, R333, R356). `energy` is what its events have been charged, in millionths of the unit of ECNT (R357). -/
structure Launch where
  num    : Nat
  by_    : Launcher
  obj    : Nat
  parent : Nat
  root   : Nat
  qarea  : Word
  ttab   : Word
  lq     : Nat
  cls    : Nat
  place  : List Nat
  entry  : Word
  ebud   : Word
  energy : Nat
  live   : Bool
  bells  : List (Nat × Word × Nat)
  deriving DecidableEq, Repr

/-- A post that hardware makes and that may wait for room (R290): the record, the core it is posted from, its queue channel if fixed, and
the context whose release it is, with the number up to which that context's accesses are to be performed first. -/
structure Post where
  id    : Nat
  cr    : CR
  core  : Nat
  qchan : Option Nat
  after : Option (Bool × Nat)
  deriving DecidableEq, Repr

/-- A task parked on a swapped page, in the resident kernel's hands (R308), and the context that it left, with the number of its
accesses then (R290). -/
structure Swapped where
  pte  : Nat
  cr   : CR
  core : Nat
  hv   : Bool
  upTo : Nat
  deriving DecidableEq, Repr

/-- A report of the service network (R339). -/
structure Report where
  loaf   : Nat
  seq    : Nat
  kind   : Nat
  core   : Nat
  svc    : Bool
  hv     : Bool
  status : Word
  cause  : Nat
  launch : Nat
  rpc    : Word
  epc    : Word
  val    : Word
  deriving DecidableEq, Repr

/-- The label under which an HBM granule was encrypted (R63, R363). -/
structure Label where
  key   : Nat
  ver   : Nat
  tweak : Nat
  phys  : Bool
  deriving DecidableEq, Repr

/-- A 128-byte line as it stood before one write of a program (R39): its number, its bytes and the labels of its granules, the
core that wrote, and the number at which a fence.full of that core at scope .dev completed after the write. -/
structure OldLine where
  line   : Nat
  bytes  : List Byte
  labels : List (Option Label)
  writer : Nat
  fenced : Option Nat
  deriving DecidableEq, Repr

/-- The eight stacks (R51, R70, R279, R363): bytes that differ from zero, labels and race tags by granule, the granules
with an uncorrectable error, the lines as fetches may still see them, oldest write first (R39), and the hand-overs that fail on the next
access that a unit of the part makes at a die, with whether they are reported (R364). -/
structure Hbm where
  bytes  : List Host.Cell
  labels : List (Nat × Label)
  tags   : List (Nat × Tag)
  bad    : List Nat
  corrected : List (Nat × Nat)
  old    : List OldLine
  drops  : List (Nat × Bool)
  deriving DecidableEq, Repr

/-- Data for another device that a gateway gathers for a datagram, from one operation of one core, with the packets that brought it
(R367). -/
structure GwBuf where
  dev  : Nat
  off  : Nat
  data : List Byte
  pkts : List Packet
  deriving DecidableEq, Repr

/-- A datagram that a gateway keeps until the far device acknowledges it (R367), with the packets that brought its data. -/
structure Datagram where
  dev  : Nat
  seq  : Nat
  off  : Nat
  data : List Byte
  sent : Nat
  pkts : List Packet
  deriving DecidableEq, Repr

/-- A far device's datagram whose data is being written (R367): the requests that are not yet performed, and whether one failed. -/
structure GwIn where
  dev  : Nat
  seq  : Nat
  reqs : List Nat
  bad  : Bool
  deriving DecidableEq, Repr

/-- The export window of this device (R367): device offset, length, and the global memory it names. -/
structure ExportWin where
  off    : Nat
  len    : Nat
  va     : Word
  launch : Nat
  deriving DecidableEq, Repr

/-- A page that is swapped out (R343): the entry's address, its level, its frame, the number at which its tlbi was made, whether flash holds it,
and its bytes and labels by their offset in the page. -/
structure FlashPage where
  pte    : Nat
  lvl    : Nat
  frame  : Nat
  id     : Nat
  stored : Bool
  bytes  : List Host.Cell
  labels : List (Nat × Label)
  deriving DecidableEq, Repr

/-- An answer of a debug unit (R340): data, an acknowledgement, or a refusal, with the core that was asked, or the launch for a TEARDOWN. -/
inductive SvcReply where
  | data (unit : Nat) (bs : List Byte)
  | ack (unit : Nat)
  | refused (unit : Nat)
  deriving DecidableEq, Repr

/-- The crust (R350, R351, R359..R367). The kept image stands with its SHA-384; `input` is what the outside gave a start that has not ended;
`fetchAt` is the cycle from which a fetch has made no progress (R362). `uses` counts for each launch the HBM accesses that units of the part
make for it in one step (R357). -/
structure Crust where
  limit    : Nat
  nextLim  : Nat
  cstep    : Nat
  power    : Nat
  above    : Bool
  overRun  : Nat
  cap      : Bool
  windowAt : Nat
  step     : Nat
  warm     : Bool
  err      : Bool
  tries    : Nat
  warmreq  : Bool
  kernelReq : Bool
  retry    : Bool
  hostMode : Bool
  input    : Option StartInput
  keptImg  : Option (List Byte × List Byte)
  keptTrain : Bool
  keptLinks : Bool
  svcMems  : List (Nat × List Host.Cell)
  sysRoot  : Nat
  sysVer   : Nat
  keyVers  : List (Nat × Nat)
  hostRoot : Nat
  fetchTry : Nat
  fetchAt  : Nat
  peers    : List Nat
  exports  : List ExportWin
  gwBufs   : List GwBuf
  gwOut    : List Datagram
  gwNext   : List (Nat × Nat)
  gwSeen   : List (Nat × Nat)
  gwIn     : List GwIn
  gwAcked  : List (Nat × Nat × Bool)
  swapped  : List Swapped
  pool     : List Nat
  flash    : List FlashPage
  replies  : List SvcReply
  reports  : List Report
  slots    : List (Nat × List Byte)
  barOut   : List (BitVec 32)
  uses     : List (Nat × Nat)
  deriving DecidableEq, Repr

/-- The issuing context: core and owner (false) or harvest (true). -/
structure Cur where
  core : Nat
  hv   : Bool
  deriving DecidableEq, Repr

/-- The state of the part. -/
structure State where
  cur      : Cur
  agenda   : List Turn
  now      : Nat
  time     : Nat
  slewLeft : Int
  slewAcc  : Nat
  fresh    : Nat
  ids      : Nat
  cores    : List (Nat × Core)
  reeds    : List (Nat × Reed)
  slices   : List (Nat × Slice)
  loaves   : List (Nat × Loaf)
  links    : List (Nat × Link)
  hbm      : Hbm
  net      : List Packet
  streams  : List Stream
  bellows  : List Bellows
  launches : List Launch
  lreqs    : List LReq
  posts    : List Post
  crust    : Crust
  deriving DecidableEq, Repr

/-! ### Outcomes other than a next state -/

/-- Reasons a step stops with a fault. No step of this part does: every fault of the specification is a trap that a next
state holds (R334), and a context that stops is a state of the part (R337). -/
inductive Fault where
  /-- Raised by nobody: the type needs a value. Safe. -/
  | unused
  deriving DecidableEq, Repr

/-- Reasons a step has no meaning. -/
inductive Refusal where
  /-- Raised by an arm of `exec` whose instruction has no meaning in this model yet. Safe: nothing is said of it. -/
  | notModelled (mnemonic : String)
  deriving DecidableEq, Repr

/-! ### Reset values -/

/-- A register at reset: zero and present (R107). -/
def Reg.reset : Reg := ⟨0, true⟩

/-- A register file at reset (R107). -/
def Regs.reset : Vector Reg 16 := Vector.replicate 16 Reg.reset

/-- A reserve bank at reset; the specification gives no value, so every field is empty. -/
def Bank.reset : Bank :=
  { regs := Regs.reset, rpc := 0, handles := Vector.replicate 8 .unbound, srseed := 1, vflag := 0, task := none,
    restart := none }

/-- A context at reset (R107, R143, R211, R332). -/
def Ctx.reset : Ctx :=
  { regs := Regs.reset, pc := 0, closedFrom := none, task := none, mode := false, pmode := false, inh := false,
    dbl := false, stop := false, povf := false, ecause := 0, epc := 0, eval := 0, async := [], held := [], bops := [],
    further := false, srseed := 1, vflag := 0, handles := Vector.replicate 8 .unbound, out := [], rels := [],
    bank := Bank.reset, stall := none, walk := none, fill := none, icache := [], ngets := [], sends := 0, svc := none,
    inval := none, ending := none, moving := none, pflt := none, arrive := .none, born := 0, units := none }

/-- Local memory at reset: nothing listed, no error, every tag empty (R359 step 9). -/
def LMem.reset : LMem := ⟨[], [], [], []⟩

/-- A tile at a launch start (R188). -/
def Tile.reset : Tile := { ty := .f32, dnz := false, rows := Vector.replicate 16 ⟨0, true⟩ }

/-- A stream port with no stream (R245). -/
def Port.reset : Port := ⟨none, none, [], none⟩

/-- A lane with four credits (R123). -/
def Lane.reset : Lane := ⟨[], [], 4, []⟩

/-- No loan (R318). -/
def Loan.none : Loan := ⟨false, 0, 0⟩

/-- Fabric state at reset. -/
def Fab.reset : Fab := ⟨[], [], [], [], [], [], [], [], 0, 0⟩

/-- A core at reset (R107, R188, R84, R175, R238, R312, R318). -/
def Core.reset : Core :=
  { owner := Ctx.reset, harv := Ctx.reset, launch := 0, lm := LMem.reset, tiles := Vector.replicate 4 Tile.reset, tilesOf := 0,
    arms := [], store := [], vcords := [], dtlb := [], itlb := [], copies := [], board := [],
    ports := Vector.replicate 2 Port.reset, awaits := [], lanes := Vector.replicate 4 Lane.reset, bconf := 0, trimc := 0,
    rdvto := 0x00010000, en := false, permit := false, excld := false, parked := false, parking := none, revokes := 0,
    loan := Loan.none, gone := [], preempt := none, since := Vector.replicate 8 0, elig := Vector.replicate 8 false,
    lastChan := Vector.replicate 8 63, fab := Fab.reset, qwaits := [], bwaits := [], frames := [], retired := false,
    corrected := 0 }

/-- A service core at reset: its contexts are always in supervisor mode (R329, R332). -/
def Core.service : Core :=
  { Core.reset with owner := { Ctx.reset with mode := true }, harv := { Ctx.reset with mode := true } }

/-- The arguments of no load. -/
def LoadCmd.none : LoadCmd := ⟨0, 0, 0, 0, false, false, 0, 0, 0, Option.none⟩

/-- An EMPTY latch (R168). -/
def Latch.reset : Latch :=
  { state := .empty, side := false, core := 0, launch := 0, cmd := LoadCmd.none, left := 0, ended := 0, normal := 0,
    abort := false, vals := [], scales := [] }

/-- A reed at reset (R168, R189). -/
def Reed.reset : Reed := ⟨Latch.reset, [], [], none, [], 0, none, 0, none, none⟩

/-- A slice at reset (R359 step 9). -/
def Slice.reset : Slice := ⟨[], [], [], [], 0, [], 0⟩

/-- A loaf at reset (R241, R352, R354, R355, R338). -/
def Loaf.reset : Loaf :=
  { floor := 0, step := 0, rampEn := true, period := 0x07D0, g := 0, perStart := 0, held := false, starts := 0, octet := 0,
    most := 0, lastReed := 0, prevReed := 0, stepAt := 0, allowed := 0, heldWin := false, ramping := false, modeE := false, rto := 4, reports := 0, target := 0 }

/-- A link at reset: full width (R240). -/
def Link.reset : Link := ⟨[], 0, false, false, 0, 0, 3, [], [], []⟩

/-- HBM with nothing written; no step clears it (R359). -/
def Hbm.reset : Hbm := ⟨[], [], [], [], [], [], []⟩

/-- The crust at power-on (R351, R359, R365). -/
def Crust.reset : Crust :=
  { limit := 0x7D0, nextLim := 0x7D0, cstep := 0, power := 0, above := false, overRun := 0, cap := false, windowAt := 0,
    step := 0, warm := false, err := false, tries := 0, warmreq := false, kernelReq := false, retry := false,
    hostMode := false, input := none, keptImg := none, keptTrain := false, keptLinks := false, svcMems := [],
    sysRoot := 0, sysVer := 0, keyVers := [], hostRoot := 0, fetchTry := 0, fetchAt := 0, peers := [], exports := [],
    gwBufs := [], gwOut := [], gwNext := [], gwSeen := [], gwIn := [], gwAcked := [], swapped := [], pool := [], flash := [], replies := [], reports := [], slots := [], barOut := [], uses := [] }

/-- The part at power-on, before step 1 of the start sequence (R359). -/
def State.reset : State :=
  { cur := ⟨0, false⟩, agenda := [], now := 0, time := 0, slewLeft := 0, slewAcc := 0, fresh := 0, ids := 0, cores := [],
    reeds := [], slices := [], loaves := [], links := [], hbm := Hbm.reset, net := [], streams := [], bellows := [],
    launches := [], lreqs := [], posts := [], crust := Crust.reset }

end Sys2Proof.Machine
end

