-- ==== Sys2Proof/Machine/Mem.lean ====
section
/-! DEFINITION. Plain operations on the data of the state: numbered maps, byte cells in their canonical form, bytes and
numbers, and bit fields. No rule of the part stands here but the byte order (R4) and the canonical form of memory. -/

namespace Sys2Proof.Machine

open Sys2Proof

/-! ### Numbered maps -/

/-- The value listed for `k`, if any. -/
def mfind {α : Type} : List (Nat × α) → Nat → Option α
  | [], _ => none
  | (j, v) :: rest, k => if j == k then some v else mfind rest k

/-- The value of `k`, or `d` where none is listed. -/
def mget {α : Type} (m : List (Nat × α)) (k : Nat) (d : α) : α := (mfind m k).getD d

/-- The map with `k` at `v`; the list stays in rising order of number. -/
def mset {α : Type} : List (Nat × α) → Nat → α → List (Nat × α)
  | [], k, v => [(k, v)]
  | (j, w) :: rest, k, v =>
    if k < j then (k, v) :: (j, w) :: rest
    else if k == j then (k, v) :: rest
    else (j, w) :: mset rest k v

/-- The map without `k`. -/
def mdel {α : Type} (m : List (Nat × α)) (k : Nat) : List (Nat × α) := m.filter (fun p => p.1 != k)

/-! ### Byte cells: strictly rising addresses, no zero byte listed -/

/-- The byte at address `a`: zero where none is listed. -/
def cellGet : List Host.Cell → Nat → Byte
  | [], _ => 0
  | (j, b) :: rest, a => if j == a then b else cellGet rest a

/-- The cells with byte `b` at address `a`; a zero byte is not listed. -/
def cellSet : List Host.Cell → Nat → Byte → List Host.Cell
  | [], a, b => if b == 0 then [] else [(a, b)]
  | (j, c) :: rest, a, b =>
    if a < j then (if b == 0 then (j, c) :: rest else (a, b) :: (j, c) :: rest)
    else if a == j then (if b == 0 then rest else (a, b) :: rest)
    else (j, c) :: cellSet rest a b

/-- Every address of the list lies above `lo`, the addresses rise strictly and no byte is zero. -/
def cellsAbove (lo : Nat) : List Host.Cell → Bool
  | [] => true
  | (j, b) :: rest => decide (lo ≤ j) && (b != 0) && cellsAbove (j + 1) rest

/-- The canonical form of a list of cells. -/
def Memory.wf (m : List Host.Cell) : Bool := cellsAbove 0 m

/-- `n` bytes from address `a` upward. -/
def cellRead (m : List Host.Cell) (a : Nat) : Nat → List Byte
  | 0 => []
  | n + 1 => cellGet m a :: cellRead m (a + 1) n

/-- The cells with `bs` written from address `a` upward. -/
def cellWrite (m : List Host.Cell) (a : Nat) : List Byte → List Host.Cell
  | [] => m
  | b :: bs => cellWrite (cellSet m a b) (a + 1) bs

/-! ### Bytes and numbers (R4) -/

/-- The number whose little-endian bytes are `bs`. -/
def leNat : List Byte → Nat
  | [] => 0
  | b :: bs => b.toNat + 256 * leNat bs

/-- The `n` little-endian bytes of a number. -/
def natLe : Nat → Nat → List Byte
  | 0, _ => []
  | n + 1, v => BitVec.ofNat 8 v :: natLe n (v / 256)

/-- Bits [lo + len − 1 : lo] of a number. -/
def bitsOf (x lo len : Nat) : Nat := x / 2 ^ lo % 2 ^ len

/-- A number of `w` bits read as two's complement. -/
def sgn (w x : Nat) : Int := if x % 2 ^ w < 2 ^ (w - 1) then (x % 2 ^ w : Nat) else (x % 2 ^ w : Nat) - (2 ^ w : Nat)

/-- SignExtend of R8. -/
def signExtend (x : Nat) (n : Nat) : Word := BitVec.ofInt 64 (sgn n x)

/-- The words of a byte list, four bytes each (R4). -/
def wordsOfBytes : List Byte → List Word32
  | a :: b :: c :: d :: rest => BitVec.ofNat 32 (leNat [a, b, c, d]) :: wordsOfBytes rest
  | _ => []

/-- Elements of a list replaced where a test holds. -/
def updWhere {α : Type} (p : α → Bool) (f : α → α) (l : List α) : List α := l.map (fun x => if p x then f x else x)

/-- The list of numbers a, a + 1, …, a + n − 1. -/
def natRange (a n : Nat) : List Nat := (List.range n).map (a + ·)

/-- Equality of sets of numbers kept without repeats: the list with `x`. -/
def addNew (l : List Nat) (x : Nat) : List Nat := if l.contains x then l else l ++ [x]

end Sys2Proof.Machine
end

