-- ==== Sys2Proof/WellFormed.lean ====
section
/-! DEFINITION. Which instructions are well formed: the operand limits that an encoding alone decides and whose breach
raises ILLEGAL_OP (R23..R32, R41 and the Faults part of every entry). Limits that a register, the mode or other state
decides are checked by the meanings. The events of the part have no encoding and no such limit. -/

namespace Sys2Proof

/-- Elements of a row by element code (R219). -/
def elemCount (code : Nat) : Nat :=
  match code with
  | 0 | 1 | 12 => 32
  | 2 | 3 | 4 | 5 | 7 => 64
  | 6 | 8 => 128
  | 9 => 256
  | _ => 16

/-- Element codes that vcvt converts from and to (R157, R220). -/
def convCode (code : Nat) : Bool := code ≤ 12 && code != 9

/-- Element codes whose drain carries block scales (R227). -/
def scaledCode (code : Nat) : Bool := 2 ≤ code && code ≤ 8

/-- A drained format: codes 0..8 and 10..12 (R228). -/
def drainCode (code : Nat) : Bool := convCode code

/-- A floating tile type may flush subnormals (R207). -/
def TileType.isFloat : TileType → Bool
  | .f32 | .f16 | .bf16 => true
  | .i32 | .i16 | .i8 => false

/-- Word index and alignment of a literal branch target (R24). -/
def litTargetOk (t : Word) : Bool := t.toNat % 4 == 0 && 2 ≤ t.toNat / 4 % 32

/-- The operand of a load form of amo or amol (R77). -/
def atomOk (o : AtomOp) (r : AtomOrd) (bIsZero : Bool) : Bool :=
  match o with
  | .ld => bIsZero && (r == .none || r == .acq)
  | _ => true

/-- Operand limits of every instruction form. -/
def Instr.wf : Instr → Bool
  | .bext _ _ p w | .bins _ _ p w => p.val + w.val + 1 ≤ 64
  | .b _ w | .bc .eq _ _ _ w | .bc .ne _ _ _ w | .bc .lt _ _ _ w | .bc .ge _ _ _ w | .bc .ltu _ _ _ w
  | .bc .geu _ _ _ w | .call _ _ w | .cont _ _ w => 2 ≤ w.val
  | .bc .z _ y _ w | .bc .nz _ y _ w => 2 ≤ w.val && y.val == 0
  | .bLit t | .callLit _ t | .contLit _ t => litTargetOk t
  | .bcLit .z _ y t | .bcLit .nz _ y t => litTargetOk t && y.val == 0
  | .bcLit .eq _ _ t | .bcLit .ne _ _ t | .bcLit .lt _ _ t | .bcLit .ge _ _ t | .bcLit .ltu _ _ t
  | .bcLit .geu _ _ t => litTargetOk t
  | .send d _ _ n | .sendLit d _ n _ => n.val ≤ 4 && d.val + n.val ≤ 16 && (n.val != 0 || d.val == 0)
  | .amol o _ r _ _ y | .amo o _ r _ _ y => atomOk o r (y.val == 0)
  | .amolLit o _ r _ _ _ | .amoLit o _ r _ _ _ => atomOk o r false
  | .rset _ _ _ _ _ sp tr uses ncol1 => uses.toNat != 0 && (sp || (!tr && ncol1.val ≤ 15))
  | .rfeed _ _ _ _ _ _ _ _ row0 m1 => row0.val + m1.val ≤ 15
  | .tarm _ wide _ t row0 m1 _ => row0.val + m1.val ≤ 15 && (!wide || t.val == 0)
  | .tcfg _ ty dnz => !dnz || ty.isFloat
  | .tdrain _ _ y _ f1 f2 r1 r2 s1 s2 =>
      drainCode f1.val && (drainCode f2.val || f2.val == 15) && r1.val ≤ 4 && r2.val ≤ 4
        && (scaledCode f1.val || s1.toNat == 0) && (scaledCode f2.val || s2.toNat == 0)
        && (f2.val != 15 || (y.val == 0 && r2.val == 0))
  | .vnnz _ _ e => e.val ≤ 12
  | .vcvt _ _ part tf sf rnd _ =>
      convCode tf.val && convCode sf.val && rnd.val ≤ 4
        && part.val * Nat.min (elemCount sf.val) (elemCount tf.val) < Nat.max (elemCount sf.val) (elemCount tf.val)
  | .vq v a n tf sf rnd sat =>
      (sf.val == 10 || sf.val ≤ 1) && ((2 ≤ tf.val && tf.val ≤ 6) || tf.val == 9) && rnd.val ≤ 4
        && a.val % 16 + elemCount tf.val / elemCount sf.val ≤ 16 && n != v
        && (tf.val != 9 || (rnd.val == 0 && !sat))
  | .vscale _ _ _ f rnd _ => (f.val == 10 || f.val ≤ 1) && rnd.val ≤ 4
  | .vcord _ _ _ n => 4 ≤ n.val && n.val ≤ 30
  | .sopen _ _ sh c _ _ => sh != .one || c.toNat == 0
  | .launch _ _ _ cls => 2 ≤ cls.val && cls.val ≤ 5
  | .tlbi all _ _ y | .tlbv all _ y => !all || y.val == 0
  | .svc _ a n => n.val ≤ 4 && a.val + n.val ≤ 16 && (n.val != 0 || a.val == 0)
  | .add .. | .addLit .. | .sub .. | .subLit .. | .mul .. | .mulLit .. | .mulh .. | .mulhLit .. | .mulhu ..
  | .mulhuLit .. | .div .. | .divLit .. | .divu .. | .divuLit .. | .rem .. | .remLit .. | .remu .. | .remuLit ..
  | .and .. | .andLit .. | .or .. | .orLit .. | .xor .. | .xorLit .. | .shl .. | .shlLit .. | .shr .. | .shrLit ..
  | .sra .. | .sraLit .. | .min .. | .minLit .. | .max .. | .maxLit .. | .minu .. | .minuLit .. | .maxu ..
  | .maxuLit .. | .cmpeq .. | .cmpeqLit .. | .cmplt .. | .cmpltLit .. | .cmpltu .. | .cmpltuLit .. | .clz ..
  | .popc .. | .sel .. | .selLit .. | .addi .. | .addiLit .. | .andi .. | .andiLit .. | .ori .. | .oriLit ..
  | .xori .. | .xoriLit .. | .li .. | .liLit .. | .shli .. | .shri .. | .srai .. | .lea .. | .leaLit .. => true
  | .callr .. | .ret .. | .done | .nput .. | .nget .. | .ldl .. | .stl .. | .ldlV .. | .ldlVLit .. | .stlV ..
  | .stlVLit .. | .ldp .. | .ldpLit .. | .stp .. | .stpLit .. | .stpN .. | .stpNLit .. | .qbindC .. | .qbindP ..
  | .qwait .. | .qadv .. | .qres .. | .qpub .. | .qeos .. | .cpy .. | .cpyBar .. | .cgat .. | .cscat .. | .cwait ..
  | .cpoll .. | .ldg .. | .stg .. | .ldgV .. | .ldgVLit .. | .stgV .. | .stgVLit .. | .gred .. | .gredLit ..
  | .pref .. | .prefLit .. | .rstat .. | .rcancel .. | .rcancelArm .. | .pload .. | .pnnz .. | .tzero .. => true
  | .vadd .. | .vaddLit .. | .vsub .. | .vsubLit .. | .vmul .. | .vmulLit .. | .vfma .. | .vfmaLit .. | .vmin ..
  | .vminLit .. | .vmax .. | .vmaxLit .. | .vabs .. | .vneg .. | .vand .. | .vandLit .. | .vor .. | .vorLit ..
  | .vxor .. | .vxorLit .. | .vshl .. | .vshlLit .. | .vshr .. | .vshrLit .. | .vmov .. | .vmovLit .. | .vsel ..
  | .vselLit .. | .vshuf .. | .vshufLit .. | .vcmpEq .. | .vcmpEqLit .. | .vcmpNe .. | .vcmpNeLit .. | .vcmpLt ..
  | .vcmpLtLit .. | .vcmpLe .. | .vcmpLeLit .. | .vcmpGt .. | .vcmpGtLit .. | .vcmpGe .. | .vcmpGeLit ..
  | .vcmpUn .. | .vcmpUnLit .. | .vredAdd .. | .vredMin .. | .vredMax .. | .vsplat .. | .vext .. | .vins .. => true
  | .ssend .. | .sclose .. | .bred .. | .bbar .. | .bjoin .. | .barv .. | .barvLit .. | .bdrop .. | .bdropLit ..
  | .bexp .. | .bexpLit .. | .bwait .. | .bwaitLit .. | .binit .. | .binitLit .. | .spawn .. | .spawnLit ..
  | .spawnPark .. | .spawnParkLit .. | .join .. | .await .. | .awaitLit .. | .migrate .. | .migrateLit ..
  | .yield .. | .whlAt .. | .whlAtLit .. | .lend .. | .reclaim | .hvon | .hvoff | .trap .. | .rte .. | .rteAt ..
  | .csrr .. | .csrw .. | .halt | .fence .. => true
  | .srseedWrite .. | .rdvtoWrite .. | .hvctlWrite .. | .ebudWrite .. | .pwrstatWrite .. | .pstepWrite ..
  | .rampWrite .. | .fabmodeWrite .. | .bconfWrite .. | .trimcWrite .. | .statusWrite .. | .vflagRead .. => true
  | .grd .. | .gwr .. | .gat .. | .gredPacket .. | .drd .. | .dwr .. | .dat .. | .qbindConsumerDoor ..
  | .qbindProducerDoor .. | .qresDoor .. | .qpubDoor .. | .qeosDoor .. | .qwaitDoor .. | .qadvDoor ..
  | .binitDoor .. | .bjoinDoor .. | .barvDoor .. | .bdropDoor .. | .bexpDoor .. | .bwaitDoor ..
  | .barrierCredit .. | .joinDoorOp .. | .parkFrameWrite .. | .msg .. | .rdl .. | .rreq .. | .rply .. | .ack ..
  | .cwr .. | .eack .. | .rack .. | .rdef .. | .sres .. | .sopn .. | .sdat .. | .streamSlotPublish .. | .smrk ..
  | .unassignedKind .. | .trim .. | .trimmedHeader .. | .rreqSend .. | .tokenRefill .. | .retransmitTimeout ..
  | .linkReplay .. | .linkRetrain .. | .tlbWalk .. | .lineFill .. | .migration .. | .copyStart ..
  | .copyComplete .. | .copyStop .. | .drainComplete .. | .vcordComplete .. | .sideQueueHead .. | .latchLoaded ..
  | .rowStart .. | .rowComputed .. | .deliveryResend .. | .rdvtoTimeout .. | .laneWordArrival ..
  | .laneCreditReturn .. | .presenceTimeout .. | .sopenSetupTimeout .. | .ssendServe .. | .ssendComplete ..
  | .bellowsContribute .. | .bellowsNodeCombine .. | .bellowsResult .. | .pick .. | .hardwarePost ..
  | .quantumBoundary .. | .wheelTick .. | .launchAccept .. | .hostLaunchDoorbell .. | .launchEnd ..
  | .harvestPark .. | .harvestResume .. | .asyncFaultTake .. | .svcReply .. | .read .. | .write .. | .restart ..
  | .repost .. | .preempt .. | .permit .. | .retire .. | .teardown .. | .reset .. | .powerWindow ..
  | .throttleStepChange .. | .rampPeriod .. | .coldStart .. | .warmStart .. | .warmreq .. | .imageFetchRestart
  | .gatewayDatagram .. | .gatewayRetransmit .. | .ptpMessage .. | .pageReturn .. | .keyInstall .. => true

end Sys2Proof
end

