-- ==== Sys2Proof/Machine/Float.lean ====
section
/-! DEFINITION. Number formats and exact arithmetic (spec/06): fractions, the floating formats, rounding, NaN provenance,
conversions, lane arithmetic of the vector unit (R214) and the CORDIC functions (R223, R224). Values are exact fractions;
every rounding is a comparison of exact values. -/

namespace Sys2Proof.Machine

open Sys2Proof

/-! ### Exact fractions -/

/-- An exact fraction; `d` is positive in every value made here. -/
structure Q where
  n : Int
  d : Nat
  deriving DecidableEq, Repr

/-- A whole number. -/
def Q.ofInt (n : Int) : Q := ⟨n, 1⟩

/-- The sum, over the least common denominator. -/
def Q.add (a b : Q) : Q :=
  let g := Nat.gcd a.d b.d
  ⟨a.n * (b.d / g : Nat) + b.n * (a.d / g : Nat), a.d / g * b.d⟩

/-- The negative. -/
def Q.neg (a : Q) : Q := ⟨-a.n, a.d⟩

/-- The difference. -/
def Q.sub (a b : Q) : Q := a.add b.neg

/-- The product. -/
def Q.mul (a b : Q) : Q := ⟨a.n * b.n, a.d * b.d⟩

/-- The magnitude. -/
def Q.abs (a : Q) : Q := ⟨a.n.natAbs, a.d⟩

/-- The quotient; the divisor is not zero where this is used. -/
def Q.div (a b : Q) : Q := ⟨a.n * b.d * b.n.sign, a.d * b.n.natAbs⟩

/-- a < b. -/
def Q.lt (a b : Q) : Bool := a.n * (b.d : Int) < b.n * (a.d : Int)

/-- a = b in value. -/
def Q.eq (a b : Q) : Bool := a.n * (b.d : Int) == b.n * (a.d : Int)

/-- Value zero. -/
def Q.isZero (a : Q) : Bool := a.n == 0

/-- 2^e for any whole e. -/
def Q.pow2 (e : Int) : Q := if 0 ≤ e then ⟨(2 ^ e.toNat : Nat), 1⟩ else ⟨1, 2 ^ (-e).toNat⟩

/-- Floor. -/
def Q.floor (a : Q) : Int := a.n.ediv a.d

/-- The nearest whole number, ties to even. -/
def Q.roundEven (a : Q) : Int :=
  let f := a.floor
  let r := a.n - f * a.d
  if 2 * r < a.d then f else if (a.d : Int) < 2 * r then f + 1 else if f % 2 == 0 then f else f + 1

/-- floor(log2 a) of a positive fraction. -/
def Q.log2 (a : Q) : Int :=
  let e : Int := (Nat.log2 a.n.toNat : Int) - (Nat.log2 a.d : Int)
  if a.lt (Q.pow2 e) then e - 1 else e

/-! ### Formats (R129, R131, R132) -/

/-- A floating format: exponent bits, mantissa bits, bias, whether its all-ones exponent holds Inf and NaN, and whether it
is E4M3, whose only special code is the NaN 0x7F. -/
structure Fmt where
  eb   : Nat
  mb   : Nat
  bias : Nat
  inf  : Bool
  e4m3 : Bool
  deriving DecidableEq, Repr

/-- FP32. -/
def fp32 : Fmt := ⟨8, 23, 127, true, false⟩

/-- The floating format of an element code (R27, R129); integer codes and VQ2 have none. -/
def Fmt.ofCode (code : Nat) : Option Fmt :=
  match code with
  | 0 => some ⟨5, 10, 15, true, false⟩
  | 1 => some ⟨8, 7, 127, true, false⟩
  | 2 => some ⟨4, 3, 7, false, true⟩
  | 3 => some ⟨5, 2, 15, true, false⟩
  | 4 => some ⟨3, 2, 3, false, false⟩
  | 5 => some ⟨2, 3, 1, false, false⟩
  | 6 => some ⟨2, 1, 1, false, false⟩
  | 10 => some fp32
  | _ => none

/-- Bits of an element code; VQ2 weights have none of their own (R129). -/
def codeBits (code : Nat) : Nat :=
  match code with
  | 0 | 1 | 12 => 16
  | 2 | 3 | 7 => 8
  | 4 | 5 => 6
  | 6 | 8 => 4
  | 10 | 11 => 32
  | _ => 2

/-- Width of a format. -/
def Fmt.width (f : Fmt) : Nat := 1 + f.eb + f.mb

/-- The largest finite value as (integer mantissa, power of two) (R132..R135). -/
def Fmt.maxFin (f : Fmt) : Q :=
  if f.e4m3 then Q.ofInt 448
  else
    let emax : Nat := if f.inf then 2 ^ f.eb - 2 else 2 ^ f.eb - 1
    (Q.ofInt ((2 ^ (f.mb + 1) - 1 : Nat) : Int)).mul (Q.pow2 ((emax : Int) - f.bias - f.mb))

/-- A decoded floating value: NaN with its code, an infinity, or a finite value with its sign. -/
inductive FV where
  | nan (code : Nat)
  | inf (neg : Bool)
  | fin (neg : Bool) (q : Q)
  deriving DecidableEq, Repr

/-- The value of a code (R131, R132). -/
def Fmt.decode (f : Fmt) (x : Nat) : FV :=
  let m := x % 2 ^ f.mb
  let e := x / 2 ^ f.mb % 2 ^ f.eb
  let neg := x / 2 ^ (f.mb + f.eb) % 2 == 1
  let sg (q : Q) : Q := if neg then q.neg else q
  if e == 2 ^ f.eb - 1 && f.inf then
    if m == 0 then .inf neg else .nan x
  else if f.e4m3 && e == 15 && m == 7 then .nan x
  else if e == 0 then .fin neg (sg ((Q.ofInt m).mul (Q.pow2 (1 - (f.bias : Int) - f.mb))))
  else .fin neg (sg ((Q.ofInt ((2 ^ f.mb + m : Nat) : Int)).mul (Q.pow2 ((e : Int) - f.bias - f.mb))))

/-- NaN test on FP32 codes. -/
def isNan32 (x : BitVec 32) : Bool := bitsOf x.toNat 23 8 == 255 && bitsOf x.toNat 0 23 != 0

/-- A subnormal code of a format: zero exponent, non-zero mantissa. -/
def Fmt.isSub (f : Fmt) (x : Nat) : Bool := bitsOf x f.mb f.eb == 0 && bitsOf x 0 f.mb != 0

/-! ### Events of VFLAG (R155, R211) -/

/-- VFLAG.NX. -/
def evNX : BitVec 6 := 1
/-- VFLAG.UF. -/
def evUF : BitVec 6 := 2
/-- VFLAG.OF. -/
def evOF : BitVec 6 := 4
/-- VFLAG.NV. -/
def evNV : BitVec 6 := 8
/-- VFLAG.SAT. -/
def evSAT : BitVec 6 := 16
/-- VFLAG.RANGE. -/
def evRANGE : BitVec 6 := 32

/-! ### Rounding (R141, R142, R144) -/

/-- Rounding modes of R27; SR carries the word that Step returned (R144). -/
inductive Rnd where
  | rne | rtz | rdn | rup | sr (r : BitVec 32)
  deriving DecidableEq, Repr

/-- The rounding mode of a code; `r` is the word of Step. -/
def Rnd.ofCode (code : Nat) (r : BitVec 32) : Rnd :=
  match code with
  | 0 => .rne
  | 1 => .rtz
  | 2 => .rdn
  | 3 => .rup
  | _ => .sr r

/-- One step of the xorshift sequence (R144). -/
def srStep (x : BitVec 32) : BitVec 32 :=
  let x := x ^^^ (x <<< 13)
  let x := x ^^^ (x >>> 17)
  x ^^^ (x <<< 5)

/-- Whether the magnitude is rounded up: `k` is the lower grid number, `frac` the part above it in [0, 1) (R142, R144). -/
def roundUp (mode : Rnd) (neg : Bool) (k : Int) (frac : Q) : Bool :=
  if frac.isZero then false
  else match mode with
    | .rne =>
      let h : Q := ⟨1, 2⟩
      if frac.lt h then false else if h.lt frac then true else k % 2 != 0
    | .rtz => false
    | .rdn => neg
    | .rup => !neg
    | .sr r => (r.toNat : Int) < (frac.mul ⟨4294967296, 1⟩).floor

/-- A rounded magnitude: grid number `k` in units of 2^u. -/
structure Rounded where
  k : Nat
  u : Int
  exact : Bool
  deriving DecidableEq, Repr

/-- Round(x, fmt, mode) of a non-zero x: the magnitude on the format's grid with subnormals and an unbounded exponent
(R142). -/
def Fmt.round (f : Fmt) (mode : Rnd) (x : Q) : Rounded :=
  let a := x.abs
  let e := a.log2
  let emin : Int := 1 - (f.bias : Int)
  let u := (if e < emin then emin else e) - f.mb
  let s := a.mul (Q.pow2 (-u))
  let k := s.floor
  let frac := s.sub (Q.ofInt k)
  let up := roundUp mode (x.n < 0) k frac
  ⟨(if up then k + 1 else k).toNat, u, frac.isZero⟩

/-- The value of a rounded magnitude. -/
def Rounded.val (r : Rounded) : Q := (Q.ofInt r.k).mul (Q.pow2 r.u)

/-- The code of a finite rounded magnitude with a sign. -/
def Fmt.encode (f : Fmt) (neg : Bool) (r : Rounded) : Nat :=
  let emin : Int := 1 - (f.bias : Int)
  -- a magnitude of 2^(mb + 1) is the next binade
  let k := if r.k == 2 ^ (f.mb + 1) then 2 ^ f.mb else r.k
  let u := if r.k == 2 ^ (f.mb + 1) then r.u + 1 else r.u
  let s := if neg then 2 ^ (f.mb + f.eb) else 0
  if k < 2 ^ f.mb then s + k
  else s + (u + f.mb - emin + 1).toNat * 2 ^ f.mb + (k - 2 ^ f.mb)

/-- The signed zero of a format. -/
def Fmt.zero (f : Fmt) (neg : Bool) : Nat := if neg then 2 ^ (f.mb + f.eb) else 0

/-- The signed infinity of a format that has one. -/
def Fmt.infinity (f : Fmt) (neg : Bool) : Nat := f.zero neg + (2 ^ f.eb - 1) * 2 ^ f.mb

/-- The signed largest finite code. -/
def Fmt.maxCode (f : Fmt) (neg : Bool) : Nat :=
  f.zero neg + (if f.e4m3 then 0x7E else if f.inf then (2 ^ f.eb - 1) * 2 ^ f.mb - 1 else 2 ^ (f.eb + f.mb) - 1)

/-- RoundNE32(x, z) (R141). -/
def roundNE32 (x : Q) (zneg : Bool) : BitVec 32 :=
  if x.isZero then BitVec.ofNat 32 (fp32.zero zneg)
  else
    let neg := x.n < 0
    let r := fp32.round .rne x
    if fp32.maxFin.lt r.val then BitVec.ofNat 32 (fp32.infinity neg) else BitVec.ofNat 32 (fp32.encode neg r)

/-! ### NaN provenance (R147..R150) -/

/-- ProvNaN(cn, kb) (R147). -/
def provNaN (cn kb : Nat) : BitVec 32 := BitVec.ofNat 32 (0x7FC00000 ||| (cn % 32768 * 128) ||| kb % 128)

/-- NanPick(a, b) on FP32 codes (R149). -/
def nanPick (a b : BitVec 32) : BitVec 32 :=
  if !isNan32 a then b else if !isNan32 b then a
  else if bitsOf b.toNat 0 22 < bitsOf a.toNat 0 22 then b else a

/-- The FP32 NaN of a NaN code of an element code (the "To FP32" column of R150); `cn` is the executing core. -/
def widenNan (code x cn : Nat) : BitVec 32 :=
  match code with
  | 0 => BitVec.ofNat 32 (x / 32768 % 2 * 2 ^ 31 + 0x7FC00000 + x % 512 * 2 ^ 13)
  | 1 => BitVec.ofNat 32 (x / 32768 % 2 * 2 ^ 31 + 0x7FC00000 + x % 64 * 2 ^ 16)
  | 10 => BitVec.ofNat 32 (x ||| 0x00400000)
  | _ => provNaN cn 127

/-- The NaN that a NaN of element code `src` becomes in element code `dst` (R150, R153); the second part is true where
the target holds no NaN. -/
def convNan (src dst x cn : Nat) : Nat × Bool :=
  let s := x / 2 ^ (codeBits src - 1) % 2
  match dst with
  | 10 => ((widenNan src x cn).toNat, false)
  | 0 => (if src == 0 then s * 32768 + 0x7E00 + x % 512 else s * 32768 + 0x7E00, false)
  | 1 => (if src == 1 then s * 32768 + 0x7FC0 + x % 64
          else if src == 10 then s * 32768 + 0x7FC0 + bitsOf x 16 6 else s * 32768 + 0x7FC0, false)
  | 2 | 3 => (s * 128 + 0x7F, false)
  | _ => (0, true)

/-! ### Conversions (R151..R154) -/

/-- A converted element: its code and its events. -/
structure Conv where
  bits : Nat
  ev   : BitVec 6
  deriving DecidableEq, Repr

/-- The overflow result of R152. -/
def Fmt.overflow (f : Fmt) (neg sat : Bool) (mode : Rnd) : Conv :=
  let toMax : Bool :=
    sat || !(f.inf || f.e4m3) ||
      (match mode with
       | .rne | .sr _ => false
       | .rtz => true
       | .rdn => !neg
       | .rup => neg)
  if toMax then ⟨f.maxCode neg, evOF ||| evNX⟩
  else if f.inf then ⟨f.infinity neg, evOF ||| evNX⟩
  else ⟨f.zero neg + 0x7F, evOF ||| evNX ||| evNV⟩

/-- Conversion of a finite non-zero value to a floating format (R151 steps 2 to 4). -/
def Fmt.convFin (f : Fmt) (x : Q) (mode : Rnd) (sat : Bool) : Conv :=
  let neg := x.n < 0
  let r := f.round mode x
  if f.maxFin.lt r.val then f.overflow neg sat mode
  else
    let code := f.encode neg r
    let nx := if r.exact then 0 else evNX
    let uf := if !r.exact && (r.k == 0 || f.isSub code) then evUF else 0
    ⟨code, nx ||| uf⟩

/-- The range of an integer element code (R136). -/
def intRange (code : Nat) : Int × Int :=
  match code with
  | 7 => (-128, 127)
  | 8 => (-8, 7)
  | 12 => (-32768, 32767)
  | _ => (-2147483648, 2147483647)

/-- The code of an integer in the width of an element code. -/
def intCode (code : Nat) (v : Int) : Nat := (v.emod (2 ^ codeBits code : Nat)).toNat

/-- Conversion of a finite value to an integer format (R154). -/
def convInt (code : Nat) (x : Q) (mode : Rnd) : Conv :=
  let neg := x.n < 0
  let a := x.abs
  let k := a.floor
  let frac := a.sub (Q.ofInt k)
  let m := if roundUp mode neg k frac then k + 1 else k
  let v : Int := if neg then -m else m
  let (lo, hi) := intRange code
  let nx := if frac.isZero then 0 else evNX
  if v < lo then ⟨intCode code lo, nx ||| evOF⟩ else if hi < v then ⟨intCode code hi, nx ||| evOF⟩
  else ⟨intCode code v, nx⟩

/-- The value of an element code's bits: an integer counts as a finite value. -/
def elemVal (code x : Nat) : FV :=
  match Fmt.ofCode code with
  | some f => f.decode x
  | none => let v := sgn (codeBits code) x; .fin (v < 0) (Q.ofInt v)

/-- Conversion of a source element scaled by a power of two to a target code under R151..R154. `scale` is zero but for
the block-scaled conversions of R221 and R227, and R222. -/
def convert (src dst x : Nat) (scale : Int) (mode : Rnd) (sat : Bool) (cn : Nat) : Conv :=
  match elemVal src x, Fmt.ofCode dst with
  | .nan c, _ =>
    let (b, nv) := convNan src dst c cn
    ⟨b, if nv then evNV else 0⟩
  | .inf neg, some f =>
    if f.inf then ⟨f.infinity neg, 0⟩
    else if f.e4m3 then (if sat then ⟨f.maxCode neg, evOF⟩ else ⟨f.zero neg + 0x7F, evNV⟩)
    else ⟨f.maxCode neg, evOF⟩
  | .inf neg, none =>
    let (lo, hi) := intRange dst
    ⟨intCode dst (if neg then lo else hi), evOF⟩
  | .fin neg q, some f => if q.isZero then ⟨f.zero neg, 0⟩ else f.convFin (q.mul (Q.pow2 scale)) mode sat
  | .fin _ q, none => convInt dst (q.mul (Q.pow2 scale)) mode

/-- An element counts as a non-zero (R140): its code is not +0 or −0; every VQ2 weight counts. -/
def countsNonzero (code x : Nat) : Bool :=
  match Fmt.ofCode code with
  | some f => x % 2 ^ (f.width - 1) != 0
  | none => code == 9 || x % 2 ^ codeBits code != 0

/-! ### FP32 sums of reeds, sinks and the bellows (R146, R173) -/

/-- AddFP32(x, y, cn, kb) (R173). -/
def addFP32 (x y : BitVec 32) (cn kb : Nat) : BitVec 32 :=
  match fp32.decode x.toNat, fp32.decode y.toNat with
  | .nan _, _ | _, .nan _ =>
    let p := nanPick x y
    p ||| 0x00400000#32
  | .inf a, .inf b => if a == b then x else provNaN cn kb
  | .inf _, _ => x
  | _, .inf _ => y
  | .fin a p, .fin b q => roundNE32 (p.add q) (p.isZero && q.isZero && a && b)

/-- SatI32 (R146): the value and whether it saturated. -/
def satI32 (x : Int) : Int × Bool :=
  if 2147483647 < x then (2147483647, true) else if x < -2147483648 then (-2147483648, true) else (x, false)

/-! ### Lane arithmetic (R214) -/

/-- The exact result of a lane operation: undefined, an infinity, or a value with the sign of an exact zero. -/
inductive Exact where
  | undef
  | inf (neg : Bool)
  | val (q : Q) (zneg : Bool)
  deriving DecidableEq, Repr

/-- x + y of two values that are not NaN. -/
def exAdd (x y : FV) : Exact :=
  match x, y with
  | .inf a, .inf b => if a == b then .inf a else .undef
  | .inf a, _ => .inf a
  | _, .inf b => .inf b
  | .fin a p, .fin b q =>
    let both := p.isZero && q.isZero
    .val (p.add q) (both && a && b)
  | _, _ => .undef

/-- The value with its sign inverted. -/
def FV.negate : FV → FV
  | .nan c => .nan c
  | .inf a => .inf (!a)
  | .fin a q => .fin (!a) q.neg

/-- x × y of two values that are not NaN. -/
def exMul (x y : FV) : Exact :=
  match x, y with
  | .inf a, .inf b => .inf (a != b)
  | .inf a, .fin b q => if q.isZero then .undef else .inf (a != b)
  | .fin a q, .inf b => if q.isZero then .undef else .inf (a != b)
  | .fin a p, .fin b q => .val (p.mul q) (a != b)
  | _, _ => .undef

/-- x × y + z of three values that are not NaN, exactly. -/
def exFma (x y z : FV) : Exact :=
  match exMul x y with
  | .undef => .undef
  | .inf a => exAdd (.inf a) z
  | .val q zn => exAdd (.fin zn q) z

/-- The element code of a tile type (R207). -/
def tyCode : TileType → Nat
  | .f32 => 10
  | .f16 => 0
  | .bf16 => 1
  | .i32 => 11
  | .i16 => 12
  | .i8 => 7

/-- The floating format of a floating tile type; FP32 stands in for integer types, which no floating rule reads. -/
def tyFmt : TileType → Fmt
  | .f16 => ⟨5, 10, 15, true, false⟩
  | .bf16 => ⟨8, 7, 127, true, false⟩
  | .f32 | .i32 | .i16 | .i8 => fp32

/-- Lane width w (R207). -/
def tyW (t : TileType) : Nat := codeBits (tyCode t)

/-- Lane count L (R207). -/
def tyLanes (t : TileType) : Nat := 512 / tyW t

/-- RoundLane(v, z, type) (R214). -/
def roundLane (ty : TileType) (q : Q) (zneg : Bool) : Conv :=
  let f := (tyFmt ty)
  if q.isZero then ⟨f.zero zneg, 0⟩
  else f.convFin q .rne false

/-- Narrow of an FP32 NaN to a lane type (R150, R214). -/
def narrowNan (ty : TileType) (x : BitVec 32) : Nat := (convNan 10 (tyCode ty) x.toNat 0).1

/-- FloatLane (R214): the first operand stands first; `ex` is the exact result when no input is a NaN. -/
def floatLane (ty : TileType) (ins : List Nat) (ex : Exact) (cn : Nat) : Conv :=
  let nans := ins.filterMap (fun x => match (tyFmt ty).decode x with
    | .nan _ => some (widenNan (tyCode ty) x cn)
    | _ => none)
  match nans with
  | n :: rest => ⟨narrowNan ty (rest.foldl nanPick n), 0⟩
  | [] =>
    match ex with
    | .undef => ⟨narrowNan ty (provNaN cn 127), evNV⟩
    | .inf neg => ⟨(tyFmt ty).infinity neg, 0⟩
    | .val q z => roundLane ty q z

/-- LaneAdd (R214). -/
def laneAdd (ty : TileType) (x y cn : Nat) : Conv :=
  if ty.isFloat then floatLane ty [x, y] (exAdd ((tyFmt ty).decode x) ((tyFmt ty).decode y)) cn
  else ⟨(x + y) % 2 ^ tyW ty, 0⟩

/-- x comes before y in the order of vmin and vmax, in which −0 lies below +0 (R215). -/
def fvBelow (x y : FV) : Bool :=
  match x, y with
  | .inf a, .inf b => a && !b
  | .inf a, _ => a
  | _, .inf b => !b
  | .fin a p, .fin b q => p.lt q || (p.eq q && a && !b)
  | _, _ => false

/-- vmin and vmax of a lane (R215). -/
def laneMinMax (mx : Bool) (ty : TileType) (x y cn : Nat) : Conv :=
  if ty.isFloat then
    match (tyFmt ty).decode x, (tyFmt ty).decode y with
    | .nan _, _ | _, .nan _ => floatLane ty [x, y] .undef cn
    | p, q => ⟨if mx then (if fvBelow p q then y else x) else (if fvBelow q p then y else x), 0⟩
  else
    let a := sgn (tyW ty) x
    let b := sgn (tyW ty) y
    ⟨if mx then (if a < b then y else x) else (if b < a then y else x), 0⟩

/-- FlushDNZ (R156, R214): the lane and whether it was flushed. -/
def flushDnz (dnz : Bool) (ty : TileType) (x : Nat) : Nat × BitVec 6 :=
  if dnz && ty.isFloat && (tyFmt ty).isSub x then ((tyFmt ty).zero (x / 2 ^ (tyW ty - 1) % 2 == 1), evUF) else (x, 0)

/-! ### Rows as lanes and packed elements (R130, R207, R219) -/

/-- Lane k of a row. -/
def laneOf (ty : TileType) (r : RowBits) (k : Nat) : Nat := bitsOf r.toNat (k * tyW ty) (tyW ty)

/-- A row made of lanes, lane 0 first; lanes are taken modulo 2^w. -/
def rowOfLanes (w : Nat) : List Nat → Nat
  | [] => 0
  | x :: xs => x % 2 ^ w + 2 ^ w * rowOfLanes w xs

/-- A row of a tile type from its lanes. -/
def mkRow (ty : TileType) (ls : List Nat) : RowBits := BitVec.ofNat 512 (rowOfLanes (tyW ty) ls)

/-- Bit position of element k of a code in a packed row: 6-bit elements in groups of four lie as R130 gives, which is the
same as bit 6k of the little-endian number. -/
def elemOf (code : Nat) (v : Nat) (k : Nat) : Nat := bitsOf v (k * codeBits code) (codeBits code)

/-- The number with bits [lo + len − 1 : lo] replaced. -/
def putBits (v lo len x : Nat) : Nat :=
  v % 2 ^ lo + x % 2 ^ len * 2 ^ lo + v / 2 ^ (lo + len) * 2 ^ (lo + len)

/-- A packed row with element k of a code set. -/
def putElem (code : Nat) (v k x : Nat) : Nat := putBits v (k * codeBits code) (codeBits code) x

/-- The 64 bytes of a row. -/
def rowBytes (r : RowBits) : List Byte := natLe 64 r.toNat

/-- The row of 64 bytes. -/
def rowOfBytes (bs : List Byte) : RowBits := BitVec.ofNat 512 (leNat bs)

/-! ### Block scales (R137, R221) -/

/-- EMAX of R221. -/
def emaxOf (code : Nat) : Int :=
  match code with
  | 2 => 8
  | 3 => 15
  | 4 => 4
  | 5 => 2
  | 6 => 2
  | _ => 0

/-- ScaleFor (R221) of a block of values: the scale byte and its events. -/
def scaleFor (xs : List FV) (code : Nat) : Nat × BitVec 6 :=
  let special := xs.any (fun x => match x with
    | .fin _ _ => false
    | _ => true)
  if special then (255, evNV)
  else
    let a := xs.foldl (fun (m : Q) x => match x with
      | .fin _ q => if m.lt q.abs then q.abs else m
      | _ => m) (Q.ofInt 0)
    if a.isZero then (127, 0)
    else
      let e := a.log2 - emaxOf code + 127
      ((if e < 0 then 0 else if 254 < e then 254 else e).toNat, 0)

/-! ### CORDIC (R223, R224) -/

/-- ATAB(1, i): atan(2^−i) for i = 0..29, as multiples of 2^−40 (R223). -/
def atanTab : List Nat :=
  [863554413089, 509785937287, 269356888665, 136729762476, 68630207382, 34348560106, 17178471287, 8589759836,
   4294945451, 2147480917, 1073741483, 536870869, 268435451, 134217727, 67108864, 33554432, 16777216,
   8388608, 4194304, 2097152, 1048576, 524288, 262144, 131072, 65536, 32768, 16384, 8192, 4096, 2048]

/-- ATAB(−1, i): atanh(2^−i) for i = 1..29, entry 0 unused (R223). -/
def atanhTab : List Nat :=
  [0, 603968492904, 280829356548, 138161568061, 68809165523, 34370929737, 17181267490, 8590109361,
   4294989142, 2147486379, 1073742165, 536870955, 268435461, 134217729, 67108864, 33554432, 16777216,
   8388608, 4194304, 2097152, 1048576, 524288, 262144, 131072, 65536, 32768, 16384, 8192, 4096, 2048]

/-- KINV(1, n) for n = 0..30 (R223). -/
def kinvCirc : List Nat :=
  [1099511627776, 777472127994, 695392211522, 674629538668, 669419966198, 668116323351, 667790333421,
   667708830969, 667688455046, 667683361045, 667682087544, 667681769169, 667681689575, 667681669676,
   667681664702, 667681663458, 667681663147, 667681663069, 667681663050, 667681663045, 667681663044,
   667681663043, 667681663043, 667681663043, 667681663043, 667681663043, 667681663043, 667681663043,
   667681663043, 667681663043, 667681663043]

/-- KINV(−1, n) for n = 0..30 (R223). -/
def kinvHyp : List Nat :=
  [1099511627776, 1269606668547, 1311244128938, 1321609856481, 1324198712746, 1326792640232, 1327440963085,
   1327603033895, 1327643550979, 1327653680212, 1327656212517, 1327656845594, 1327657003863, 1327657043430,
   1327657053322, 1327657063214, 1327657065687, 1327657066305, 1327657066459, 1327657066498, 1327657066508,
   1327657066510, 1327657066511, 1327657066511, 1327657066511, 1327657066511, 1327657066511, 1327657066511,
   1327657066511, 1327657066511, 1327657066511]

/-- π/2 as a multiple of 2^−40 (R223). -/
def halfPi : Nat := 1727108826179

/-- π/2 to the nearest multiple of 2^−200. The reduction of sin and cos is exact (R224): no lane value comes so close to the middle between
two fixed numbers that more digits could change the remainder's rounding, and the held constant would miss R225's bounds for large values
(log 132). -/
def halfPiExact : Q := ⟨2524172377308996935986705070621218418107321710744331485767684, 2 ^ 200⟩

/-- ln 2 as a multiple of 2^−40 (R223). -/
def ln2 : Nat := 762123384786

/-- The entries of seq for the circular mode (R223). -/
def seqCirc (n : Nat) : List Nat := List.range n

/-- The entries of seq for the hyperbolic mode, 4 and 13 twice (R223). -/
def seqHyp (n : Nat) : List Nat :=
  ([1, 2, 3, 4, 4, 5, 6, 7, 8, 9, 10, 11, 12, 13, 13] ++ natRange 14 16).take n

/-- One iteration of Cordic (R223): `hyp` for m = −1, `vec` for mode VEC. -/
def cordicStep (hyp vec : Bool) (s : Int × Int × Int) (i : Nat) : Int × Int × Int :=
  let (x, y, z) := s
  let pos := if vec then y < 0 else 0 ≤ z
  let xs := x >>> i
  let ys := y >>> i
  let t : Int := ((if hyp then atanhTab else atanTab).getD i 0 : Nat)
  let dx : Int := if pos then ys else -ys
  let dy : Int := if pos then xs else -xs
  (if hyp then x + dx else x - dx, y + dy, if pos then z - t else z + t)

/-- Cordic(m, mode, x, y, z, n) on multiples of 2^−40 (R223). -/
def cordic (hyp vec : Bool) (x y z : Int) (n : Nat) : Int × Int × Int :=
  (if hyp then seqHyp n else seqCirc n).foldl (cordicStep hyp vec) (x, y, z)

/-- A real value to fixed: nearest multiple of 2^−40, ties to even (R223). -/
def toFixed (q : Q) : Int := (q.mul ⟨1099511627776, 1⟩).roundEven

/-- The value of a fixed number. -/
def ofFixed (n : Int) : Q := ⟨n, 1099511627776⟩

/-- The exp steps of R224: (c + s)·2^k, exact. The power is held to ±4,096: beyond it every lane type overflows or rounds
to zero alike. -/
def cordExp (x : Q) (n : Nat) : Q :=
  let k := (x.div (ofFixed ln2)).roundEven
  let r := toFixed (x.sub ((Q.ofInt k).mul (ofFixed ln2)))
  let (c, s, _) := cordic true false ((kinvHyp.getD n 0 : Nat) : Int) 0 r n
  let k' := if k < -4096 then -4096 else if 4096 < k then 4096 else k
  (ofFixed (c + s)).mul (Q.pow2 k')

/-- f and k of x = f·2^k with f in [0.5, 1), for positive x (R224). -/
def splitHalf (x : Q) : Q × Int :=
  let k := x.log2 + 1
  (x.mul (Q.pow2 (-k)), k)

/-- What a CORDIC function gives: an exact value, an infinity, the input's own zero, or a new NaN with its event (R224). -/
inductive CordRes where
  | val (q : Q) | inf (neg : Bool) | zero (neg : Bool) | bad (ev : BitVec 6)
  deriving DecidableEq, Repr

/-- The functions of R224 on an input that is not a NaN. -/
def cordFn (f : CordFn) (n : Nat) (x : FV) : CordRes :=
  let kc : Int := (kinvCirc.getD n 0 : Nat)
  let one : Int := 1099511627776
  match f, x with
  | _, .nan _ => .bad evNV
  | .sin, .inf _ | .cos, .inf _ => .bad evNV
  | .sin, .fin _ q | .cos, .fin _ q =>
    if (Q.ofInt 16777216).lt q.abs then .bad evRANGE
    else
      let p := (q.div halfPiExact).roundEven
      let r := toFixed (q.sub ((Q.ofInt p).mul halfPiExact))
      let (c, s, _) := cordic false false kc 0 r n
      let (co, si) : Int × Int := match (p % 4 : Int) with
        | 0 => (c, s)
        | 1 => (-s, c)
        | 2 => (-c, -s)
        | _ => (s, -c)
      .val (ofFixed (if f == .sin then si else co))
  | .atan, .inf neg => .val (if neg then (ofFixed halfPi).neg else ofFixed halfPi)
  | .atan, .fin _ q =>
    let small := !(Q.ofInt 1).lt q.abs
    let t := toFixed (if small then q else (Q.ofInt 1).div q)
    let (_, _, z) := cordic false true one t 0 n
    .val (if small then ofFixed z
          else (if q.n < 0 then (ofFixed halfPi).neg else ofFixed halfPi).sub (ofFixed z))
  | .exp, .inf neg => if neg then .zero false else .inf false
  | .exp, .fin _ q => .val (cordExp q n)
  | .ln, .inf neg => if neg then .bad evNV else .inf false
  | .ln, .fin _ q =>
    if q.isZero then .inf true else if q.n < 0 then .bad evNV
    else
      let (g, k) := splitHalf q
      let fx := toFixed g
      let (_, _, z) := cordic true true (fx + one) (fx - one) 0 n
      .val ((ofFixed (2 * z)).add ((Q.ofInt k).mul (ofFixed ln2)))
  | .tanh, .inf neg => .val (Q.ofInt (if neg then -1 else 1))
  | .tanh, .fin _ q =>
    if !q.abs.lt (Q.ofInt 16) then .val (Q.ofInt (if q.n < 0 then -1 else 1))
    else
      let e := cordExp (q.mul (Q.ofInt 2)) n
      .val ((e.sub (Q.ofInt 1)).div (e.add (Q.ofInt 1)))
  | .sigm, .inf neg => if neg then .zero false else .val (Q.ofInt 1)
  | .sigm, .fin _ q => .val ((Q.ofInt 1).div ((cordExp q.neg n).add (Q.ofInt 1)))
  | .sqrt, .inf neg => if neg then .bad evNV else .inf false
  | .sqrt, .fin neg q =>
    if q.isZero then .zero neg else if q.n < 0 then .bad evNV
    else
      let (g, k) := splitHalf q
      -- x = f·2^(2k) with f in [0.25, 1)
      let odd := k % 2 != 0
      let f' := if odd then g.mul ⟨1, 2⟩ else g
      let h := if odd then (k + 1) / 2 else k / 2
      let fx := toFixed f'
      let quarter : Int := 274877906944
      let (w, _, _) := cordic true true (fx + quarter) (fx - quarter) 0 n
      .val (((ofFixed w).mul (ofFixed ((kinvHyp.getD n 0 : Nat) : Int))).mul (Q.pow2 h))

/-- A lane of vcord before LaneWrite (R224). -/
def cordLane (ty : TileType) (f : CordFn) (n x cn : Nat) : Conv :=
  match (tyFmt ty).decode x with
  | .nan _ => floatLane ty [x] .undef cn
  | v =>
    match cordFn f n v with
    | .val q => roundLane ty q false
    | .inf neg => ⟨(tyFmt ty).infinity neg, 0⟩
    | .zero neg => ⟨(tyFmt ty).zero neg, 0⟩
    | .bad ev => ⟨narrowNan ty (provNaN cn 127), ev⟩

end Sys2Proof.Machine
end

