-- ==== Sys2Proof/Machine/Ops.lean ====
section
/-! DEFINITION. The shared operations of the part: numbering (R12..R16), access to cores, contexts and registers with their
presence bits (R107..R110), reports (R339), taking a trap (R334) and returning from one (R345), local memory (R80..R85), HBM
(R52, R63, R70), race tags (R279..R281), completion objects (R97), packets (R233), tags (R66, R89) and posts (R290). -/

namespace Sys2Proof.Machine

open Sys2Proof

/-! ### Numbering -/

/-- Grid column of a core (R12). -/
def xOf (cn : Nat) : Nat := cn % 256

/-- Grid row of a core (R12). -/
def yOf (cn : Nat) : Nat := cn / 256

/-- A service core: index `cn − 32,768` (R9). -/
def isSvc (cn : Nat) : Bool := Config.computeCores ≤ cn

/-- Loaf of a core; 8 for a service core (R12, R14). -/
def loafOf (cn : Nat) : Nat := if isSvc cn then 8 else yOf cn / 64 * 4 + xOf cn / 64

/-- Slice of a core; 512 stands for the walkers of the service cores, which belong to no slice (R12, R14). -/
def sliceOf (cn : Nat) : Nat := if isSvc cn then 512 else yOf cn / 8 * 32 + xOf cn / 8

/-- Child index of a core in its slice (R250). -/
def childOf (cn : Nat) : Nat := yOf cn % 8 * 8 + xOf cn % 8

/-- The neighbouring core in a direction, if it lies on the grid (R126). -/
def nbr (cn : Nat) (r : Dir) : Option Nat :=
  if isSvc cn then none
  else match r with
    | .e => if xOf cn == 255 then none else some (cn + 1)
    | .w => if xOf cn == 0 then none else some (cn - 1)
    | .n => if yOf cn == 127 then none else some (cn + 256)
    | .s => if yOf cn == 0 then none else some (cn - 256)

/-- The reed in a direction from a core, and whether the core is on its east/north side (R15, R16). -/
def reedOf (cn : Nat) (r : Dir) : Option (Nat × Bool) :=
  match nbr cn r with
  | none => none
  | some m =>
    if loafOf m != loafOf cn then none
    else match r with
      | .e => some (cn * 2, false)
      | .w => some (m * 2, true)
      | .n => some (cn * 2 + 1, false)
      | .s => some (m * 2 + 1, true)

/-- The core at one end of a reed: its west/south endpoint, or the other (R15). -/
def reedEnd (reed : Nat) (east : Bool) : Nat :=
  let c := reed / 2
  if east then (if reed % 2 == 0 then c + 1 else c + 256) else c

/-- Number of a direction (R28). -/
def dirNum : Dir → Nat
  | .e => 0
  | .w => 1
  | .n => 2
  | .s => 3

/-- The opposite direction. -/
def dirBack : Dir → Dir
  | .e => .w
  | .w => .e
  | .n => .s
  | .s => .n

/-- Number of a trap cause (R331). -/
def Cause.num : Cause → Nat
  | .illegalOp => 1
  | .lineMalformed => 2
  | .targetUnmarked => 3
  | .align => 4
  | .localRange => 5
  | .peerDenied => 6
  | .addrNoncanon => 7
  | .pageNotPresent => 8
  | .pageProt => 9
  | .eccUncorr => 10
  | .mmRace => 11
  | .copyFault => 12
  | .queueFull => 13
  | .trapInsn => 14
  | .presenceTimeout => 15
  | .reedFormat => 16
  | .reedMismatch => 17
  | .reedTimeout => 18
  | .tileType => 19
  | .patternNoninv => 20
  | .patternIllegal => 21
  | .ringEosLate => 22
  | .barOver => 23

/-- Number of a delivery kind (R332). -/
def TKind.num : TKind → Nat
  | .precise => 0
  | .access => 1
  | .async => 2
  | .pending => 3

/-! ### Cores and contexts -/

/-- A core's state. -/
def State.core (s : State) (cn : Nat) : Core := mget s.cores cn (if isSvc cn then Core.service else Core.reset)

/-- The state with a core replaced. -/
def State.setCore (s : State) (cn : Nat) (c : Core) : State := { s with cores := mset s.cores cn c }

/-- A change of one core. -/
def State.modCore (s : State) (cn : Nat) (f : Core → Core) : State := s.setCore cn (f (s.core cn))

/-- A context of a core. -/
def Core.ctx (c : Core) (hv : Bool) : Ctx := if hv then c.harv else c.owner

/-- A core with one context replaced. -/
def Core.setCtx (c : Core) (hv : Bool) (x : Ctx) : Core := if hv then { c with harv := x } else { c with owner := x }

/-- A context of the part. -/
def State.ctxOf (s : State) (cn : Nat) (hv : Bool) : Ctx := (s.core cn).ctx hv

/-- A change of one context. -/
def State.modCtxOf (s : State) (cn : Nat) (hv : Bool) (f : Ctx → Ctx) : State :=
  s.modCore cn (fun c => c.setCtx hv (f (c.ctx hv)))

/-- The issuing core. -/
def State.me (s : State) : Core := s.core s.cur.core

/-- The issuing context. -/
def State.ctx (s : State) : Ctx := s.ctxOf s.cur.core s.cur.hv

/-- A change of the issuing context. -/
def State.modCtx (s : State) (f : Ctx → Ctx) : State := s.modCtxOf s.cur.core s.cur.hv f

/-- A change of the issuing core. -/
def State.modMe (s : State) (f : Core → Core) : State := s.modCore s.cur.core f

/-- A reed's state. -/
def State.reed (s : State) (r : Nat) : Reed := mget s.reeds r Reed.reset

/-- A change of one reed. -/
def State.modReed (s : State) (r : Nat) (f : Reed → Reed) : State := { s with reeds := mset s.reeds r (f (s.reed r)) }

/-- A slice's state. -/
def State.slice (s : State) (n : Nat) : Slice := mget s.slices n Slice.reset

/-- A change of one slice. -/
def State.modSlice (s : State) (n : Nat) (f : Slice → Slice) : State :=
  { s with slices := mset s.slices n (f (s.slice n)) }

/-- A loaf's state; number 8 stands for the crust. -/
def State.loaf (s : State) (n : Nat) : Loaf := mget s.loaves n Loaf.reset

/-- A change of one loaf. -/
def State.modLoaf (s : State) (n : Nat) (f : Loaf → Loaf) : State := { s with loaves := mset s.loaves n (f (s.loaf n)) }

/-- Number of a router's output: ports 0..3 are the mesh directions, 4 the core, 5 the base die (R369), 6 the gateway (R244). -/
def outNo (cn port : Nat) : Nat := cn * 8 + port

/-- An output of a router. -/
def State.output (s : State) (o : Nat) : Link := mget s.links o Link.reset

/-- A change of an output. -/
def State.modOut (s : State) (o : Nat) (f : Link → Link) : State := { s with links := mset s.links o (f (s.output o)) }

/-- A link direction. -/
def State.link (s : State) (cn : Nat) (r : Dir) : Link := s.output (outNo cn (dirNum r))

/-- A service core's own memory (R9). -/
def State.svcMem (s : State) (cn : Nat) : List Host.Cell := mget s.crust.svcMems (cn - Config.computeCores) []

/-- A change of the crust. -/
def State.modCrust (s : State) (f : Crust → Crust) : State := { s with crust := f s.crust }

/-- A live launch by number. -/
def State.launch (s : State) (n : Nat) : Option Launch := s.launches.find? (fun l => l.num == n && l.live)

/-- A change of a launch. -/
def State.modLaunch (s : State) (n : Nat) (f : Launch → Launch) : State :=
  { s with launches := updWhere (fun l => l.num == n && l.live) f s.launches }

/-- The launch of the task a context runs; 0 where it runs none (R286). -/
def Ctx.launch (c : Ctx) : Nat := match c.task with
  | some t => t.launch
  | none => 0

/-- The launch whose keystream, root and placement the issuing context uses. -/
def State.myLaunch (s : State) : Nat := s.ctx.launch

/-- A core is an unretired member of a live launch's placement (R86, R341). -/
def State.placed (s : State) (launch cn : Nat) : Bool :=
  match s.launch launch with
  | some l => l.place.contains cn && !(s.core cn).retired
  | none => false

/-- A new number for packets, accesses and engine operations, in order of issue. -/
def State.newId (s : State) : State × Nat := ({ s with ids := s.ids + 1 }, s.ids)

/-- A fresh free byte (Config.freeByte). -/
def State.noise (s : State) : State × Byte := ({ s with fresh := s.fresh + 1 }, Config.freeByte s.fresh)

/-- `n` fresh free bytes. -/
def noises (s : State) : Nat → State × List Byte
  | 0 => (s, [])
  | n + 1 =>
    let (s, b) := s.noise
    let (s, bs) := noises s n
    (s, b :: bs)

/-! ### How an instruction ends without its effect -/

/-- Why an instruction does not take effect now: it stalls (`code` as R110 lists it where the wait counts), it stalls with a
request noted in a new state, it raises a precise trap, `ecc` is ECC_UNCORR of a fetched line, which the die has reported
(R34, R339), or a pending BAR_OVER is due (R262). -/
inductive Stop where
  | stall (code : Option Nat)
  | wait (s : State)
  | trap (c : Cause) (val : Word)
  | trapAt (c : Cause) (epc val : Word)
  | ecc (val : Word)
  | barOver

/-- A meaning's outcome before the context's bookkeeping. -/
abbrev Act := Except Stop State

/-- A test of an operand. -/
def need (ok : Bool) (c : Cause) (val : Word) : Except Stop Unit := if ok then .ok () else .error (.trap c val)

/-- A wait. -/
def waitFor (ok : Bool) (code : Option Nat) : Except Stop Unit := if ok then .ok () else .error (.stall code)

/-! ### Registers and presence (R108, R109) -/

/-- A source register, read at issue; a refused arrival's ALL1 raises BAR_OVER outside a handler (R109, R262). -/
def readReg (s : State) (r : SReg) : Except Stop Word :=
  let c := s.ctx
  if !c.inh && c.bops.any (fun b => b.reg == some r) then .error .barOver
  else
    let x := c.regs[r]
    if x.present then .ok x.val else .error (.stall (some r.val))

/-- Consecutive source registers. -/
def readRegs (s : State) (r : Nat) : Nat → Except Stop (List Word)
  | 0 => .ok []
  | n + 1 => do
    let v ← readReg s (Fin.ofNat 16 r)
    let vs ← readRegs s (r + 1) n
    .ok (v :: vs)

/-- A destination must be present before it is written (R109, R68). -/
def destFree (s : State) (r : SReg) : Except Stop Unit :=
  if s.ctx.regs[r].present then .ok () else .error (.stall (some r.val))

/-- SetPresent on a register of a context (R108); a BAR_OVER noted for it waits for a later point (R262). -/
def Ctx.setReg (c : Ctx) (r : SReg) (v : Word) : Ctx :=
  { c with regs := c.regs.set r ⟨v, true⟩,
           bops := updWhere (fun b => b.reg == some r) (fun b => { b with reg := none }) c.bops }

/-- ClearPresent on a register of a context (R108). -/
def Ctx.clearReg (c : Ctx) (r : SReg) : Ctx :=
  { c with regs := c.regs.set r ⟨c.regs[r].val, false⟩,
           bops := updWhere (fun b => b.reg == some r) (fun b => { b with reg := none }) c.bops }

/-- The state with the issuing context's register written. -/
def State.setReg (s : State) (r : SReg) (v : Word) : State := s.modCtx (fun c => c.setReg r v)

/-- The state with the issuing context's register non-present. -/
def State.clearReg (s : State) (r : SReg) : State := s.modCtx (fun c => c.clearReg r)

/-- The tile and row of a vector register (R43, R208). -/
def rowIdx (v : VReg) : Fin 4 × Fin 16 :=
  (⟨v.val / 16, by omega⟩, ⟨v.val % 16, by omega⟩)

/-- A tile row of a core. -/
def Core.row (c : Core) (v : VReg) : Row := c.tiles[(rowIdx v).1].rows[(rowIdx v).2]

/-- A core with a tile row replaced. -/
def Core.setRow (c : Core) (v : VReg) (r : Row) : Core :=
  let (t, i) := rowIdx v
  let tile := c.tiles[t]
  { c with tiles := c.tiles.set t { tile with rows := tile.rows.set i r } }

/-- The stall code of a row (R110). -/
def rowCode (v : VReg) : Option Nat := some (0x40 + v.val)

/-- A source row, read at issue (R109). -/
def readRow (s : State) (v : VReg) : Except Stop RowBits :=
  let r := s.me.row v
  if r.present then .ok r.bits else .error (.stall (rowCode v))

/-- A destination row must be present (R109, R172). -/
def rowFree (s : State) (v : VReg) : Except Stop Unit :=
  if (s.me.row v).present then .ok () else .error (.stall (rowCode v))

/-- SetPresent on a row of the issuing core. -/
def State.setRow (s : State) (v : VReg) (b : RowBits) : State := s.modMe (fun c => c.setRow v ⟨b, true⟩)

/-- ClearPresent on a row of the issuing core; the bits are kept, as R170 needs. -/
def State.clearRow (s : State) (v : VReg) : State := s.modMe (fun c => c.setRow v ⟨(c.row v).bits, false⟩)

/-! ### Lines and the program counter (R33..R36) -/

/-- Address of the line that holds an address. -/
def lineAddr (pc : Word) : Word := pc &&& ~~~0x7F#64

/-- Word index of an address within its line. -/
def wordIdx (pc : Word) : Nat := bitsOf pc.toNat 2 5

/-- A 48-bit address as its canonical 64-bit value (R53). -/
def canon48 (x : Nat) : Word := signExtend x 48

/-- Canonical at bit 47 (R53). -/
def isCanon (a : Word) : Bool := canon48 a.toNat == a

/-- Header word `i` of a line. -/
def Line.hdr (l : Line) (i : Nat) : Nat := (l.words.getD i 0).toNat

/-- START bit of word `w`, 2..31 (R33). -/
def Line.start (l : Line) (w : Nat) : Bool := 2 ≤ w && w ≤ 31 && (l.hdr 0).testBit (w - 2)

/-- TARGET bit of word `w` (R33). -/
def Line.target (l : Line) (w : Nat) : Bool := 2 ≤ w && w ≤ 31 && (l.hdr 1).testBit (w - 2)

/-- HEAD (R33). -/
def Line.head (l : Line) : Bool := (l.hdr 1).testBit 31

/-- CLOSED (R33). -/
def Line.closed (l : Line) : Bool := (l.hdr 1).testBit 30

/-- Words of an instruction by its LEN (R22). -/
def lenOf (w : Word32) : Nat := match w.toNat % 4 with
  | 0 => 1
  | 1 => 3
  | 2 => 3
  | _ => 5

/-- The run of marked starts from word `w` on covers words without a gap and ends by word 31 (R33 items 3 and 4): `n` bounds
the instructions looked at. -/
def runOk (words : List Word32) (starts : Nat) : Nat → Nat → Bool
  | 0, w => w ≥ 32 || starts / 2 ^ (w - 2) == 0
  | n + 1, w =>
    if w ≥ 32 then w == 32
    else if starts.testBit (w - 2) then
      let len := lenOf (words.getD w 0)
      w + len ≤ 32 && (natRange (w - 1) (len - 1)).all (fun j => !starts.testBit j) && runOk words starts n (w + len)
    else starts / 2 ^ (w - 2) == 0

/-- Number of one bits. -/
def popc (w : Nat) (x : Nat) : Nat := (List.range w).foldl (fun n i => if x.testBit i then n + 1 else n) 0

/-- A line is well formed (R33). -/
def lineOk (words : List Word32) : Bool :=
  let h0 := (words.getD 0 0).toNat
  let h1 := (words.getD 1 0).toNat
  let starts := h0 % 2 ^ 30
  let targets := h1 % 2 ^ 30
  (popc 32 h0 + popc 32 h1) % 2 == 0 && h0.testBit 30 && starts.testBit 0 && runOk words starts 30 2
    && (List.range 30).all (fun i => !targets.testBit i || starts.testBit i)

/-- A cached line of a context. -/
def Ctx.line (c : Ctx) (a : Word) : Option Line := c.icache.find? (fun l => l.addr == a)

/-- Where execution goes after an instruction of `len` words at the pc, and the closed line it falls out of (R35). -/
def Ctx.nextPc (c : Ctx) (len : Nat) : Word × Option Word :=
  let base := lineAddr c.pc
  let w := wordIdx c.pc + len
  let next := canon48 ((base + 128).toNat % 2 ^ 48) + 8
  match c.line base with
  | some l =>
    if l.start w then (base + BitVec.ofNat 64 (4 * w), none)
    else if l.closed then (next, some base) else (next, none)
  | none => if w ≤ 31 then (base + BitVec.ofNat 64 (4 * w), none) else (next, none)

/-- The issuing context moves past its instruction of `len` words (R35). -/
def State.advance (s : State) (len : Nat) : State :=
  s.modCtx (fun c => let (pc, cl) := c.nextPc len; { c with pc := pc, closedFrom := cl })

/-- A context moves past its instruction of `len` words (R35). -/
def State.advanceOf (s : State) (cn : Nat) (hv : Bool) (len : Nat) : State :=
  s.modCtxOf cn hv (fun c => let (pc, cl) := c.nextPc len; { c with pc := pc, closedFrom := cl, stall := none })

/-- The issuing context continues at a target. -/
def State.jump (s : State) (t : Word) : State := s.modCtx (fun c => { c with pc := t, closedFrom := none })

/-! ### Posts and await entries -/

/-- A post of hardware joins the list of those that wait, for room, or where it is the release of a context, until the accesses that the
context issued before number `after.2` are performed (R290). -/
def State.hwPost (s : State) (r : CR) (core : Nat) (qchan : Option Nat) (after : Option (Bool × Nat)) : State :=
  let (s, i) := s.newId
  { s with posts := s.posts ++ [⟨i, r, core, qchan, after⟩] }

/-! ### Local memory (R80..R85, R279, R363) -/

/-- A core is outside the local memory of no one: offsets run to 0xFFFF (R80). -/
def lmSize : Nat := 65536

/-- `n` bytes at `off` as launch `l` decrypts them: a byte written under another keystream, or never, is noise (R363). -/
def lmRead (s : State) (cn off l : Nat) : Nat → State × List Byte
  | 0 => (s, [])
  | n + 1 =>
    let m := (s.core cn).lm
    let own := l != 0 && mget m.keys off 0 == l || isSvc cn
    let (s, b) := if own then (s, cellGet m.bytes off) else s.noise
    let (s, bs) := lmRead s cn (off + 1) l n
    (s, b :: bs)

/-- A unit holds an uncorrectable error (R82). -/
def lmBad (s : State) (cn unit : Nat) : Bool := (s.core cn).lm.bad.contains unit

/-- The first bad unit that `n` bytes at `off` touch. -/
def lmBadIn (s : State) (cn off n : Nat) : Option Nat :=
  (natRange (off / 16) ((off + n - 1) / 16 - off / 16 + 1)).find? (fun u => n != 0 && lmBad s cn u)

/-- The first bad unit that a write of `n` bytes at `off` covers only in part (R82). -/
def lmBadPart (s : State) (cn off n : Nat) : Option Nat :=
  (natRange (off / 16) ((off + n - 1) / 16 - off / 16 + 1)).find?
    (fun u => n != 0 && lmBad s cn u && !(off ≤ u * 16 && u * 16 + 16 ≤ off + n))

/-- Bytes put under a keystream; a unit written whole loses its error (R82, R363). -/
def LMem.put (m : LMem) (off l : Nat) (bs : List Byte) : LMem :=
  { m with bytes := cellWrite m.bytes off bs,
           keys := (natRange off bs.length).foldl (fun k a => mset k a l) m.keys,
           bad := m.bad.filter (fun u => !(off ≤ u * 16 && u * 16 + 16 ≤ off + bs.length)) }

/-- A launch's keystream is discarded: what was written under it is noise (R363). -/
def LMem.dropKey (m : LMem) (l : Nat) : LMem := { m with keys := m.keys.filter (fun k => k.2 != l) }

/-- A launch's keystream is discarded on every core, for its tiles too, and in every save frame (R363). -/
def dropKeys (s : State) (l : Nat) : State :=
  { s with cores := s.cores.map (fun x => (x.1, { x.2 with
      tilesOf := if x.2.tilesOf == l then 0 else x.2.tilesOf,
      lm := x.2.lm.dropKey l, frames := x.2.frames.map (fun f => { f with lm := f.lm.dropKey l }) })) }

/-- Await entries whose object now holds a STATUS other than 0 post their records (R298). -/
def fireAwaits (s : State) (cn off n : Nat) : State :=
  let c := s.core cn
  let hit (a : AwaitEntry) : Bool := off < a.obj + 8 && a.obj < off + n && cellGet c.lm.bytes (a.obj + 7) != 0
  let s := s.modCore cn (fun c => { c with awaits := c.awaits.filter (fun a => !hit a) })
  (c.awaits.filter hit).foldl (fun s a => s.hwPost a.cr cn none (some (a.hv, a.upTo))) s

/-- LocalWrite (R83) by any port, with the releases of R298. -/
def lmWrite (s : State) (cn off l : Nat) (bs : List Byte) : State :=
  fireAwaits (s.modCore cn (fun c => { c with lm := c.lm.put off l bs })) cn off bs.length

/-- Granules that `n` bytes at an address touch. -/
def granules (a n : Nat) : List Nat := if n == 0 then [] else natRange (a / 32) ((a + n - 1) / 32 - a / 32 + 1)

/-- A plain access meets a race (R281). -/
def raceIn (tags : List (Nat × Tag)) (gs : List Nat) (core launch : Nat) : Bool :=
  gs.any (fun g => match mfind tags g with
    | some t => t.launch == launch && t.core != core
    | none => false)

/-- Race test of `n` bytes of a core's local memory. -/
def lmRace (s : State) (cn off n core launch : Nat) : Bool := raceIn (s.core cn).lm.tags (granules off n) core launch

/-- A plain store marks its granules (R279). -/
def lmMark (s : State) (cn off n core launch : Nat) : State :=
  s.modCore cn (fun c => { c with lm := { c.lm with
    tags := (granules off n).foldl (fun t g => mset t g ⟨core, launch⟩) c.lm.tags } })

/-! ### Reports (R339) -/

/-- Context is past a trap or stopped: the bits of STATUS (R332). -/
def statusWord (s : State) (cn : Nat) (hv : Bool) : Word :=
  let c := s.ctxOf cn hv
  let b (x : Bool) (i : Nat) : Nat := if x then 2 ^ i else 0
  BitVec.ofNat 64 (b c.mode 0 + b c.pmode 1 + b c.inh 2 + b c.dbl 3 + b c.stop 4 + b hv 5 + b (!c.bops.isEmpty) 8
    + b (c.task.any (·.excl)) 16 + b (c.task.any (·.loanLost)) 17 + b c.povf 23 + c.async.length % 256 * 2 ^ 24)

/-- A report joins the list of its loaf (R339). -/
def report (s : State) (loaf kind core : Nat) (hv : Bool) (status : Word) (cause launch : Nat) (rpc epc val : Word) :
    State :=
  let n := (s.loaf loaf).reports
  let r : Report :=
    { loaf := loaf, seq := n % 65536, kind := kind, core := core % 32768, svc := isSvc core, hv := hv,
      status := status &&& 0xFFFF, cause := cause, launch := launch, rpc := rpc &&& 0xFFFFFFFFFFFF,
      epc := epc &&& 0xFFFFFFFFFFFF, val := val }
  (s.modLoaf loaf (fun l => { l with reports := n + 1 })).modCrust (fun c => { c with reports := c.reports ++ [r] })

/-- A report of kind 2: an uncorrectable error at an address (R339). -/
def reportEcc (s : State) (loaf core launch : Nat) (addr : Nat) : State :=
  report s loaf 2 core false 0 (Cause.eccUncorr.num) launch 0 0 (BitVec.ofNat 64 addr)

/-! ### Asynchronous faults (R336) -/

/-- An asynchronous fault joins a context's list, or sets POVF when eight wait (R336). -/
def asyncFault (s : State) (cn : Nat) (hv : Bool) (p : Pend) : State :=
  s.modCtxOf cn hv (fun c => if c.async.length < 8 then { c with async := c.async ++ [p] } else { c with povf := true })

/-! ### Completion objects (R97) -/

/-- The value of a completion object. -/
def objWord (status cause count : Nat) : Nat := status % 256 * 2 ^ 56 + cause % 256 * 2 ^ 48 + count % 2 ^ 48

/-- A change of the save frame that a core keeps of a launch (R323). -/
def State.modFrame (s : State) (cn launch : Nat) (f : Frame → Frame) : State :=
  s.modCore cn (fun c => { c with frames := updWhere (fun x => x.launch == launch) f c.frames })

/-- Tags of core `w` removed at some granules of a home (R280): of a local memory in the save frame of the launch, where that is
switched out. -/
def clearTagsAt (s : State) (h : Home) (gs : List Nat) (w launch : Nat) : State :=
  let keep (p : Nat × Tag) : Bool := !(p.2.core == w && gs.contains p.1)
  let strip (m : LMem) : LMem := { m with tags := m.tags.filter keep }
  match h with
  | .door cn =>
    if (s.core cn).frames.any (fun f => f.launch == launch) then s.modFrame cn launch (fun f => { f with lm := strip f.lm })
    else s.modCore cn (fun c => { c with lm := strip c.lm })
  | .die _ => { s with hbm := { s.hbm with tags := s.hbm.tags.filter keep } }
  | .far _ => s

/-- An engine's final write of an object: a release of the granules that the operation wrote, and an asynchronous ECC_UNCORR
where the unit is bad (R97, R280). An object of a launch that is switched out is written in its save frame (R180, R323). -/
def engineObj (s : State) (cn : Nat) (hv : Bool) (launch obj status cause count : Nat) (wrote : List (Home × Nat)) :
    State :=
  let s := wrote.foldl (fun s p => clearTagsAt s p.1 [p.2] cn launch) s
  let bs := natLe 8 (objWord status cause count)
  let failed (s : State) : State :=
    reportEcc (asyncFault s cn hv ⟨launch, .eccUncorr, 0, BitVec.ofNat 64 obj⟩) (loafOf cn) cn launch obj
  if !hv && (s.core cn).launch != launch then
    if (s.core cn).frames.any (fun f => f.launch == launch && f.lm.bad.contains (obj / 16)) then failed s
    else s.modFrame cn launch (fun f => { f with lm := f.lm.put obj launch bs })
  else if lmBad s cn (obj / 16) then failed s
  else lmWrite s cn obj launch bs

/-! ### HBM (R51, R52, R63, R70, R363) -/

/-- The version of a key: it changes when the kernel rewrites the slot, or a start draws the system key (R359, R363). -/
def keyVer (s : State) (key : Nat) : Nat := if key == 0 then s.crust.sysVer else mget s.crust.keyVers key 0

/-- The label of a granule reached under a key at an address (R363). -/
def labelOf (s : State) (key addr : Nat) (phys : Bool) : Label :=
  ⟨key, keyVer s key, if phys then addr / 32 else addr % 2 ^ 48 / 32, phys⟩

/-- `n` bytes of one granule or row as the label decrypts them (R63, R359, R363). `addr` is the virtual address, or the
physical one for page-table entries. -/
def hbmRead (s : State) (pa addr key : Nat) (phys : Bool) : Nat → State × List Byte
  | 0 => (s, [])
  | n + 1 =>
    let ok := mfind s.hbm.labels (pa / 32) == some (labelOf s key addr phys)
    let (s, b) := if ok then (s, cellGet s.hbm.bytes pa) else s.noise
    let (s, bs) := hbmRead s (pa + 1) (addr + 1) key phys n
    (s, b :: bs)

/-- A granule re-encrypted under a label: bytes that were under another one become noise (R63, R70). -/
def relabel (s : State) (g : Nat) (l : Label) : State :=
  if mfind s.hbm.labels g == some l then s
  else
    let s := (natRange (g * 32) 32).foldl (fun (s : State) a =>
      let (s, b) := s.noise
      { s with hbm := { s.hbm with bytes := cellSet s.hbm.bytes a b } }) s
    { s with hbm := { s.hbm with labels := mset s.hbm.labels g l } }

/-- GlobalWrite of `bs` at `pa` (R52, R70): each granule touched is read, merged and written under the label. -/
def hbmWrite (s : State) (pa addr key : Nat) (phys : Bool) (bs : List Byte) : State :=
  let s := (granules pa bs.length).foldl (fun (s : State) g =>
    relabel s g (labelOf s key (addr + (g * 32 - pa) - (pa - g * 32)) phys)) s
  let whole (g : Nat) : Bool := pa ≤ g * 32 && g * 32 + 32 ≤ pa + bs.length
  { s with hbm := { s.hbm with bytes := cellWrite s.hbm.bytes pa bs,
                               bad := s.hbm.bad.filter (fun g => !whole g) } }

/-- The lines that `n` bytes at an address touch, as fetches see them (R33). -/
def linesOf (pa n : Nat) : List Nat := if n == 0 then [] else natRange (pa / 128) ((pa + n - 1) / 128 - pa / 128 + 1)

/-- A line as it stands in the array now, before a write of core `w` (R39). -/
def oldLine (s : State) (w line : Nat) : OldLine :=
  { line := line, bytes := cellRead s.hbm.bytes (line * 128) 128,
    labels := (List.range 4).map (fun i => mfind s.hbm.labels (line * 4 + i)), writer := w, fenced := none }

/-- A write of a program on core `w`: fetches may see the lines it touches as they stood before it (R39). -/
def hbmStore (s : State) (w pa addr key : Nat) (bs : List Byte) : State :=
  hbmWrite { s with hbm := { s.hbm with old := s.hbm.old ++ (linesOf pa bs.length).map (oldLine s w) } } pa addr key false bs

/-- A fence.full at scope .dev of core `w` has completed: tasks that start from now on see its writes in lines (R39). -/
def fenceLines (s : State) (w : Nat) : State :=
  let (s, id) := s.newId
  { s with hbm := { s.hbm with
      old := updWhere (fun o => o.writer == w && o.fenced.isNone) (fun o => { o with fenced := some id }) s.hbm.old } }

/-- A task that started at `born` sees a write in lines: the writer's fence completed before (R39). -/
def OldLine.seen (o : OldLine) (born : Nat) : Bool := o.fenced.any (· < born)

/-- A line's raw bytes and labels as a task that started at `born` sees them: as they stood before the first write that it does
not see (R39). -/
def lineSeen (s : State) (line born : Nat) : List Byte × List (Option Label) :=
  match s.hbm.old.find? (fun o => o.line == line && !o.seen born) with
  | some o => (o.bytes, o.labels)
  | none =>
    let o := oldLine s 0 line
    (o.bytes, o.labels)

/-- The `n` granules of a line from number `i` on, as a label decrypts each (R63). -/
def lineBytes (s : State) (g : GLoc) (bs : List Byte) (ls : List (Option Label)) : Nat → Nat → State × List Byte
  | _, 0 => (s, [])
  | i, n + 1 =>
    let ok := ls.getD i none == some (labelOf s g.key (g.va + 32 * i) g.phys)
    let (s, now) := if ok then (s, (bs.drop (32 * i)).take 32) else noises s 32
    let (s, rest) := lineBytes s g bs ls (i + 1) n
    (s, now ++ rest)

/-- A granule read by an access holds an uncorrectable error (R71). -/
def hbmBadIn (s : State) (pa n : Nat) : Bool := (granules pa n).any (fun g => s.hbm.bad.contains g)

/-- An access that a unit of the part makes in one step, without a packet, meets an uncorrectable error, or a hand-over that fails on it
(R71, R364): the error is reported with its physical address, but for a failure between die and fabric. -/
def unitFails (s : State) (launch pa n : Nat) : Option State :=
  let die := pa / 2 ^ 36
  if hbmBadIn s pa n then some (reportEcc s die 0 launch pa)
  else match s.hbm.drops.find? (fun d => d.1 == die) with
    | none => none
    | some d =>
      let s := { s with hbm := { s.hbm with drops := s.hbm.drops.erase d } }
      some (if d.2 then reportEcc s die 0 launch pa else s)

/-- An HBM access that a unit of the part makes for a launch, whose energy the launch is charged (R357). -/
def unitUse (s : State) (launch : Nat) : State :=
  if launch == 0 then s else s.modCrust (fun c => { c with uses := mset c.uses launch (mget c.uses launch 0 + 1) })

/-- A masked write reads a bad granule (R71). -/
def hbmBadPart (s : State) (pa n : Nat) : Bool :=
  (granules pa n).any (fun g => s.hbm.bad.contains g && !(pa ≤ g * 32 && g * 32 + 32 ≤ pa + n))

/-- Race test of HBM granules (R281). -/
def hbmRace (s : State) (g : GLoc) (n core launch : Nat) : Bool :=
  g.rchk && raceIn s.hbm.tags (granules g.pa n) core launch

/-- A plain store marks its granules where the page keeps tags (R279). -/
def hbmMark (s : State) (g : GLoc) (n core launch : Nat) : State :=
  if g.rchk then
    { s with hbm := { s.hbm with tags := (granules g.pa n).foldl (fun t x => mset t x ⟨core, launch⟩) s.hbm.tags } }
  else s

/-! ### Releases (R273, R274, R280) -/

/-- A home lies within a scope around a core (R274); another device lies in none (R367). -/
def inScope (cn : Nat) (sc : Scope) (h : Home) : Bool :=
  match sc, h with
  | .dev, .door _ | .dev, .die _ => true
  | .core, .door d => d == cn
  | .slice, .door d => !isSvc cn && sliceOf d == sliceOf cn
  | .loaf, .door d => loafOf d == loafOf cn
  | .loaf, .die k => k == loafOf cn
  | .core, .die _ | .slice, .die _ | _, .far _ => false

/-- A completed release by a context of core `cn` clears the tags of that core within the scope, in save frames too (R280, R323). -/
def clearTags (s : State) (cn : Nat) (sc : Scope) : State :=
  let strip (h : Nat → Home) (tags : List (Nat × Tag)) : List (Nat × Tag) :=
    tags.filter (fun p => !(p.2.core == cn && inScope cn sc (h p.1)))
  { s with cores := s.cores.map (fun p =>
             (p.1, { p.2 with lm := { p.2.lm with tags := strip (fun _ => .door p.1) p.2.lm.tags },
                              frames := p.2.frames.map (fun f =>
                                { f with lm := { f.lm with tags := strip (fun _ => .door p.1) f.lm.tags } }) })),
           hbm := { s.hbm with tags := strip (fun g => .die (g * 32 / 2 ^ 36)) s.hbm.tags } }

/-- What a destination remembers of a flow. -/
def Fab.flow (f : Fab) (src vn : Nat) : FlowSeen :=
  (f.seen.find? (fun x => x.src == src && x.vn == vn)).getD ⟨src, vn, 0, []⟩

/-- Distance of a sequence number above another, modulo 2^16 (R232). -/
def seqAbove (seq floor : Nat) : Nat := (seq % 65536 + 65536 - floor % 65536) % 65536

/-- A sequence number of a flow has been executed: it lies below the floor, or is listed above it (R242). -/
def Fab.executed (f : Fab) (src vn seq : Nat) : Bool :=
  let x := f.flow src vn
  decide (32768 ≤ seqAbove seq x.floor) || x.above.contains seq

/-- A packet of an E flow has been executed at its destination. -/
def State.isDone (s : State) (p : Packet) : Bool :=
  p.e && (s.core p.dst).fab.executed p.src (if p.trim then 2 else p.vn) p.seq

/-- A lane of a core. -/
def Core.lane (c : Core) (r : Dir) : Lane :=
  match r with
  | .e => c.lanes[0]
  | .w => c.lanes[1]
  | .n => c.lanes[2]
  | .s => c.lanes[3]

/-- A lane put of a core issued before `id` has not entered its receiver's buffer (R125, R267). -/
def wordsBefore (s : State) (cn id : Nat) : Bool :=
  [Dir.e, .w, .n, .s].any (fun r => match nbr cn r with
    | some m => ((s.core m).lane (dirBack r)).link.any (fun w => decide (w.id < id))
    | none => false)

/-- A message of a context issued before `id` has not been accepted (R127, R266); its home counts as the door of its destination (log 138). -/
def messagesBefore (s : State) (cn : Nat) (hv : Bool) (id : Nat) (sc : Scope) : Bool :=
  s.net.any (fun q => q.src == cn && q.who == .ctx hv && decide (q.req < id) && inScope cn sc (.door q.dst) && !s.isDone q &&
    (match q.body with
     | .msg .. => true
     | _ => false))

/-- An access of a context, issued before `id`, that a release of a scope still waits for: one with a tag, a lane get or put at every scope,
or a message (R266, R267, R273, R274, R277). -/
def openBefore (s : State) (cn : Nat) (hv : Bool) (id : Nat) (sc : Scope) : Bool :=
  let c := s.ctxOf cn hv
  c.out.any (fun o => o.tag.isSome && decide (o.id < id) && inScope cn sc o.home) || c.ngets.any (fun g => decide (g.id < id))
    || (!hv && wordsBefore s cn id) || messagesBefore s cn hv id sc

/-- Marks of fence.rel whose accesses are all performed complete and clear their tags (R280, R283). -/
def settleRels (s : State) (cn : Nat) (hv : Bool) : State :=
  let c := s.ctxOf cn hv
  let open_ (m : RelMark) : Bool := openBefore s cn hv m.upTo m.scope
  let ready := c.rels.filter (fun m => !open_ m)
  let s := s.modCtxOf cn hv (fun c => { c with rels := c.rels.filter open_ })
  ready.foldl (fun s m => clearTags s cn m.scope) s

/-! ### Order at issue (R270, R273) -/

/-- A load of the context has not completed (R270). -/
def Ctx.loadOut (c : Ctx) : Bool := c.out.any (fun o => o.tag.isSome && o.load) || !c.ngets.isEmpty

/-- An access may issue: no acquire of the context is outstanding; a store also waits for earlier loads and for the marks of
fence.rel. These stalls do not count (R270, R273, R283). -/
def orderOk (s : State) (store : Bool) : Except Stop Unit :=
  let c := s.ctx
  waitFor (!(c.out.any (·.acq)) && !(store && (c.loadOut || !c.rels.isEmpty))) none

/-- Issue waits until every earlier access of the context is performed: the release of an svc or of a launch (R307, R349). -/
def releaseOk (s : State) : Except Stop Unit :=
  waitFor (!openBefore s s.cur.core s.cur.hv s.ids .dev && s.ctx.rels.isEmpty) none

/-! ### Tags (R66, R89, R310) -/

/-- Tags of a space that a context holds. -/
def Ctx.tagsUsed (c : Ctx) (peer : Bool) : List Nat :=
  c.out.filterMap (fun o => match o.tag with
    | some (p, n) => if p == peer then some n else none
    | none => none)

/-- A free tag of the issuing core, or a stall that does not count (R66, R89, R110, R310). -/
def takeTag (s : State) (peer : Bool) : Except Stop Nat :=
  let used := s.me.owner.tagsUsed peer ++ s.me.harv.tagsUsed peer
  if s.cur.hv && 2 ≤ (s.ctx.tagsUsed peer).length then .error (.stall none)
  else match (List.range 8).find? (fun n => !used.contains n) with
    | some n => .ok n
    | none => .error (.stall none)

/-! ### Packets (R232, R233, R241) -/

/-- The fabric mode of a loaf is E (R241); the crust's is not. -/
def modeEOf (s : State) (cn : Nat) : Bool := (s.loaf (loafOf cn)).modeE && loafOf cn != 8

/-- The core whose router carries the base-die port of a physical address (R369). -/
def dieCore (pa : Nat) : Nat :=
  let k := pa / 2 ^ 36
  let p := bitsOf pa 8 6
  (64 * (k / 4) + 31) * 256 + 64 * (k % 4) + p

/-- The next number of a flow (R232). -/
def flowSeq (f : Fab) (dst vn : Nat) : Nat :=
  match f.next.find? (fun p => p.1 == (dst, vn)) with
  | some p => p.2
  | none => 0

/-- The flow's number counts up modulo 2^16 (R232). -/
def bumpSeq (f : Fab) (dst vn : Nat) : Fab :=
  { f with next := ((dst, vn), (flowSeq f dst vn + 1) % 65536) :: f.next.filter (fun p => p.1 != (dst, vn)) }

/-- A packet needs an end-to-end copy (R241). -/
def needsE (s : State) (src dst vn : Nat) : Bool := (vn == 1 || vn == 2) && modeEOf s src && modeEOf s dst

/-- A source may send, with `spare` more entries left for packets it owes: mode E keeps at most 64 copies, and at most 64 in one flow
(R241, R242). -/
def canSpare (s : State) (src dst vn spare : Nat) : Bool :=
  !needsE s src dst vn || decide ((s.core src).fab.kept.length + spare < 64)

/-- A source may send (R241). -/
def canSend (s : State) (src dst vn : Nat) : Bool := canSpare s src dst vn 0

/-- What a packet is before it is sent. `tag` is the number of the tag it holds with its space (R233), or for a reply the
TAG of its request. -/
structure Letter where
  who    : Src
  src    : Nat
  dst    : Nat
  vn     : Nat
  launch : Nat
  ord    : Bool
  rel    : Bool
  req    : Option Nat
  body   : Body
  tag    : BitVec 8 := 0
  mod_   : BitVec 6 := 0

/-- The router at which a loaf's gateway port stands (R244). -/
def gatewayCore (loaf : Nat) : Nat := (64 * (loaf / 4) + if loaf < 4 then 0 else 63) * 256 + 64 * (loaf % 4) + 32

/-- Where a packet enters the mesh: its source's router, or for the crust the gateway of the destination's loaf (R244). -/
def entryAt (src dst : Nat) : Where :=
  if isSvc src then (if isSvc dst then .arrived else .router (gatewayCore (loafOf dst)) (outNo (gatewayCore (loafOf dst)) 7))
  else .router src (outNo src 7)

/-- The context of which an agent's request is (R233, TAG[7]): an engine operation's is the one that issued it. -/
def srcHv (s : State) (src : Nat) : Src → Bool
  | .ctx hv | .fill hv | .walk (.ctx hv) => hv
  | .engine op | .walk (.engine op) => ((s.core src).copies.find? (fun c => c.op == op)).any (·.hv)
  | .gate .. => false

/-- Requests of engine operations form a core's second sequence (R69). -/
def Src.isEngine : Src → Bool
  | .engine _ | .walk (.engine _) => true
  | .ctx _ | .fill _ | .walk (.ctx _) | .gate .. => false

/-- A packet is sent: it takes its number, its flow's number and its issue sequence, and in mode E a kept copy (R232, R233,
R241). An ACK or RREQ, which nothing acknowledges and no switch trims, is not kept. The answer is the new state and the packet's number. -/
def send (s : State) (l : Letter) : State × Nat :=
  let (s, id) := s.newId
  let f := (s.core l.src).fab
  let e := needsE s l.src l.dst l.vn
  let eng := l.who.isEngine
  let iseq : BitVec 16 := if l.req.isSome then 0
    else BitVec.ofNat 16 ((if eng then f.moved else f.issued) % 32768 + if eng then 32768 else 0)
  let tag : BitVec 8 := if l.req.isSome then l.tag else l.tag ||| (if srcHv s l.src l.who then 128#8 else 0#8)
  let p : Packet :=
    { id := id, who := l.who, src := l.src, dst := l.dst, vn := l.vn, launch := l.launch, seq := flowSeq f l.dst l.vn,
      trim := false, retx := false, ord := l.ord, e := e, rel := l.rel, req := l.req.getD id, body := l.body,
      iseq := iseq, tag := tag, at_ := entryAt l.src l.dst, esc := false, mod_ := l.mod_ }
  let f := bumpSeq f l.dst l.vn
  let f := if l.req.isSome then f else if eng then { f with moved := f.moved + 1 } else { f with issued := f.issued + 1 }
  let kept := e && !(match l.body with
    | .ack _ | .rreq .. => true
    | _ => false)
  let f := if kept then { f with kept := f.kept ++ [⟨p, s.now⟩] } else f
  ({ (s.modCore l.src (fun c => { c with fab := f })) with net := s.net ++ [p] }, id)

/-- A packet in flight by number. -/
def State.pkt (s : State) (k : Nat) : Option Packet := s.net.find? (fun p => p.id == k)

/-- The stream that a packet of VN3 belongs to. -/
def Body.streamOf : Body → Option Nat
  | .sopn n _ | .sdat n .. | .smrk n _ => some n
  | _ => none

/-- The unit of its destination that a packet of VN0 or VN3 is for: a reed, a stream, or the door. -/
def Body.unit : Body → Option Nat
  | .rack reed _ | .rdef reed _ => some reed
  | b => b.streamOf

/-- A packet has been handed to its destination in the order of its flow: on VN0 or VN3 no earlier packet of its flow to the same unit of
the destination still waits there (R231). -/
def State.here (s : State) (p : Packet) : Bool :=
  p.at_ == .arrived &&
    !((p.vn == 0 || p.vn == 3) && (s.net.takeWhile (fun q => q.id != p.id)).any (fun q =>
      q.src == p.src && q.dst == p.dst && q.vn == p.vn && q.at_ == .arrived && q.body.unit == p.body.unit))

/-- A packet by number that has arrived. -/
def State.got (s : State) (k : Nat) : Option Packet := (s.pkt k).filter (s.here ·)

/-- A packet leaves the fabric. -/
def State.take (s : State) (k : Nat) : State := { s with net := s.net.filter (fun p => p.id != k) }

/-! ### Taking a trap (R334, R335) -/

/-- The bank of a context as a trap or park writes it (R315). -/
def Ctx.toBank (c : Ctx) (rpc : Word) : Bank :=
  { regs := c.regs, rpc := rpc, handles := c.handles, srseed := c.srseed, vflag := c.vflag, task := c.task,
    restart := c.bank.restart }

/-- A stalled instruction is abandoned: its walk, fill, request and wait are forgotten (R314, R330). -/
def Ctx.abandon (c : Ctx) : Ctx :=
  -- a qbind that is abandoned before its result leaves its handle unbound (R105)
  let unbind (hs : Vector Handle 8) (o : Out) : Vector Handle 8 := match o.serial, o.dest with
    | true, .bindC _ h => hs.set h .unbound
    | _, _ => hs
  { c with handles := c.out.foldl unbind c.handles, units := none, stall := none, walk := none, fill := none, svc := none, inval := none, moving := none, pflt := none,
           out := updWhere (fun o => o.serial) (fun o => { o with dest := .none }) c.out }

/-- A context's walk leaves its slice's list. -/
def dropWalk (s : State) (cn : Nat) (hv : Bool) : State :=
  s.modSlice (sliceOf cn) (fun sl => { sl with walks := sl.walks.filter (fun w => !(w.core == cn && w.who == .ctx hv)) })

/-- The live file after a trap: every register present, and zero where it was not (R334). -/
def presentRegs (v : Vector Reg 16) : Vector Reg 16 := v.map (fun r => if r.present then r else ⟨0, true⟩)

/-- Index of an address at a level of the walk (R55). -/
def ptIndex (va lvl : Nat) : Nat :=
  match lvl with
  | 3 => bitsOf va 39 9
  | 2 => bitsOf va 30 9
  | 1 => bitsOf va 21 9
  | _ => bitsOf va 16 5

/-- log2 of the page size at a level (R55, R58). -/
def pageBits (lvl : Nat) : Nat :=
  match lvl with
  | 2 => 30
  | 1 => 21
  | _ => 16

/-- How a walk ends: a leaf, a fault, or a swapped page with its entry's address (R58, R342). -/
inductive WalkRes where
  | leaf (e : TlbEntry)
  | fault (c : Cause)
  | swapped (pte : Nat)
  deriving DecidableEq, Repr

/-- A kind of access is permitted by a leaf (R57, R58). -/
def permits (k : AccKind) (rd wr ex : Bool) : Bool :=
  match k with
  | .rd => rd
  | .w => wr
  | .x => ex

/-- What an entry read at a level means to Translate (R58): the next table, a leaf, a fault, or a swapped page (R342). -/
inductive EntryStep where
  | table (t : Nat)
  | leaf
  | fault (c : Cause)
  | swapped
  deriving DecidableEq, Repr

/-- One turn of Translate's loop on the entry `e` read at level `lvl` (R56..R58). -/
def entryStep (k : AccKind) (upper : Bool) (lvl e : Nat) : EntryStep :=
  if !e.testBit 0 then (if e.testBit 1 then .swapped else .fault .pageNotPresent)
  else if !e.testBit 1 then
    if lvl == 0 || bitsOf e 39 25 != 0 || bitsOf e 2 6 != 0 || (2 ≤ lvl && bitsOf e 8 4 != 0) then .fault .pageProt
    else .table (bitsOf e 8 31 * 256)
  else if lvl == 3 || bitsOf e 48 4 != 0 || bitsOf e 39 7 != 0 || bitsOf e 9 7 != 0 || bitsOf e 5 2 != 0 then .fault .pageProt
  else if (lvl == 2 && bitsOf e 16 14 != 0) || (lvl == 1 && bitsOf e 16 5 != 0) then .fault .pageProt
  else if upper != (bitsOf e 52 12 == 0) then .fault .pageProt
  else if !permits k (e.testBit 2) (e.testBit 3) (e.testBit 4) then .fault .pageProt
  else .leaf

/-- The TLB entry of a leaf `e` at `pte` (R57, R64). -/
def leafEntry (va lvl launch pte e : Nat) : TlbEntry :=
  let n := pageBits lvl
  { base := va / 2 ^ n * 2 ^ n, lvl := lvl, launch := launch, pte := pte, frame := bitsOf e 16 23 * 65536,
    key := bitsOf e 52 12, mig := e.testBit 47, rchk := e.testBit 46, rd := e.testBit 2, wr := e.testBit 3,
    ex := e.testBit 4, dirty := e.testBit 8 }

/-- A page-table entry's place: it is read and written under the system key at its physical address (R363). -/
def pteLoc (pte : Nat) : GLoc := ⟨pte, pte, 0, false, true⟩

/-- The parts of a leaf that R60 compares: L, FRAME and the rights. -/
def leafKey (e : Nat) : Bool × Nat × Bool × Bool × Bool :=
  (e.testBit 1, bitsOf e 16 23, e.testBit 2, e.testBit 3, e.testBit 4)

/-- The entry `x` that is read again is still the leaf `e` that the walk or the TLB had met (R60). -/
def sameLeaf (e x : Nat) : Bool := x.testBit 0 && leafKey x == leafKey e

/-- A leaf with A set, and for a write D (R60). -/
def marked (k : AccKind) (x : Nat) : Nat := x ||| 0x80 ||| (if k == .w then 0x100 else 0)

/-- MarkAccessed (R60): the indivisible OR at the entry's base die, which reads the entry again and answers what it then holds. An entry
that is no longer the leaf is not changed. -/
def markEntry (s : State) (pte : Nat) (k : AccKind) (e : Nat) : State × Nat :=
  let (s, bs) := hbmRead s pte pte 0 true 8
  let x := leNat bs
  if !sameLeaf e x then (s, x)
  else (if marked k x == x then s else hbmWrite s pte pte 0 true (natLe 8 (marked k x)), marked k x)

/-- What the entry `x` found by MarkAccessed means to an access that had met the leaf `e` (R60): where V is 0, or L, FRAME or the rights have
changed, it faults. -/
def markResult (va lvl launch pte e x : Nat) : WalkRes :=
  if !x.testBit 0 then (if x.testBit 1 then .swapped pte else .fault .pageNotPresent)
  else if !sameLeaf e x then .fault .pageProt
  else .leaf (leafEntry va lvl launch pte x)

/-- A leaf has the marks that an access needs (R60). -/
def markedFor (k : AccKind) (e : Nat) : Bool := e.testBit 7 && (k != .w || e.testBit 8)

/-- The end of a unit's walk at the leaf `e`, in one step (R58, R60). -/
def walkLeaf (s : State) (va : Nat) (k : AccKind) (launch pte lvl e : Nat) : State × WalkRes :=
  if markedFor k e then (s, .leaf (leafEntry va lvl launch pte e))
  else match unitFails s launch pte 8 with
    | some s => (s, .fault .eccUncorr)
    | none =>
      let (s, x) := markEntry (unitUse s launch) pte k e
      (s, markResult va lvl launch pte e x)

/-- Translate's walk from a table at level `n − 1` down, for n levels (R58), as a unit of the part makes it in one step; `launch` is 0
for the upper half. -/
def walkFrom (s : State) (va : Nat) (k : AccKind) (launch : Nat) (upper : Bool) (table : Nat) : Nat → State × WalkRes
  | 0 => (s, .fault .pageProt)
  | lvl + 1 =>
    let pte := table + ptIndex va lvl * 8
    match unitFails s launch pte 8 with
    | some s => (s, .fault .eccUncorr)
    | none =>
      let (s, bs) := hbmRead (unitUse s launch) pte pte 0 true 8
      let e := leNat bs
      match entryStep k upper lvl e with
      | .table t => walkFrom s va k launch upper t lvl
      | .leaf => walkLeaf s va k launch pte lvl e
      | .fault c => (s, .fault c)
      | .swapped => (s, .swapped pte)

/-- The root and tag of an address's half (R54); a context without a launch uses the system root. -/
def rootOf (s : State) (launch : Nat) (va : Word) : Nat × Nat :=
  if va.toNat.testBit 47 then (s.crust.sysRoot, 0)
  else match s.launch launch with
    | some l => (l.root, launch)
    | none => (s.crust.sysRoot, 0)

/-- A whole walk of a canonical address (R58). -/
def walkAll (s : State) (launch : Nat) (va : Word) (k : AccKind) : State × WalkRes :=
  let (root, tag) := rootOf s launch va
  walkFrom s (va.toNat % 2 ^ 48) k tag (va.toNat.testBit 47) root 4

/-- The HBM place of an address under a translation. -/
def TlbEntry.loc (e : TlbEntry) (va : Word) : GLoc :=
  { pa := e.frame + va.toNat % 2 ^ pageBits e.lvl, va := va.toNat, key := e.key, rchk := e.rchk, phys := false }

/-- Bytes at an upper-half or lower-half address as a unit of the part reads them, without a TLB: the trap table (R333),
queue areas (R289) and the crust's reads of a launch (R307); or the fault that the read meets, an uncorrectable error reported
with its physical address (R339). -/
def unitRead (s : State) (launch : Nat) (va : Word) : Nat → State × Except Cause (List Byte)
  | 0 => (s, .ok [])
  | n + 1 =>
    let (s, w) := if isCanon va then walkAll s launch va .rd else (s, .fault .addrNoncanon)
    match w with
    | .leaf e =>
      let g := e.loc va
      match unitFails s launch g.pa 1 with
      | some s => (s, .error .eccUncorr)
      | none =>
        let (s, b) := hbmRead (unitUse s launch) g.pa g.va g.key false 1
        let (s, bs) := unitRead s launch (va + 1) n
        (s, bs.map (fun t => b ++ t))
    | .fault c => (s, .error c)
    | .swapped _ => (s, .error .pageNotPresent)

/-- A context stops and its debug unit reports with kind 0 (R335, R339). -/
def stopCtx (s : State) (cn : Nat) (hv : Bool) (kind cause : Nat) (epc val : Word) : State :=
  let s := s.modCtxOf cn hv (fun c => { c with stop := true })
  let c := s.ctxOf cn hv
  report s (loafOf cn) kind cn hv (statusWord s cn hv) cause c.launch c.bank.rpc epc val

/-- TakeTrap (R334). A fault of the table's read stops the context with DBL, and the report names that fault: its EVAL is the
entry's address, and its EPC, since no instruction made the read, the first trap's resumption point (log 119). -/
def takeTrap (s : State) (cn : Nat) (hv : Bool) (cause : Cause) (kind : TKind) (epc rpc val : Word) : State :=
  let s := dropWalk (s.modCtxOf cn hv Ctx.abandon) cn hv
  let c := s.ctxOf cn hv
  if c.inh then
    stopCtx (s.modCtxOf cn hv (fun c => { c with dbl := true, closedFrom := none })) cn hv 0 cause.num epc val
  else
    let s := s.modCtxOf cn hv (fun c =>
      { c with ecause := BitVec.ofNat 10 (kind.num * 256 + cause.num), epc := epc, eval := val, ending := none,
               arrive := .none, closedFrom := none })
    if hv then stopCtx (s.modCtxOf cn hv (fun c => { c with bank := c.toBank rpc })) cn hv 0 cause.num epc val
    else
      let table : Option Word := (s.launch c.launch).map (·.ttab)
      let at_ : Word := (table.getD 0) + BitVec.ofNat 64 (8 * cause.num)
      let (s, e) := if table.isSome then unitRead s c.launch at_ 8 else (s, .ok [])
      let s := s.modCtxOf cn hv (fun c => { c with bank := c.toBank rpc })
      match e with
      | .error f => stopCtx (s.modCtxOf cn hv (fun c => { c with dbl := true })) cn hv 0 f.num rpc at_
      | .ok bs =>
        let v := leNat bs
        let s := s.modCtxOf cn hv (fun c => { c with regs := presentRegs c.regs })
        if !v.testBit 0 || !v.testBit 47 || bitsOf v 48 16 != 0 then stopCtx s cn hv 0 cause.num epc val
        else
          let s := s.modCtxOf cn hv (fun c =>
            { c with pmode := c.mode, mode := true, inh := true, pc := canon48 (bitsOf v 2 46 * 4), arrive := .vector })
          if v.testBit 1 then
            report s (loafOf cn) 1 cn hv (statusWord s cn hv) cause.num c.launch rpc epc val
          else s

/-- A BAR_OVER is taken: the oldest one pending. One that is still pending after an rte is taken then (R262). -/
def takeBarOver (s : State) (cn : Nat) (hv : Bool) : State :=
  let c := s.ctxOf cn hv
  match c.bops with
  | [] => s
  | b :: rest =>
    takeTrap (s.modCtxOf cn hv (fun c => { c with bops := rest, further := true })) cn hv .barOver .pending b.epc c.pc b.obj

/-- A precise trap of the issuing context: EPC and RPC are its instruction (R330). -/
def precise (s : State) (cause : Cause) (val : Word) : State :=
  let pc := s.ctx.pc
  takeTrap s s.cur.core s.cur.hv cause .precise pc pc val

/-- A precise trap of an operand check: an uncorrectable error of local memory is reported with its offset (R82, R339). -/
def preciseOp (s : State) (cause : Cause) (val : Word) : State :=
  precise (if cause == .eccUncorr then reportEcc s (loafOf s.cur.core) s.cur.core s.ctx.launch val.toNat else s) cause val

/-- A context that fell out of a closed line takes LINE_MALFORMED at the next line's word 2 (R35), before any fault that is due
at that boundary (log 120). -/
def fallen (s : State) (cn : Nat) (hv : Bool) : Option State :=
  let c := s.ctxOf cn hv
  c.closedFrom.map (fun a => takeTrap s cn hv .lineMalformed .precise c.pc c.pc a)

/-- The issuing context stalls: a counted wait keeps its first cycle (R110). -/
def State.stalled (s : State) (code : Option Nat) : State :=
  s.modCtx (fun c =>
    { c with stall := match c.stall, code with
      | some ⟨some _, t, d⟩, some _ => some ⟨code, t, d⟩
      | _, _ => some ⟨code, s.now, false⟩ })

/-- The issuing context's count has passed the bound in the stall that it is in (R110). -/
def Ctx.overdue (c : Ctx) : Bool := c.stall.any (fun x => x.code.isSome && x.due)

/-- The state that an instruction of the issuing context leaves: its own, or one that stalls or traps. -/
def settle (s : State) (r : Act) : State :=
  match r with
  | .ok t => t.modCtx (fun c => { c with stall := none })
  | .error (.stall (some code)) =>
    if s.ctx.overdue then precise s .presenceTimeout (BitVec.ofNat 64 code) else s.stalled (some code)
  | .error (.stall none) => s.stalled none
  | .error (.wait t) => t.stalled none
  | .error (.trap c v) => preciseOp s c v
  | .error (.ecc v) => precise s .eccUncorr v
  | .error (.trapAt c epc v) => takeTrap s s.cur.core s.cur.hv c .precise epc epc v
  | .error .barOver => takeBarOver s s.cur.core s.cur.hv

/-- The outcome of an instruction of the issuing context. -/
def finish (s : State) (r : Act) : Host.Outcome State Fault Refusal := .next (settle s r)

/-- ILLEGAL_OP of an instruction whose first word is `w` (R41). -/
def illegal (w : Word32) : Stop := .trap .illegalOp (w.setWidth 64)

/-- A test whose failure is ILLEGAL_OP. -/
def legal (ok : Bool) (w : Word32) : Except Stop Unit := if ok then .ok () else .error (illegal w)

/-- A reply without its register: a bind still binds, and a refused arrival is still noted (R105, R262, R345). -/
def Dest.cut : Dest → Dest
  | .none | .reg .. => .none
  | .row v => .row v
  | .bindC _ h => .bindC Option.none h
  | .bindP _ h => .bindP Option.none h
  | .arrive _ => .arrive Option.none

/-- The return of R345. Registers outside the keep mask take their images, and a reply outstanding for a kept register, or of
the handler for a restored one, will be discarded. -/
def returnFrom (c : Ctx) (keep : BitVec 16) (target : Option Word) : Ctx :=
  let regs := Vector.ofFn (fun (i : Fin 16) => if keep.getLsbD i.val then c.regs[i] else c.bank.regs[i])
  let lost (o : Out) : Bool := match o.dest with
    | .reg r _ | .arrive (some r) | .bindC (some r) _ | .bindP (some r) _ => keep.getLsbD r.val || o.handler
    | .none | .row _ | .arrive none | .bindC none _ | .bindP none _ => false
  { c with regs := regs, mode := c.pmode, inh := false, pc := target.getD c.bank.rpc, stall := none,
           closedFrom := none, arrive := .none,
           out := c.out.map (fun o => { (if lost o then { o with dest := o.dest.cut } else o) with handler := false }),
           ngets := c.ngets.map (fun g => match g.dest with
             | some r => if keep.getLsbD r.val || g.handler then { g with dest := none } else { g with handler := false }
             | none => g) }

end Sys2Proof.Machine
end

