-- ==== Sys2Proof/Machine/Order.lean ====
section
/-! DEFINITION. Which requests of a core its homes have not performed yet, and what must wait for them (R69, R87, R242, R266, R273). -/

namespace Sys2Proof.Machine

open Sys2Proof

/-- Bytes that a door operation names (R87). -/
def DoorOp.bytes : DoorOp → Nat
  | .atom _ dbl _ _ => if dbl then 8 else 4
  | .join => 160
  | .bindC _ | .bindP | .qwait | .qadv | .qres _ | .qpub .. | .qeos _ => 32
  | .binit _ | .bjoin | .barv _ | .bdrop _ | .bexp _ | .bwait _ | .credit _ => 32

/-- The home of a request, and the address and length of its bytes there. -/
def Packet.place (p : Packet) : Option (Home × Nat × Nat) :=
  match p.body with
  | .grd g n _ => some (.die (g.pa / 2 ^ 36), g.pa, n)
  | .line g _ => some (.die (g.pa / 2 ^ 36), g.pa, 64)
  | .mark g _ _ => some (.die (g.pa / 2 ^ 36), g.pa, 8)
  | .gwr g data => some (.die (g.pa / 2 ^ 36), g.pa, data.length)
  | .gat g _ dbl _ _ => some (.die (g.pa / 2 ^ 36), g.pa, if dbl then 8 else 4)
  | .gred g _ _ => some (.die (g.pa / 2 ^ 36), g.pa, 64)
  | .drd off n => some (.door p.dst, off, n)
  | .dwr off data => some (.door p.dst, off, data.length)
  | .nibble off _ _ => some (.door p.dst, off, 1)
  | .dat off op => some (.door p.dst, off, op.bytes)
  | .park off _ => some (.door p.dst, off, 160)
  | .cwr (.door d) off _ data => some (.door d, off, data.length)
  | .cwr (.die k) _ g data => some (.die k, g.pa, data.length)
  | .cwr (.far d) off _ data => some (.far d, off, data.length)
  | _ => none

/-- The sequence of R69 that a request belongs to: the contexts' or the engine's; the reads of walkers and fills and the writes of
gateways belong to none. -/
def Src.sequence : Src → Option Bool
  | .ctx _ => some false
  | .engine _ => some true
  | .walk _ | .fill _ | .gate .. => none

/-- A read, which mode E performs again for a duplicate (R242). -/
def Body.isRead : Body → Bool
  | .grd .. | .line .. | .drd .. => true
  | _ => false

/-- Requests of a core that its homes have not performed: those in flight, and in mode E kept copies, whose packet a switch may have
trimmed (R69, R87, R237). A read is performed with the performance whose reply its requester takes, so it counts while its copy is kept
(R242, R271; log 159). -/
def unperformed (s : State) (src : Nat) : List Packet :=
  let kept := (s.core src).fab.kept.map (·.pkt)
  (s.net.filter (fun q => q.src == src)).filter (fun q => !s.isDone q) ++ kept.filter (fun q => q.body.isRead || !s.isDone q)

/-- An earlier request of the same sequence to a common granule has not been performed (R69, R87). -/
def overtakes (s : State) (p : Packet) : Bool :=
  match p.place, p.who.sequence with
  | some (h, a, n), some sq =>
    (unperformed s p.src).any (fun q => q.who.sequence == some sq && decide (q.req < p.req) &&
      (match q.place with
       | some (h', b, m) => h' == h && (granules b m).any (fun g => (granules a n).contains g)
       | none => false))
  | _, _ => false

/-- A request of the issuing context to its own door that touches bytes `off .. off + n − 1` has not been performed: an own access to them
waits, so that the accesses of one context to one byte keep program order (R86, R271). -/
def ownDoor (s : State) (off n : Nat) : Except Stop Unit :=
  waitFor (!(unperformed s s.cur.core).any (fun q => q.who == .ctx s.cur.hv &&
    (match q.place with
     | some (.door d, b, m) => d == s.cur.core && decide (b < off + n) && decide (off < b + m)
     | _ => false))) none

end Sys2Proof.Machine
end

