-- ==== Sys2Proof/Machine/Operands.lean ====
section
/-! DEFINITION. Operand forms: access sizes (R23), global addresses and their translation through the TLBs (R53, R58, R64),
branch targets (R36, R37), peer addresses (R86), local offsets and the loan (R85, R319), rows and tiles (R210, R319), and
completion objects at issue (R97). -/

namespace Sys2Proof.Machine

open Sys2Proof

/-! ### Sizes (R23) -/

/-- Bytes of a load size. -/
def szBytes : LoadSize → Nat
  | .b | .sb => 1
  | .h | .sh => 2
  | .w | .sw => 4
  | .d => 8

/-- Bytes of a store size. -/
def stBytes : StoreSize → Nat
  | .b => 1
  | .h => 2
  | .w => 4
  | .d => 8

/-- A loaded value, zero- or sign-extended (R75). -/
def extendSz (sz : LoadSize) (v : Nat) : Word :=
  match sz with
  | .b | .h | .w | .d => BitVec.ofNat 64 (v % 2 ^ (8 * szBytes sz))
  | .sb => signExtend v 8
  | .sh => signExtend v 16
  | .sw => signExtend v 32

/-- A signed 13-bit offset added exactly to a base (R53, R85). -/
def offSum (base : Word) (off : BitVec 13) : Int := (base.toNat : Int) + off.toInt

/-! ### Global addresses (R53, R74) -/

/-- The `n` bytes at an exact sum pass R53. -/
def canonRange (sum : Int) (n : Nat) : Bool :=
  let va : Word := BitVec.ofInt 64 sum
  decide (0 ≤ sum) && decide (sum + n ≤ 18446744073709551616) && isCanon va
    && isCanon (va + BitVec.ofNat 64 (n - 1))
    && va.toNat.testBit 47 == (va + BitVec.ofNat 64 (n - 1)).toNat.testBit 47

/-- Alignment, then the checks of R53, on an exact sum. -/
def globalAddr (sum : Int) (n : Nat) : Except Stop Word := do
  let va : Word := BitVec.ofInt 64 sum
  need (sum % (n : Int) == 0) .align va
  need (canonRange sum n) .addrNoncanon va
  .ok va

/-- A TLB entry of a launch's half that maps an address (R64). -/
def tlbFind (l : List TlbEntry) (launch : Nat) (va : Word) : Option TlbEntry :=
  l.find? (fun e => e.launch == launch && e.base == va.toNat % 2 ^ 48 / 2 ^ pageBits e.lvl * 2 ^ pageBits e.lvl)

/-- An entry joins a TLB of `cap` entries; an older one of the same page leaves, and the oldest beyond the capacity. -/
def tlbAdd (cap : Nat) (e : TlbEntry) (l : List TlbEntry) : List TlbEntry :=
  (e :: l.filter (fun x => !(x.launch == e.launch && x.base == e.base && x.lvl == e.lvl))).take cap

/-- The set of the second-level TLB that an entry belongs to: 256 sets of 8 ways; which set is left open (R64). -/
def TlbEntry.set (e : TlbEntry) : Nat := Config.tlbSet (e.base / 65536) % 256

/-- An entry joins a slice's second-level TLB (R64): the oldest of its set's 8 ways beyond the eighth leaves. -/
def tlbAddWays (e : TlbEntry) (l : List TlbEntry) : List TlbEntry :=
  let l := l.filter (fun x => !(x.launch == e.launch && x.base == e.base && x.lvl == e.lvl))
  let old := (l.filter (fun x => x.set == e.set)).drop 7
  e :: l.filter (fun x => !old.contains x)

/-- An entry joins a core's DTLB or ITLB (R64). -/
def Core.addTlb (c : Core) (x : Bool) (e : TlbEntry) : Core :=
  if x then { c with itlb := tlbAdd 16 e c.itlb } else { c with dtlb := tlbAdd 32 e c.dtlb }

/-- What a lookup in the TLBs gives: an entry, an entry whose D a write must set first, a permission fault, or a walk to make
(R58, R60, R64). -/
inductive Lookup where
  | hit (e : TlbEntry)
  | mark (e : TlbEntry)
  | prot
  | miss

/-- DTLB or ITLB, then the slice's second level. -/
def lookup (s : State) (cn launch : Nat) (va : Word) (k : AccKind) : Lookup :=
  let tag := if va.toNat.testBit 47 then 0 else launch
  let l1 := if k == .x then (s.core cn).itlb else (s.core cn).dtlb
  match (match tlbFind l1 tag va with
         | some e => some e
         | none => tlbFind (s.slice (sliceOf cn)).tlb tag va) with
  | none => .miss
  | some e =>
    if !permits k e.rd e.wr e.ex then .prot
    else if k == .w && !e.dirty then .mark e
    else .hit e

/-- A leaf joins the core's TLB and the slice's second level (R64). -/
def fillTlbs (s : State) (cn : Nat) (x : Bool) (e : TlbEntry) : State :=
  (s.modCore cn (fun c => c.addTlb x e)).modSlice (sliceOf cn) (fun sl => { sl with tlb := tlbAddWays e sl.tlb })

/-- A context asks for a walk: the request joins its slice's list once (R64). -/
def askWalk (s : State) (r : WalkReq) : State :=
  if s.ctx.walk == some r then s
  else
    let w : Walk := ⟨s.cur.core, .ctx s.cur.hv, r, .start⟩
    let s := dropWalk s s.cur.core s.cur.hv
    (s.modCtx (fun c => { c with walk := some r })).modSlice (sliceOf s.cur.core)
      (fun sl => { sl with walks := sl.walks ++ [w] })

/-- Another access of the core waits for its translation, which holds back later global accesses (R64). -/
def walkBusy (s : State) : Bool :=
  (s.slice (sliceOf s.cur.core)).walks.any (fun w =>
    w.core == s.cur.core && w.who != .ctx s.cur.hv && w.req.kind != .x)

/-- Translate at issue for the issuing context (R58): the entry, and the state with the first-level TLB filled. `val` is the
EVAL of its faults. -/
def translate (s : State) (va : Word) (k : AccKind) (val : Word) (pref : Option Nat) : Except Stop (State × TlbEntry) :=
  if !isCanon va then .error (.trap .addrNoncanon val)
  else if va.toNat.testBit 47 && !s.ctx.mode then .error (.trap .pageProt val)
  else if k != .x && walkBusy s then .error (.stall none)
  else match lookup s s.cur.core s.myLaunch va k with
    | .hit e => .ok (s.modMe (fun c => c.addTlb (k == .x) e), e)
    | .prot => .error (.trap .pageProt val)
    | .mark e => .error (.wait (askWalk s ⟨va, k, val, pref, some e⟩))
    | .miss => .error (.wait (askWalk s ⟨va, k, val, pref, none⟩))

/-! ### Lines and targets (R34, R36, R37) -/

/-- A service core without a launch runs the image from its own 16 MiB of memory, untranslated (R9, R361). -/
def ownFetch (s : State) (cn : Nat) (hv : Bool) (va : Word) : Bool :=
  isSvc cn && (s.ctxOf cn hv).task.isNone && decide (va.toNat < Config.svcMemSize)

/-- The line of an address in the context's instruction cache, after its translation; a missing line is asked for. -/
def fetchLine (s : State) (va val : Word) : Except Stop (State × Line) := do
  let s ← if ownFetch s s.cur.core s.cur.hv va then .ok s
          else do
            let (s, _) ← translate s va .x val none
            .ok s
  match s.ctx.line (lineAddr va) with
  | some l => .ok (s, l)
  | none => .error (.wait (s.modCtx (fun c =>
      { c with fill := some ((c.fill.filter (fun f => f.addr == lineAddr va)).getD ⟨lineAddr va, none, []⟩) })))

/-- ECC_UNCORR of a line whose fill met an uncorrectable error (R34). -/
def lineSound (l : Line) (val : Word) : Except Stop Unit :=
  match l.state with
  | .ecc => .error (.ecc val)
  | .ok | .malformed => .ok ()

/-- What an arrival demands of its word (R36, R286, R345). -/
inductive Arrive where
  | target | function | start
  deriving DecidableEq, Repr

/-- The word of a line satisfies the arrival. -/
def arriveOk (a : Arrive) (l : Line) (w : Nat) : Bool :=
  match a with
  | .target => l.target w
  | .function => w == 2 && l.head && l.target 2
  | .start => l.start w

/-- The target checks of R37 in their order, each fault with EVAL the target. -/
def checkTarget (s : State) (t : Word) (a : Arrive) : Except Stop State := do
  need (isCanon t) .addrNoncanon t
  need (t.toNat % 4 == 0 && decide (2 ≤ wordIdx t)) .targetUnmarked t
  let (s, l) ← fetchLine s t t
  lineSound l t
  need (l.state == .ok) .lineMalformed t
  need (arriveOk a l (wordIdx t)) .targetUnmarked t
  .ok s

/-- The target of a B-format instruction without a literal (R42). -/
def branchTarget (pc : Word) (delta : BitVec 7) (w : Fin 32) : Word :=
  lineAddr pc + (delta.signExtend 64) * 128 + BitVec.ofNat 64 (4 * w.val)

/-! ### Peer addresses (R86) -/

/-- The core a peer address names. -/
def peerCore (pa : Word) : Nat := bitsOf pa.toNat 16 15

/-- The offset a peer address names. -/
def peerOff (pa : Word) : Nat := bitsOf pa.toNat 0 16

/-- A peer address as R86 accepts it for a launch. -/
def peerOk (s : State) (launch : Nat) (pa : Word) : Bool := pa.toNat < 2 ^ 31 && s.placed launch (peerCore pa)

/-- An exact sum used as a peer address; PEER_DENIED where R86 fails (R86, R92). -/
def peerAddr (s : State) (sum : Int) : Except Stop Word := do
  let pa : Word := BitVec.ofInt 64 sum
  need (decide (0 ≤ sum) && decide (sum < 2147483648) && peerOk s s.myLaunch pa) .peerDenied pa
  .ok pa

/-! ### Local offsets, the loan and the scoreboard (R85, R96, R319) -/

/-- The loan lends bytes at `off` (R318). -/
def inWindow (l : Loan) (off : Nat) : Bool := l.base * 4096 ≤ off && off < (l.base + l.nunits) * 4096

/-- Bytes `off .. off + n − 1` lie wholly in the window. -/
def allIn (l : Loan) (off n : Nat) : Bool := l.base * 4096 ≤ off && off + n ≤ (l.base + l.nunits) * 4096

/-- Bytes `off .. off + n − 1` meet the window. -/
def anyIn (l : Loan) (off n : Nat) : Bool :=
  l.nunits != 0 && n != 0 && off < (l.base + l.nunits) * 4096 && l.base * 4096 < off + n

/-- A context may touch a local area: in range, the harvest wholly inside the window, the owner wholly outside (R85, R319). -/
def areaOk (s : State) (off : Int) (n : Nat) : Bool :=
  decide (0 ≤ off) && decide (off + n ≤ 65536) &&
    (if s.cur.hv then n == 0 || allIn s.me.loan off.toNat n else !anyIn s.me.loan off.toNat n)

/-- ALIGN, then LOCAL_RANGE, on an exact offset (R85, R90). -/
def localOff (s : State) (off : Int) (n al : Nat) : Except Stop Nat := do
  let v : Word := BitVec.ofInt 64 off
  need (off % (al : Int) == 0) .align v
  need (areaOk s off n) .localRange v
  .ok off.toNat

/-- WaitScoreboard (R96). The wait counts, as R110 has it: DESIGN CHOICE for pload's, which R205 does not list among its counted waits (log
167). -/
def waitBoard (s : State) (off n : Nat) : Except Stop Unit :=
  waitFor (!s.me.board.any (fun r => off ≤ r.hi && r.lo < off + n)) (some 0x100)

/-- The peer address of an offset (R86). -/
def peerOf (cn off : Nat) : Word := BitVec.ofNat 64 (cn * 65536 + off)

/-- The race check of an own local access, precise, with EVAL its peer address (R281); `val` is the access's offset. -/
def localRace (s : State) (off n val : Nat) : Except Stop Unit :=
  need (!lmRace s s.cur.core off n s.cur.core s.myLaunch) .mmRace (peerOf s.cur.core val)

/-! ### Rows and tiles (R210, R319) -/

/-- A row that the loan gives to the other context. -/
def rowBarred (s : State) (v : VReg) : Bool :=
  if s.cur.hv then !(s.me.loan.t3 && v.val / 16 == 3) else s.me.loan.t3 && v.val / 16 == 3

/-- The harvest fault of a row (R319). -/
def rowAllowed (s : State) (v : VReg) : Except Stop Unit :=
  need (!rowBarred s v) .localRange (BitVec.ofNat 64 (0x10040 + v.val))

/-- Row 0 of a tile. -/
def tileRow0 (t : TileNo) : VReg := ⟨t.val * 16, by omega⟩

/-- The harvest fault of a tile (R319). -/
def tileAllowed (s : State) (t : TileNo) : Except Stop Unit := rowAllowed s (tileRow0 t)

/-- The first non-present row of a tile. -/
def tileBusy (c : Core) (t : TileNo) : Option Nat :=
  (List.range 16).find? (fun i => !(c.tiles[t].rows[i]?.map (·.present)).getD true)

/-- Every row of a tile is present: no row is armed and none waits for a reply (R172, R212). -/
def waitTile (s : State) (t : TileNo) : Except Stop Unit :=
  match tileBusy s.me t with
  | some i => .error (.stall (some (0x40 + t.val * 16 + i)))
  | none => .ok ()

/-! ### Completion objects at issue (R97) -/

/-- ALIGN, then LOCAL_RANGE, on an object offset (R97, R101). -/
def objOk (s : State) (obj : Word) : Except Stop Nat := do
  need (obj.toNat % 8 == 0) .align obj
  need (areaOk s obj.toNat 8) .localRange obj
  .ok obj.toNat

/-- The STATUS 0 write of an object by the issuing core (R97): a store of the context, precise ECC_UNCORR on a bad unit. -/
def startObj (s : State) (obj : Nat) : Act := do
  orderOk s true
  ownDoor s obj 8
  need (!lmBad s s.cur.core (obj / 16)) .eccUncorr (BitVec.ofNat 64 obj)
  .ok (lmWrite s s.cur.core obj s.myLaunch (natLe 8 0))

/-- The issuing context is the harvest context: instructions of R311 are illegal there. -/
def ownerOnly (s : State) (w : Word) : Except Stop Unit := need (!s.cur.hv) .illegalOp w

end Sys2Proof.Machine
end

