-- ==== Sys2Proof/Machine/Queue.lean ====
section
/-! DEFINITION. Records and the queues that hold them: the record's layout (R285), queue names (R287..R289), posts (R290),
mapping onto slice slots (R291), what is eligible for a core (R293, R294, R304), the exclusive demand (R313), the start of a
park, and how a task that has passed its commit point ends (R121, R295). -/

namespace Sys2Proof.Machine

open Sys2Proof

/-! ### The record (R285) -/

/-- The number whose 160 bytes are the record. -/
def CR.toNum (r : CR) : Nat :=
  let b (x : Bool) (i : Nat) : Nat := if x then 2 ^ i else 0
  let flags := b r.excl 0 + b r.loanLost 1 + b r.migr 2 + b r.resume 3 + b r.pflt 4
  let saved := (List.finRange 16).foldr (fun i n => (if r.mask.getLsbD i.val then r.saved[i].toNat else 0) + 2 ^ 64 * n) 0
  r.pc.toNat + r.mask.toNat * 2 ^ 48 + r.frame.toNat * 2 ^ 64 + r.join.toNat * 2 ^ 128 + r.chan % 8 * 2 ^ 160
    + flags * 2 ^ 176 + r.aid % 2 ^ 15 * 2 ^ 192 + r.akind % 4 * 2 ^ 224 + r.launch % 2 ^ 16 * 2 ^ 240 + saved * 2 ^ 256

/-- The record in 160 bytes; reserved bits are ignored. -/
def CR.ofNum (n : Nat) : CR :=
  { saved := Vector.ofFn (fun (i : Fin 16) => BitVec.ofNat 64 (bitsOf n (256 + 64 * i.val) 64)),
    launch := bitsOf n 240 16, akind := bitsOf n 224 2, aid := bitsOf n 192 15, excl := n.testBit 176,
    loanLost := n.testBit 177, migr := n.testBit 178, resume := n.testBit 179, pflt := n.testBit 180,
    chan := bitsOf n 160 3, join := BitVec.ofNat 32 (bitsOf n 128 32), frame := BitVec.ofNat 64 (bitsOf n 64 64),
    mask := BitVec.ofNat 16 (bitsOf n 48 16), pc := BitVec.ofNat 48 (bitsOf n 0 48) }

/-- The record's bytes. -/
def CR.bytes (r : CR) : List Byte := natLe 160 r.toNum

/-- Register values under a mask; the others are saved as zero. -/
def savedRegs (regs : Vector Reg 16) (mask : BitVec 16) : Vector Word 16 :=
  Vector.ofFn (fun (i : Fin 16) => if mask.getLsbD i.val then regs[i].val else 0)

/-- A record with no register and no flag. -/
def CR.blank (launch akind aid chan : Nat) (frame pc : Word) : CR :=
  { saved := Vector.replicate 16 0, launch := launch, akind := akind, aid := aid, excl := false, loanLost := false,
    migr := false, resume := false, pflt := false, chan := chan, join := 0, frame := frame, mask := 0,
    pc := pc.setWidth 48 }

/-- The record of a task-ending instruction (R295): it keeps CHAN, AKIND, AID, LAUNCH and the task's flags (R122). -/
def endRecord (t : Task) (regs : Vector Reg 16) (mask : BitVec 16) (pc : Word) : CR :=
  { CR.blank t.launch t.akind t.aid t.chan t.frame pc with
    saved := savedRegs regs mask, mask := mask, excl := t.excl, loanLost := t.loanLost }

/-- The record of a whole context that hardware moves (R62, R308, R323, R340): every register, RESUME set. -/
def wholeRecord (t : Task) (regs : Vector Reg 16) (pc : Word) : CR :=
  { endRecord t regs 0xFFFF pc with resume := true }

/-! ### Memory of a unit (R289, R333): the upper half through the system root -/

/-- Bytes written at a virtual address, granule by granule; a failing walk, or a partial write of a bad granule, drops the
granule's part. `n` bounds the granules. -/
def unitWrite (s : State) (launch : Nat) : Nat → Word → List Byte → State
  | 0, _, _ => s
  | n + 1, va, bs =>
    if bs.isEmpty then s
    else
      let k := 32 - va.toNat % 32
      let part := bs.take k
      let (s, w) := if isCanon va then walkAll s launch va .w else (s, .fault .addrNoncanon)
      let s := match w with
        | .leaf e =>
          let g := e.loc va
          -- a granule that is written whole is not read (R71)
          match unitFails s launch g.pa (if hbmBadPart s g.pa part.length then part.length else 0) with
          | some s => s
          | none => hbmWrite (unitUse s launch) g.pa g.va g.key false part
        | _ => s
      unitWrite s launch n (va + BitVec.ofNat 64 part.length) (bs.drop k)

/-- Bytes at a virtual address; noise where the walk or the memory fails. -/
def unitReadN (s : State) (launch : Nat) (va : Word) (n : Nat) : State × List Byte :=
  match unitRead s launch va n with
  | (s, .ok bs) => (s, bs)
  | (s, .error _) => noises s n

/-! ### Names and places of queues (R287..R289) -/

/-- Slices of a placement in ascending order (R289). -/
def Launch.slices (l : Launch) : List Nat := (l.place.map sliceOf).eraseDups

/-- Unretired cores of a placement. -/
def alive (s : State) (l : Launch) : List Nat := l.place.filter (fun k => !(s.core k).retired)

/-- The slice target of a record that any core of the launch may take (R287). -/
def anySlice (s : State) (l : Launch) (poster : Nat) : Option Nat :=
  match alive s l with
  | [] => none
  | k :: rest => if (k :: rest).any (fun c => sliceOf c == sliceOf poster) then some (sliceOf poster) else some (sliceOf k)

/-- The number t of a record's target, in the numbering of R289 (R287). -/
def queueTarget (s : State) (l : Launch) (r : CR) (poster : Nat) : Option Nat :=
  let core (k : Nat) : Option Nat := if (alive s l).contains k then l.place.findIdx? (· == k) else none
  let slice (k : Nat) : Option Nat :=
    if (alive s l).any (fun c => sliceOf c == k) then (l.slices.findIdx? (· == k)).map (l.place.length + ·) else none
  let any : Option Nat := (anySlice s l poster).bind slice
  match r.akind with
  | 0 => (core r.aid).orElse (fun _ => any)
  | 1 => (slice (r.aid % 512)).orElse (fun _ => any)
  | _ => any

/-- The queue channel of a record (R288); a restart record goes to channel 7 whatever its CHAN (R320). -/
def queueChan (r : CR) (fixed : Option Nat) : Nat :=
  if r.chan == 7 || fixed == some 7 then 7 else if r.migr then 0 else fixed.getD r.chan

/-- The index of a record's queue (R289). -/
def queueIdx (s : State) (l : Launch) (r : CR) (poster : Nat) (fixed : Option Nat) : Option Nat :=
  (queueTarget s l r poster).map (fun t => 8 * t + queueChan r fixed)

/-- The slice that maps a queue. -/
def queueSlice (l : Launch) (idx : Nat) : Nat :=
  let t := idx / 8
  if t < l.place.length then sliceOf (l.place.getD t 0) else l.slices.getD (t - l.place.length) 0

/-- Address of a queue's header (R289). -/
def queueBase (l : Launch) (idx : Nat) : Word := l.qarea + BitVec.ofNat 64 (idx * (32 + 160 * 2 ^ l.lq))

/-- Address of a queue's slot (R289). -/
def queueSlot (l : Launch) (idx k : Nat) : Word := queueBase l idx + BitVec.ofNat 64 (32 + 160 * (k % 2 ^ l.lq))

/-- A mapped queue's slot. -/
def Slice.find (sl : Slice) (q : QName) : Option (Nat × QSlot) := sl.slots.find? (fun p => p.2.name == q)

/-- HEAD and TAIL of a queue: the slice's copy where it is mapped (R289). -/
def queueHeader (s : State) (l : Launch) (idx : Nat) : State × Nat × Nat :=
  match (s.slice (queueSlice l idx)).find ⟨l.num, idx⟩ with
  | some (_, q) => (s, q.head, q.tail)
  | none =>
    let (s, bs) := unitReadN s l.num (queueBase l idx) 8
    let v := leNat bs
    (s, bitsOf v 0 32, bitsOf v 32 32)

/-- Records between HEAD and TAIL; indices wrap modulo 2^32. -/
def queueLen (head tail : Nat) : Nat := (tail + 2 ^ 32 - head) % 2 ^ 32

/-- A queue has no room (R290). -/
def queueFull (s : State) (l : Launch) (idx : Nat) : Bool :=
  let (_, h, t) := queueHeader s l idx
  2 ^ l.lq ≤ queueLen h t

/-! ### Mapping (R291) -/

/-- HEAD and TAIL written to memory. -/
def writeHeader (s : State) (l : Launch) (idx head tail : Nat) : State :=
  unitWrite s l.num 2 (queueBase l idx) (natLe 8 (head + tail * 2 ^ 32))

/-- A free slot of a slice, lowest number first. -/
def Slice.free (sl : Slice) : Option Nat := (List.range 64).find? (fun n => (mfind sl.slots n).isNone)

/-- A queue takes slot `n`. Its stay of a whole quantum begins at boundary `at_` (R292). A queue whose header shows no record, as one that
was rewritten while it was unmapped may (R289), has no work and takes no slot. -/
def mapAt (s : State) (sl : Nat) (q : QName) (l : Launch) (n at_ : Nat) : State :=
  let (s, h, t) := queueHeader s l q.idx
  if h == t then s else s.modSlice sl (fun x => { x with slots := mset x.slots n ⟨q, h, t, s.now, at_, none⟩ })

/-- The first boundary at or after a mapping between two boundaries. -/
def Slice.nextBoundary (sl : Slice) : Nat := sl.quantum + 1

/-- A queue that gained work takes a free slot, or joins the waiting list. -/
def mapQueue (s : State) (sl : Nat) (q : QName) : State :=
  match s.launch q.launch with
  | none => s
  | some l =>
    match (s.slice sl).free with
    | none => s.modSlice sl (fun x => { x with waiting := x.waiting ++ [q] })
    | some n => mapAt s sl q l n (s.slice sl).nextBoundary

/-- A slot gives up its queue, whose header goes back to memory. -/
def unmapSlot (s : State) (sl n : Nat) : State :=
  match mfind (s.slice sl).slots n with
  | none => s
  | some q =>
    let s := match s.launch q.name.launch with
      | some l => writeHeader s l q.name.idx q.head q.tail
      | none => s
    s.modSlice sl (fun x => { x with slots := mdel x.slots n })

/-- The head of a waiting list `qs` takes a free slot; a queue that has no work any more only leaves the list (R291). -/
def mapHead (s : State) (sl at_ : Nat) : List QName → State
  | [] => s
  | q :: rest =>
    match s.launch q.launch, (s.slice sl).free with
    | none, _ => mapHead (s.modSlice sl (fun x => { x with waiting := rest })) sl at_ rest
    | some _, none => s
    | some l, some n =>
      let s := mapAt (s.modSlice sl (fun x => { x with waiting := rest })) sl q l n at_
      if (mfind (s.slice sl).slots n).isSome then s else mapHead s sl at_ rest

/-- The head of the waiting list takes a free slot between two boundaries. -/
def mapWaiting (s : State) (sl : Nat) : State := mapHead s sl (s.slice sl).nextBoundary (s.slice sl).waiting

/-! ### What is eligible for a core (R293, R294, R304) -/

/-- ECNT of a launch, in µJ (R356). -/
def Launch.ecnt (l : Launch) : Word := BitVec.ofNat 64 (Nat.min (l.energy / 1000000) (2 ^ 64 - 1))

/-- A launch is over budget (R304). -/
def Launch.over (l : Launch) : Bool := l.ebud != 0 && l.ebud.toNat ≤ l.ecnt.toNat

/-- The channel a queue is served as (R288, R304). -/
def effChan (l : Launch) (idx : Nat) : Nat :=
  let q := idx % 8
  if l.over && 2 ≤ q && q ≤ 5 then 6 else q

/-- A queue is eligible for a core (R293). -/
def eligibleFor (s : State) (l : Launch) (idx cn : Nat) : Bool :=
  let t := idx / 8
  if t < l.place.length then l.place.getD t 0 == cn && !(s.core cn).retired
  else l.slices.getD (t - l.place.length) 0 == sliceOf cn && s.placed l.num cn

/-- Mapped queues of a core's slice that hold a record and are eligible for it, with their slot and launch, in slot order. -/
def mappedFor (s : State) (cn : Nat) : List (Nat × QSlot × Launch) :=
  (s.slice (sliceOf cn)).slots.filterMap (fun p => match s.launch p.2.name.launch with
    | some l => if p.2.head != p.2.tail && eligibleFor s l p.2.name.idx cn then some (p.1, p.2, l) else none
    | none => none)

/-- A mapped queue of the owner's channels holds a record with EXCL set (R313): bit 0 of byte 22 of a slot. -/
def exclIn (s : State) (l : Launch) (q : QSlot) : Bool :=
  q.name.idx % 8 != 7 && (natRange q.head (queueLen q.head q.tail)).any (fun k =>
    match (unitReadN s l.num (queueSlot l q.name.idx k + 22) 1).2 with
    | b :: _ => b.getLsbD 0
    | [] => false)

/-- A park of the harvest context begins, unless one is in progress or complete, or the harvest holds no task (R313, R314). -/
def beginPark (s : State) (cn : Nat) : State :=
  s.modCore cn (fun c =>
    if c.harv.task.isSome && !c.parked && c.parking.isNone then
      { c with parking := some s.now, revokes := (c.revokes + 1) % 65536 }
    else c)

/-- Since and the exclusive demand of a core follow what is eligible (R294, R313). -/
def refreshCore (s : State) (cn : Nat) : State :=
  let c := s.core cn
  let ms := mappedFor s cn
  let now (k : Nat) : Bool := ms.any (fun m => effChan m.2.2 m.2.1.name.idx == k)
  let elig : Vector Bool 8 := Vector.ofFn (fun (k : Fin 8) => now k.val)
  let since : Vector Nat 8 := Vector.ofFn (fun (k : Fin 8) => if now k.val && !c.elig[k] then s.time else c.since[k])
  let dem := ms.any (fun m => exclIn s m.2.2 m.2.1)
  let excld := dem || (c.excld && c.owner.task.any (·.excl))
  if elig == c.elig && excld == c.excld then s
  else
    let s := s.modCore cn (fun c => { c with elig := elig, since := since, excld := excld })
    if dem && !c.excld then beginPark s cn else s

/-- Cores of a slice; number 512 stands for the service cores. -/
def coresOf (sl : Nat) : List Nat :=
  if 512 ≤ sl then natRange Config.computeCores Config.serviceCores
  else (List.range 64).map (fun k => (sl / 32 * 8 + k / 8) * 256 + (sl % 32 * 8 + k % 8))

/-- Every core of a slice follows what is eligible. -/
def refreshSlice (s : State) (sl : Nat) : State := (coresOf sl).foldl refreshCore s

/-- Every slice that maps a queue of a launch follows a change of its budget or count. -/
def refreshLaunch (s : State) (l : Nat) : State :=
  (s.slices.filter (fun p => p.2.slots.any (fun q => q.2.name.launch == l))).foldl (fun s p => refreshSlice s p.1) s

/-! ### Posts (R290) -/

/-- A post into a queue with room: the record is written at TAIL, and a queue that gains work is mapped or waits (R291). -/
def putRecord (s : State) (l : Launch) (idx : Nat) (r : CR) : State :=
  let sl := queueSlice l idx
  let q : QName := ⟨l.num, idx⟩
  let (s, h, t) := queueHeader s l idx
  let s := unitWrite s l.num 6 (queueSlot l idx t) r.bytes
  let t' := (t + 1) % 2 ^ 32
  let s := match (s.slice sl).find q with
    | some (n, x) => s.modSlice sl (fun y => { y with slots := mset y.slots n { x with tail := t' } })
    | none =>
      let s := writeHeader s l idx h t'
      if (s.slice sl).waiting.contains q then s else mapQueue s sl q
  refreshSlice s sl

/-- A post: none where the queue is full, or where no unretired core is left to take the record. -/
def post (s : State) (r : CR) (poster : Nat) (fixed : Option Nat) : Option State :=
  match s.launch r.launch with
  | none => none
  | some l =>
    match queueIdx s l r poster fixed with
    | none => none
    | some idx => if queueFull s l idx then none else some (putRecord s l idx r)

/-- A post at once where there is room, else a post that waits (R290). -/
def postOrWait (s : State) (r : CR) (poster : Nat) (fixed : Option Nat) : State :=
  match post s r poster fixed with
  | some s => s
  | none => s.hwPost r poster fixed none

/-- A post that is the release, at scope .dev, of a context's accesses up to number `upTo` (R280, R290): made at once where they are all
performed, else by hardware when the last of them is. -/
def postOf (s : State) (cn : Nat) (hv : Bool) (upTo : Nat) (r : CR) (fixed : Option Nat) : State :=
  if openBefore s cn hv upTo .dev then s.hwPost r cn fixed (some (hv, upTo)) else postOrWait (clearTags s cn .dev) r cn fixed

/-- A context's post: a release of every access that it has issued (R290). -/
def releasePost (s : State) (cn : Nat) (hv : Bool) (r : CR) : State := postOf s cn hv s.ids r none

/-- QUEUE_FULL of an instruction that posts, before any effect, with EVAL the queue's index (R290). -/
def needRoom (s : State) (r : CR) (fixed : Option Nat) : Except Stop Unit :=
  match s.launch r.launch with
  | none => .ok ()
  | some l =>
    match queueIdx s l r s.cur.core fixed with
    | none => .ok ()
    | some idx => need (!queueFull s l idx) .queueFull (BitVec.ofNat 64 idx)

/-- The record at a mapped queue's HEAD is taken by the context of child index `child`; an empty queue gives up its slot (R291). -/
def takeRecord (s : State) (sl n child : Nat) : State × Option CR :=
  match mfind (s.slice sl).slots n with
  | none => (s, none)
  | some q =>
    match s.launch q.name.launch with
    | none => (s, none)
    | some l =>
      let (s, bs) := unitReadN s l.num (queueSlot l q.name.idx q.head) 160
      let h := (q.head + 1) % 2 ^ 32
      let s := s.modSlice sl (fun x => { x with slots := mset x.slots n { q with head := h, last := some (s.now, child) } })
      let s := if h == q.tail then mapWaiting (unmapSlot s sl n) sl else s
      -- the record runs under the queue's own launch (R289)
      (refreshSlice s sl, some { CR.ofNum (leNat bs) with launch := q.name.launch })

/-! ### The end of a task (R121, R295, R298, R301) -/

/-- A context after its task: free to pick. Ring handles, SRSEED and VFLAG stay; replies that no tag counts are discarded. -/
def Ctx.freed (c : Ctx) : Ctx :=
  { c with task := none, closedFrom := none, arrive := .none, ending := none, stall := none, walk := none, fill := none,
           ngets := [], svc := none, inval := none, moving := none, pflt := none, stop := false, inh := false, dbl := false,
           mode := false, pmode := false, further := false, units := none,
           handles := c.handles.map (fun h => match h with
             | .binding _ => .unbound
             | x => x),
           out := c.out.filter (·.tag.isSome) |>.map (fun o => { o with dest := .none, serial := true }) }

/-- A context becomes free, and the exclusive demand of its core follows (R313). A service core stays in supervisor mode
(R329). Pending BAR_OVERs stay (log 155). -/
def freeCtx (s : State) (cn : Nat) (hv : Bool) : State :=
  let s := dropWalk (s.modCtxOf cn hv (fun c => { c.freed with mode := isSvc cn })) cn hv
  refreshCore (settleRels s cn hv) cn

/-- Await entries that a context may take: 16 shared, at most 4 by the harvest (R298, R310). -/
def awaitRoom (c : Core) (hv : Bool) : Bool :=
  c.awaits.length < 16 && (!hv || (c.awaits.filter (·.hv)).length < 4)

/-- Records that a wheel holds at most (R301). -/
def wheelSize : Nat := 1024

/-- Ticks of a slice's wheel up to now, at its own phase (R301). -/
def ticksOf (s : State) (slice : Nat) : Nat := (s.time + Config.wheelPhase slice) / 1000

/-- A task past its commit point ends once its tags are back and no fault waits; its record is handed on (R121, R295, R298,
R301): posted, or kept by its core's await table or its slice's wheel, from where its post is the release (R290). A refusal whose reply came meanwhile is taken instead, and the task is neither ended nor posted (R262). -/
def tryEnd (s : State) (cn : Nat) (hv : Bool) : State :=
  let c := s.ctxOf cn hv
  if c.ending.isNone || c.out.any (·.tag.isSome) || !c.held.isEmpty then s
  else if !c.inh && !c.bops.isEmpty then takeBarOver s cn hv
  else match c.ending with
    | none => s
    | some .drop => freeCtx s cn hv
    | some (.post r) => releasePost (freeCtx s cn hv) cn hv r
    | some (.wheel t r) =>
      -- two tasks that found room at issue may both wait for their tags: the wheel still holds 1,024 at most (log 121)
      if decide ((s.slice (sliceOf cn)).wheel.length < wheelSize) then
        (freeCtx s cn hv).modSlice (sliceOf cn) (fun x => { x with wheel := x.wheel ++ [⟨t, r, cn, ticksOf s (sliceOf cn), hv, s.ids⟩] })
      else s
    | some (.await obj r) =>
      if awaitRoom (s.core cn) hv then
        if cellGet (s.core cn).lm.bytes (obj + 7) != 0 && mget (s.core cn).lm.keys (obj + 7) 0 == r.launch then
          releasePost (freeCtx s cn hv) cn hv r
        else (freeCtx s cn hv).modCore cn (fun x => { x with awaits := x.awaits ++ [⟨obj, r, hv, s.ids⟩] })
      else s

/-- A task that met a swapped page is handed to the resident kernel once its tags are back (R308). DESIGN CHOICE (log 155): a BAR_OVER that is
still pending stays with the context. -/
def parkSwapped (s : State) (cn : Nat) (hv : Bool) (pte : Nat) : State :=
  let c := s.ctxOf cn hv
  match c.task with
  | none => s
  | some t =>
    if c.out.any (·.tag.isSome) then s
    else
      let regs := c.ngets.foldl (fun (v : Vector Reg 16) g => match g.dest with
        | some r => v.set r ⟨0, true⟩
        | none => v) c.regs
      let r := { wholeRecord t regs c.pc with pflt := true }
      (freeCtx s cn hv).modCrust (fun k => { k with swapped := k.swapped ++ [⟨pte, r, cn, hv, s.ids⟩] })

end Sys2Proof.Machine
end

