-- ==== Sys2Proof/Machine/Reply.lean ====
section
/-! DEFINITION. Split-phase accesses: how one is issued (R66, R89), where its value lands (R67, R316, R334, R335), how its fault
is held (R73, R336), and the lanes' matching (R124). -/

namespace Sys2Proof.Machine

open Sys2Proof

/-- A context's registers stand in its reserve bank: the harvest is parked, or the owner is being pre-empted (R315, R323). -/
def Core.banked (c : Core) (hv : Bool) : Bool := if hv then c.parked else c.preempt.any (·.saved)

/-- A value arrives for a scalar register: in the image of the reserve bank while a handler that did not issue the access runs,
while the context is stopped, or while its registers stand there; in the live register otherwise (R67, R316, R323, R334, R335). -/
def deliver (s : State) (cn : Nat) (hv : Bool) (r : SReg) (handler : Bool) (v : Word) : State :=
  let parked := (s.core cn).banked hv
  s.modCtxOf cn hv (fun c =>
    if !handler && (c.inh || c.stop) || parked then
      { c with bank := { c.bank with regs := c.bank.regs.set r ⟨v, true⟩ } }
    else c.setReg r v)

/-- A handle is bound by a reply: in the context, and in a parked or trapped context's bank (R106, R315). -/
def bindHandle (s : State) (cn : Nat) (hv : Bool) (h : HandleNo) (x : Handle) : State :=
  s.modCtxOf cn hv (fun c =>
    { c with handles := c.handles.set h x, bank := { c.bank with handles := c.bank.handles.set h x } })

/-- An access-precise fault: it is held until it is taken, and one of the handler's own accesses stops the context at once
(R73, R334, R336). -/
def accessFault (s : State) (cn : Nat) (hv : Bool) (o : Out) (cause : Cause) (val : Word) : State :=
  let c := s.ctxOf cn hv
  if o.handler && c.inh then takeTrap s cn hv cause .access o.epc c.pc val
  else s.modCtxOf cn hv (fun c => { c with held := c.held ++ [⟨c.launch, cause, o.epc, val⟩] })

/-- An access of a context is complete: its tag returns, and the marks of fence.rel that waited for it settle (R66, R283). -/
def closeOut (s : State) (cn : Nat) (hv : Bool) (id : Nat) : State :=
  settleRels (s.modCtxOf cn hv (fun c => { c with out := c.out.filter (fun o => o.id != id) })) cn hv

/-- What an access is before it is issued. -/
structure Access where
  peer   : Bool
  dest   : Dest
  load   : Bool
  store  : Bool
  acq    : Bool
  rel    : Bool
  serial : Bool
  home   : Home
  dst    : Nat
  addr   : Word
  body   : Body
  mod_   : BitVec 6 := 0

/-- AOP code of an atomic (R77). -/
def aopCode : AtomOp → Nat
  | .ld => 0
  | .swp => 1
  | .cas => 2
  | .add => 3
  | .and => 4
  | .or => 5
  | .max => 6
  | .min => 7

/-- ORD code of an atomic (R77). -/
def ordCode : AtomOrd → Nat
  | .none => 0
  | .acq => 1
  | .rel => 2
  | .ar => 3

/-- MOD of an atomic: AOP, SZ and ORD (R23, R77). -/
def atomMod (o : AtomOp) (dbl : Bool) (r : AtomOrd) : BitVec 6 :=
  BitVec.ofNat 6 (aopCode o * 8 + (if dbl then 4 else 0) + ordCode r)

/-- A GAT or DAT (R234). -/
def isDat : Body → Bool
  | .gat .. | .mark .. | .dat .. => true
  | _ => false

/-- Unacknowledged GAT and DAT requests of a core to one home in mode E (R242). -/
def datOpen (s : State) (cn dst : Nat) : Nat :=
  ((s.core cn).fab.kept.filter (fun x => x.pkt.dst == dst && isDat x.pkt.body)).length

/-- The issuing context sends a split-phase request: it takes a tag, and in mode E room for a kept copy (R66, R89, R241). -/
def issueAccess (s : State) (a : Access) : Act := do
  let tag ← takeTag s a.peer
  waitFor (canSend s s.cur.core a.dst 1 && (!isDat a.body || datOpen s s.cur.core a.dst < 16)) none
  let (s, id) := send s
    { who := .ctx s.cur.hv, src := s.cur.core, dst := a.dst, vn := 1, launch := s.myLaunch, ord := false, rel := a.rel,
      req := none, body := a.body, tag := BitVec.ofNat 8 ((if a.peer then 64 else 0) + tag), mod_ := a.mod_ }
  .ok (s.modCtx (fun c =>
    { c with out := c.out ++ [{ id := id, tag := some (a.peer, tag), dest := a.dest, load := a.load, store := a.store,
                                acq := a.acq, home := a.home, epc := c.pc, addr := a.addr, handler := c.inh,
                                serial := a.serial }] }))

/-! ### Lanes (R123, R124) -/

/-- A change of one lane of a core. -/
def State.modLane (s : State) (cn : Nat) (r : Dir) (f : Lane → Lane) : State :=
  s.modCore cn (fun c =>
    let i : Fin 4 := Fin.ofNat 4 (dirNum r)
    { c with lanes := c.lanes.set i (f c.lanes[i]) })

/-- The oldest buffered word meets the oldest pending nget of its direction; the credit starts back to the sender (R124). -/
def matchLane (s : State) (cn : Nat) (r : Dir) : State :=
  match ((s.core cn).lane r).buf, (s.ctxOf cn false).ngets.find? (fun g => g.dir == r) with
  | w :: rest, some g =>
    let s := s.modLane cn r (fun l => { l with buf := rest })
    let s := s.modCtxOf cn false (fun c => { c with ngets := c.ngets.erase g })
    let s := match g.dest with
      | some d => deliver s cn false d g.handler w.word
      | none => s
    let s := match nbr cn r with
      | some m => s.modLane m (dirBack r) (fun l => { l with back := l.back ++ [w.launch] })
      | none => s
    settleRels s cn false
  | _, _ => s

end Sys2Proof.Machine
end

