-- ==== Sys2Proof/Machine/Net.lean ====
section
/-! DEFINITION. What homes have in common: when a request in flight may be performed (R69, R87, R273, R319, R325), mode E's
memory of executed packets (R241, R242), and the answers that go back. -/

namespace Sys2Proof.Machine

open Sys2Proof

/-! ### Order of requests (R69, R87) -/

/-- A release waits until every earlier access of its context is performed (R77, R266, R273, R277). -/
def relWaits (s : State) (p : Packet) : Bool :=
  p.rel &&
    (match p.who with
     | .ctx hv => openBefore s p.src hv p.req .dev
     | .engine _ | .walk _ | .fill _ | .gate .. => false)

/-- The packet's issuing context (R233, TAG[7]); an engine operation's is its issuer. -/
def Packet.hv (p : Packet) : Bool := p.tag.getLsbD 7

/-! ### Whose request a door serves (R319, R325) -/

/-- How a door meets a request's launch: it serves it, holds it until the launch returns, or refuses it. -/
inductive DoorView where
  | serve | hold | deny
  deriving DecidableEq, Repr

/-- The view of request `req` of `launch` on bytes `off .. off + n − 1` (R319, R325): while a loan stands, the harvest's side has the
window and the owner's the rest; a request of a launch that is switched out is held; that of a launch that no longer exists is refused,
and one at a core retired since, and a harvest context's on a window that was reclaimed after the request was sent (R326). -/
def doorView (s : State) (cn launch : Nat) (hv : Bool) (req off n : Nat) : DoorView :=
  let c := s.core cn
  let harvest := c.harv.launch
  if c.retired || (s.launch launch).isNone then .deny
  else if hv && launch == c.launch && c.gone.any (fun g => decide (req < g.1) && anyIn g.2 off n) then .deny
  else if c.loan != Loan.none && launch == harvest && (launch != c.launch || hv) then
    if allIn c.loan off n then .serve else .deny
  else if launch == c.launch then (if anyIn c.loan off n then .deny else .serve)
  else .hold

/-! ### Mode E (R241, R242) -/

/-- The floor rises over executed numbers; `n` bounds the steps. -/
def raiseFloor : Nat → Nat → List Nat → Nat × List Nat
  | 0, f, l => (f, l)
  | n + 1, f, l => if l.contains f then raiseFloor n ((f + 1) % 65536) (l.erase f) else (f, l)

/-- A packet of an E flow is noted as executed. -/
def Fab.note (f : Fab) (src vn seq : Nat) : Fab :=
  let x := f.flow src vn
  let (fl, ab) := if f.executed src vn seq then (x.floor, x.above) else raiseFloor 65 x.floor (addNew x.above seq)
  { f with seen := ⟨src, vn, fl, ab⟩ :: f.seen.filter (fun y => !(y.src == src && y.vn == vn)),
           holes := f.holes.filter (fun h => !(h.src == src && h.vn == vn && h.seq == seq)) }

/-- A packet leaves the fabric executed. -/
def executed (s : State) (p : Packet) : State :=
  let s := s.take p.id
  if p.e then s.modCore p.dst (fun c => { c with fab := c.fab.note p.src p.vn p.seq }) else s

/-- A request that an acknowledgement answers; the others get a reply (R234). -/
def Body.acked : Body → Bool
  | .gwr .. | .gred .. | .dwr .. | .nibble .. | .park .. | .cwr .. => true
  | .dat _ op =>
    (match op with
     | .binit _ | .bexp _ | .credit _ | .qadv | .qeos _ => true
     | _ => false)
  | _ => false

/-- A value-returning request that the result cache keeps in mode E (R242). -/
def cached (p : Packet) : Bool :=
  p.e &&
    (match p.body with
     | .gat .. | .mark .. | .dat .. => !p.body.acked
     | _ => false)

/-- A home's result cache has no room for a GAT or DAT, with `spare` more entries left for those it owes: 16 entries of one source, 256 in
all (R242). -/
def cacheShort (s : State) (p : Packet) (spare : Nat) : Bool :=
  p.e && isDat p.body &&
    (decide (256 ≤ (s.core p.dst).fab.cache.length + spare)
      || decide (16 ≤ ((s.core p.dst).fab.cache.filter (fun x => x.src == p.src)).length + spare))

/-- A home takes no GAT or DAT while its result cache is full (R242). -/
def cacheFull (s : State) (p : Packet) : Bool := cacheShort s p 0

/-- The faults of writes that a home remembers for duplicates: those of numbers that may still be unacknowledged (R242). -/
def Fab.noteAck (f : Fab) (p : Packet) (r : Result) : Fab :=
  { f with acks := f.acks.filter (fun x => !(x.src == p.src && 64 ≤ seqAbove p.seq x.seq)) ++ [⟨p.src, p.seq, p.req, r⟩] }

/-- A result joins the cache; the fault of a write is remembered for its acknowledgement to be sent again. -/
def cacheResult (s : State) (p : Packet) (r : Result) : State :=
  if cached p then s.modCore p.dst (fun c => { c with fab := { c.fab with cache := c.fab.cache ++ [⟨p.src, p.seq, p.req, r⟩] } })
  else match r with
    | .fault .. => if p.e && p.body.acked then s.modCore p.dst (fun c => { c with fab := c.fab.noteAck p r }) else s
    | _ => s

/-! ### Answers -/

/-- The answer to a request goes back on VN2 (R61, R87). -/
def answer (s : State) (p : Packet) (r : Result) : State :=
  (send s
    { who := p.who, src := p.dst, dst := p.src, vn := 2, launch := p.launch, ord := false, rel := false, req := some p.req,
      body := if p.body.acked then .ack r else .rply r, tag := p.tag }).1

/-- A home may answer a request that it holds: its store has an entry for the reply's copy, and its result cache one for the result, beside
`spare` that it owes to another (R241, R242). -/
def canAnswer (s : State) (p : Packet) (spare : Nat) : Bool := canSpare s p.dst p.src 2 spare && !cacheShort s p spare

/-- The answer to a request that a home has held, which joins the result cache (R242). -/
def answerHeld (s : State) (p : Packet) (r : Result) : State := answer (cacheResult s p r) p r

/-- A gateway keeps the packet's data, which the far device has not acknowledged (R367). -/
def atGateway (s : State) (p : Packet) : Bool :=
  let mine (q : Packet) : Bool := q.src == p.src && q.dst == p.dst && q.seq == p.seq
  s.crust.gwBufs.any (fun b => b.pkts.any mine) || s.crust.gwOut.any (fun d => d.pkts.any mine)

/-- The answer to a packet that has been executed before (R242): a write's ACK is sent again, with the fault where it had one, and an
atomic is answered from the cache or not at all. -/
def answerAgain (s : State) (p : Packet) : State :=
  let s := s.take p.id
  if cached p then
    match (s.core p.dst).fab.cache.find? (fun x => x.src == p.src && x.seq == p.seq) with
    | some x => answer s p x.res
    | none => s
  else if atGateway s p then s
  else answer s p (((s.core p.dst).fab.acks.find? (fun x => x.src == p.src && x.seq == p.seq)).elim .ack (·.res))

/-- What a home does with a request: it holds it back, keeps it in a hold of its own, performs the first granule of a row, or
performs it. -/
inductive Served where
  | hold
  | kept (s : State)
  | part (s : State) (rest : Body)
  | done (s : State) (r : Result)
  deriving DecidableEq, Repr

/-- A request is performed at its home by `f`. A duplicate of mode E is answered and not performed again, but for a read,
which is (R242). -/
def serve (s : State) (k : Nat) (want : Body → Bool) (f : State → Packet → Served) : State :=
  match s.got k with
  | none => s
  | some p =>
    if p.trim || !want p.body || !canSend s p.dst p.src 2 then s
    else if s.isDone p && !p.body.isRead then answerAgain s p
    else if overtakes s p || relWaits s p || cacheFull s p then s
    else match f s p with
      | .hold => s
      | .kept t => executed t p
      | .part t b => { t with net := updWhere (fun q => q.id == k) (fun q => { q with body := b }) t.net }
      | .done t r => answer (cacheResult (executed t p) p r) p r

/-! ### Kept copies -/

/-- The kept copy of a request is acknowledged (R241). -/
def dropKept (s : State) (src req : Nat) : State :=
  s.modCore src (fun c => { c with fab := { c.fab with kept := c.fab.kept.filter (fun x => x.pkt.id != req) } })

end Sys2Proof.Machine
end

