-- ==== Sys2Proof/Machine/Die.lean ====
section
/-! DEFINITION. Base dies: reads, masked writes, bank atomics and row updates (R52, R70..R72, R77, R78, R279, R281). -/

namespace Sys2Proof.Machine

open Sys2Proof

/-- The new value of an atomic, or none where nothing is written (R77): `w` bits. -/
def atomNew (o : AtomOp) (w old v c : Nat) : Option Nat :=
  match o with
  | .ld => none
  | .swp => some v
  | .cas => if old == c then some v else none
  | .add => some ((old + v) % 2 ^ w)
  | .and => some (old &&& v)
  | .or => some (old ||| v)
  | .max => some (if sgn w old < sgn w v then v else old)
  | .min => some (if sgn w v < sgn w old then v else old)

/-- A race or an uncorrectable error is reported to the requester with EVAL the virtual address (R71, R281). -/
def dieFault (s : State) (p : Packet) (g : GLoc) (c : Cause) : Served :=
  let s := if c == .eccUncorr then reportEcc s (g.pa / 2 ^ 36) p.src p.launch g.pa else s
  .done s (.fault c (BitVec.ofNat 64 g.va))

/-- The HBM location of a request to a base die. -/
def Body.gloc : Body → Option GLoc
  | .grd g _ _ | .line g _ | .mark g _ _ | .gwr g _ | .gat g _ _ _ _ | .gred g _ _ | .cwr (.die _) _ g _ => some g
  | _ => none

/-- A hand-over between an array and a requester whose old check fails on a request: it ends with ECC_UNCORR and passes no data on, while
what the array holds stays sound (R364). The first two hand-overs of a base die are reported; the one to the fabric is not. -/
def handover (s : State) (k : Nat) (reported : Bool) : State :=
  serve s k (fun b => b.gloc.isSome) (fun s p => match p.body.gloc with
    | none => .hold
    | some g => if reported then dieFault s p g .eccUncorr else .done s (.fault .eccUncorr (BitVec.ofNat 64 g.va)))

/-- A GRD: `n` bytes of one granule, or a row granule by granule (R75, R76). -/
def dieRead (s : State) (p : Packet) (g : GLoc) (n : Nat) (got : List Byte) : Served :=
  let k := got.length
  let m := if n == 64 && !p.e then 32 else n
  let h : GLoc := { g with pa := g.pa + k, va := g.va + k }
  if hbmRace s h m p.src p.launch then dieFault s p g .mmRace
  else if hbmBadIn s h.pa m then dieFault s p g .eccUncorr
  else
    let (s, bs) := hbmRead s h.pa h.va h.key h.phys m
    if k + m == n then .done s (.data (got ++ bs)) else .part s (.grd g n (got ++ bs))

/-- A GRD of a fill: half a line as the task may see it (R34, R39). The die reports an uncorrectable error of a granule, and the fault is
raised when execution reaches the line. -/
def dieLine (s : State) (p : Packet) (g : GLoc) (born : Nat) : Served :=
  match (granules g.pa 64).find? (fun x => s.hbm.bad.contains x) with
  | some x => dieFault s p { g with pa := x * 32 } .eccUncorr
  | none =>
    let (bs, ls) := lineSeen s (g.pa / 128) born
    let k := g.pa / 32 % 4
    let (s, bs) := lineBytes s { g with va := g.va - 32 * k } bs ls k 2
    .done s (.data bs)

/-- The OR of A and D that a walker sends (R60): the answer is the entry that the die found. -/
def dieMark (s : State) (p : Packet) (g : GLoc) (k : AccKind) (leaf : Nat) : Served :=
  if hbmBadIn s g.pa 8 then dieFault s p g .eccUncorr
  else
    let (s, x) := markEntry s g.pa k leaf
    .done s (.val (BitVec.ofNat 64 x))

/-- A plain store's bytes and tags at a base die (R70, R279). -/
def dieStore (s : State) (p : Packet) (g : GLoc) (bs : List Byte) : State :=
  hbmMark (hbmStore s p.src g.pa g.va g.key bs) g bs.length p.src p.launch

/-- A GWR: masked bytes, or a row granule by granule. A row is checked whole before its first granule is written: a failing access has no
effect (R70, R73, R76, R281). -/
def dieWrite (s : State) (p : Packet) (g : GLoc) (data : List Byte) : Served :=
  let begun := data.length == 32
  if !begun && hbmRace s g data.length p.src p.launch then dieFault s p g .mmRace
  else if hbmBadPart s g.pa data.length then dieFault s p g .eccUncorr
  else if data.length == 64 && !p.e then
    .part (dieStore s p g (data.take 32)) (.gwr { g with pa := g.pa + 32, va := g.va + 32 } (data.drop 32))
  else .done (dieStore s p g data) .ack

/-- A GAT: one indivisible step of the bank (R72, R77); a release that writes clears its core's tags (R280). -/
def dieAtom (s : State) (p : Packet) (g : GLoc) (o : AtomOp) (dbl : Bool) (v c : Word) : Served :=
  let n := if dbl then 8 else 4
  let w := 8 * n
  if hbmBadIn s g.pa n then dieFault s p g .eccUncorr
  else
    let (s, bs) := hbmRead s g.pa g.va g.key false n
    let old := leNat bs
    match atomNew o w old (v.toNat % 2 ^ w) (c.toNat % 2 ^ w) with
    | none => .done s (.val (BitVec.ofNat 64 old))
    | some x =>
      let s := hbmStore s p.src g.pa g.va g.key (natLe n x)
      let s := if p.rel then clearTags s p.src .dev else s
      .done s (.val (BitVec.ofNat 64 old))

/-- A GRED: LaneAdd of a row in one step, the memory lane first (R78). -/
def dieReduce (s : State) (p : Packet) (g : GLoc) (ty : TileType) (bits : RowBits) : Served :=
  if hbmBadIn s g.pa 64 then dieFault s p g .eccUncorr
  else
    let (s, bs) := hbmRead s g.pa g.va g.key false 64
    let old := rowOfBytes bs
    let ls := (List.range (tyLanes ty)).map (fun i => (laneAdd ty (laneOf ty old i) (laneOf ty bits i) p.src).bits)
    .done (hbmStore s p.src g.pa g.va g.key (rowBytes (mkRow ty ls))) .ack

/-- GRD arrives (R52, R234). -/
def execGrd (k : Nat) (s : State) : Host.Outcome State Fault Refusal :=
  .next (serve s k (fun b => match b with
    | .grd .. | .line .. => true
    | _ => false) (fun s p => match p.body with
      | .grd g n got => dieRead s p g n got
      | .line g born => dieLine s p g born
      | _ => .hold))

/-- GWR arrives (R52, R70, R234). -/
def execGwr (k : Nat) (s : State) : Host.Outcome State Fault Refusal :=
  .next (serve s k (fun b => match b with
    | .gwr .. => true
    | _ => false) (fun s p => match p.body with
      | .gwr g data => dieWrite s p g data
      | _ => .hold))

/-- GAT arrives: an atomic, or a walker's OR (R60, R72, R77, R234). -/
def execGat (k : Nat) (s : State) : Host.Outcome State Fault Refusal :=
  .next (serve s k (fun b => match b with
    | .gat .. | .mark .. => true
    | _ => false) (fun s p => match p.body with
      | .gat g o dbl v c => dieAtom s p g o dbl v c
      | .mark g k leaf => dieMark s p g k leaf
      | _ => .hold))

/-- GRED arrives (R72, R78, R234). -/
def execGredPacket (k : Nat) (s : State) : Host.Outcome State Fault Refusal :=
  .next (serve s k (fun b => match b with
    | .gred .. => true
    | _ => false) (fun s p => match p.body with
      | .gred g ty bits => dieReduce s p g ty bits
      | _ => .hold))

end Sys2Proof.Machine
end

