-- ==== Sys2Proof/Machine/Door.lean ====
section
/-! DEFINITION. Doors: peer reads, writes and atomics (R87, R88, R92, R93), ring descriptors (R103, R104, R106), barrier objects
(R258..R263), and parked records with their joins (R296, R297). -/

namespace Sys2Proof.Machine

open Sys2Proof

/-! ### What every door operation does first -/

/-- A fault goes back to the requester with EVAL the peer address; an uncorrectable error is also reported (R82, R88, R339). -/
def doorFault (s : State) (p : Packet) (off : Nat) (c : Cause) : Served :=
  let s := if c == .eccUncorr then reportEcc s (loafOf p.dst) p.dst p.launch off else s
  .done s (.fault c (peerOf p.dst off))

/-- A door operation on bytes `off .. off + n − 1` of a request's launch (R87, R319, R325). -/
def doorServe (s : State) (p : Packet) (off n : Nat) (f : State → Served) : Served :=
  match doorView s p.dst p.launch p.hv p.req off n with
  | .hold => .hold
  | .deny => .done s (.fault .peerDenied (peerOf p.dst off))
  | .serve => f s

/-! ### Rings (R103, R104) -/

/-- A field of a 32-byte object. -/
def fld (n lo len : Nat) : Nat := bitsOf n lo len

/-- Index i has been published: its READY bit equals its phase (R104). -/
def ringReady (n i : Nat) : Bool :=
  let l := fld n 16 4
  n.testBit (128 + i % 2 ^ l) == (i / 2 ^ l % 2 == 1)

/-- CN || slot address of an index (R103, R106). -/
def slotAddr (cn n i : Nat) : Nat := cn * 65536 + (fld n 0 16 + i % 2 ^ fld n 16 4 * 2 ^ fld n 20 4) % 65536

/-- The ring is closed: every producer has ended and every reserved index is consumed (R104). -/
def ringClosed (n : Nat) : Bool :=
  let k := fld n 24 5
  (natRange 48 k).all (fun i => n.testBit i) && fld n 96 32 == fld n 64 32

/-- A ring has room for a reservation (R104). -/
def ringRoom (n : Nat) : Bool := (fld n 64 32 + 2 ^ 32 - fld n 96 32) % 2 ^ 32 < 2 ^ fld n 16 4

/-- The lowest free producer number (R106). -/
def freeProd (n : Nat) : Option Nat := (List.range (fld n 24 5)).find? (fun p => !n.testBit (32 + p))

/-- The descriptor after a reservation. -/
def ringReserve (n : Nat) : Nat := putBits n 64 32 (fld n 64 32 + 1)

/-- The descriptor with index i published. -/
def ringPublish (n i : Nat) : Nat :=
  let l := fld n 16 4
  putBits n (128 + i % 2 ^ l) 1 (i / 2 ^ l % 2)

/-- A 32-byte object as a number, read under a launch's keystream. -/
def objRead (s : State) (cn off l : Nat) : State × Nat :=
  let (s, bs) := lmRead s cn off l 32
  (s, leNat bs)

/-- A 32-byte object written back; synchronising writes leave the race tag (R279). -/
def objWrite (s : State) (cn off l n : Nat) : State := lmWrite s cn off l (natLe 32 n)

/-- What a ring operation does at the door: the new descriptor, and its result; nothing where a qwait is held (R106). -/
inductive RingRes where
  | held
  | res (n : Option Nat) (r : Result)
  deriving DecidableEq, Repr

/-- The door step of a ring operation on a descriptor (R106). -/
def ringStep (cn off n : Nat) (op : DoorOp) : RingRes :=
  let late (p : Nat) : Bool := n.testBit (48 + p)
  let eos : RingRes := .res none (.fault .ringEosLate (peerOf cn off))
  match op with
  | .bindC k =>
    let base := fld n 0 16
    let lslots := fld n 16 4
    let lsize := fld n 20 4
    if lsize < 4 || 12 < lsize || 6 < lslots || 65536 < base + 2 ^ (lsize + lslots) then
      .res none (.fault .localRange (BitVec.ofNat 64 off))
    else
      .res (some (fld n 0 24 + k * 2 ^ 24 + fld n 29 3 * 2 ^ 29 + (2 ^ 64 - 1) * 2 ^ 128 + fld n 192 64 * 2 ^ 192))
        (.bound 0 0 base lsize lslots)
  | .bindP =>
    match freeProd n with
    | none => .res none (.bound all1 0 0 0 0)
    | some p => .res (some (putBits n (32 + p) 1 1)) (.bound (BitVec.ofNat 64 p) p (fld n 0 16) (fld n 20 4) (fld n 16 4))
  | .qres p =>
    if late p then eos
    else if ringRoom n then
      let i := fld n 64 32
      .res (some (ringReserve n)) (.val (BitVec.ofNat 64 (i * 2 ^ 32 + slotAddr cn n i)))
    else .res none (.val all1)
  | .qpub p v =>
    if late p then eos
    else
      let i := bitsOf v.toNat 32 32
      let d (x y : Nat) : Nat := (x + 2 ^ 32 - y) % 2 ^ 32
      if d i (fld n 96 32) < d (fld n 64 32) (fld n 96 32) then .res (some (ringPublish n i)) (.val 0) else .res none (.val 1)
  | .qeos p => if late p then eos else .res (some (putBits n (48 + p) 1 1)) .ack
  | .qadv =>
    let i := fld n 96 32
    if ringReady n i then .res (some (putBits n 96 32 (i + 1))) .ack else .res none .ack
  | .qwait =>
    let i := fld n 96 32
    if ringReady n i then .res none (.val (BitVec.ofNat 64 (i * 2 ^ 32 + slotAddr cn n i)))
    else if ringClosed n then .res none (.val all1) else .held
  | _ => .res none .ack

/-- A held qwait whose index has become ready, or whose ring has closed, is answered, an uncorrectable error as at its arrival; in mode
E it waits for room for its answer, beside `spare` answers that the door owes (R82, R88, R106, R241, R242). -/
def retryQwait (s : State) (cn spare : Nat) (h : DoorHeld) : State :=
  match h.pkt.body with
  | .dat off .qwait =>
    let drop (s : State) : State := s.modCore cn (fun c => { c with qwaits := c.qwaits.erase h })
    if !canAnswer s h.pkt spare then s
    else match doorView s cn h.pkt.launch h.pkt.hv h.pkt.req off 32 with
      | .hold => s
      | .deny => answerHeld (drop s) h.pkt (.fault .peerDenied (peerOf cn off))
      | .serve =>
        if (lmBadIn s cn off 32).isSome then
          answerHeld (drop (reportEcc s (loafOf cn) cn h.pkt.launch off)) h.pkt (.fault .eccUncorr (peerOf cn off))
        else
          let (t, n) := objRead s cn off h.pkt.launch
          match ringStep cn off n .qwait with
          | .held => s
          | .res _ r => answerHeld (drop t) h.pkt r
  | _ => s

/-- Every held qwait of a core is looked at again, oldest first. -/
def retryQwaits (s : State) (cn spare : Nat) : State := (s.core cn).qwaits.foldl (fun s h => retryQwait s cn spare h) s

/-- A ring operation arrives (R106). A publication is a release: it clears its core's tags (R280). -/
def ringServe (s : State) (p : Packet) (off : Nat) (op : DoorOp) : Served :=
  doorServe s p off 32 (fun s =>
    if (lmBadIn s p.dst off 32).isSome then doorFault s p off .eccUncorr
    else
      let (t, n) := objRead s p.dst off p.launch
      match ringStep p.dst off n op with
      | .held => .kept (t.modCore p.dst (fun c => { c with qwaits := c.qwaits ++ [⟨p, none⟩] }))
      | .res none r => .done t r
      | .res (some n') r =>
        let t := objWrite t p.dst off p.launch n'
        let t := match op with
          | .qpub .. => clearTags t p.src .dev
          | _ => t
        .done (retryQwaits t p.dst 1) r)

/-! ### Barrier objects (R258..R263) -/

/-- Phase p has passed in an object (R263). -/
def phasePassed (n p : Nat) : Bool :=
  let d := (fld n 160 32 + 2 ^ 32 - p % 2 ^ 32) % 2 ^ 32
  1 ≤ d && d < 2 ^ 31

/-- The completion test of R260: the object after it, and whether a phase completed. -/
def barComplete (n : Nat) : Nat × Bool :=
  if !n.testBit 97 && fld n 128 16 == fld n 144 16 && fld n 208 48 == 0 then
    let next := fld n 112 16
    let n := putBits n 160 32 (fld n 160 32 + 1)
    let n := putBits n 128 16 0
    let n := putBits n 144 16 next
    (if next == 0 then putBits n 97 1 1 else n, true)
  else (n, false)

/-- An arrival at phase `p` (R260): the object, and whether it was accepted. -/
def barArrive (n p : Nat) (drop : Bool) : Nat × Bool :=
  if n.testBit 97 || fld n 160 32 != p || fld n 128 16 == fld n 144 16 then (putBits n 96 1 1, false)
  else
    let n := putBits n 128 16 (fld n 128 16 + 1)
    let next := fld n 112 16
    (if drop && next != 0 then putBits n 112 16 (next - 1) else n, true)

/-- What a barrier operation does at the home: the object, its reply, whether the completion test follows, and whether an
arrival was accepted (R260). -/
def barStep (n : Nat) (op : DoorOp) : Nat × Result × Bool × Bool :=
  match op with
  | .binit v =>
    let k := bitsOf v.toNat 0 16
    let n := putBits n 192 64 (bitsOf v.toNat 16 16)
    let n := putBits n 112 80 (k + k * 2 ^ 32)
    (putBits n 96 2 (if k == 0 then 2 else 0), .ack, true, false)
  | .bjoin =>
    if n.testBit 97 || fld n 112 16 == 0xFFFF then (n, .val all1, false, false)
    else (putBits n 112 16 (fld n 112 16 + 1), .val (BitVec.ofNat 64 ((fld n 160 32 + 1) % 2 ^ 32)), true, false)
  | .barv v =>
    let p := bitsOf v.toNat 0 32
    let (n, ok) := barArrive n p false
    (n, .val (if ok then BitVec.ofNat 64 p else all1), ok, ok)
  | .bdrop v =>
    let p := bitsOf v.toNat 0 32
    let (n, ok) := barArrive n p true
    (n, .val (if ok then BitVec.ofNat 64 p else all1), ok, ok)
  | .bexp v => (putBits n 208 48 (fld n 208 48 + bitsOf v.toNat 0 48), .ack, true, false)
  | .credit k => (putBits n 208 48 (fld n 208 48 + 2 ^ 48 - k % 2 ^ 48), .ack, true, false)
  | _ => (n, .ack, false, false)

/-- A bwait whose phase a completion has passed is answered, once there is room for its answer beside `spare` that the door owes (R241,
R242). -/
def answerBwait (s : State) (cn spare : Nat) (h : DoorHeld) : State :=
  match h.due with
  | some ph =>
    if canAnswer s h.pkt spare then
      answerHeld (s.modCore cn (fun c => { c with bwaits := c.bwaits.erase h })) h.pkt (.val (BitVec.ofNat 64 ph))
    else s
  | none => s

/-- A held bwait at an object of a launch whose phase has passed is released with the new PHASE; each is released once. -/
def DoorHeld.release (off l n : Nat) (h : DoorHeld) : DoorHeld :=
  match h.pkt.body with
  | .dat o (.bwait v) =>
    if h.due.isNone && o == off && h.pkt.launch == l && phasePassed n (bitsOf v.toNat 0 32) then { h with due := some (fld n 160 32) } else h
  | _ => h

/-- The completion of a phase releases and answers held bwaits (R260, R263); the door owes its own answer beside theirs. -/
def releaseBwaits (s : State) (cn off l n : Nat) : State :=
  let s := s.modCore cn (fun c => { c with bwaits := c.bwaits.map (DoorHeld.release off l n) })
  (s.core cn).bwaits.foldl (fun s h => answerBwait s cn 1 h) s

/-- A barrier operation but bwait arrives (R258..R262). An accepted arrival and a copy's credit are releases, which clear their core's
tags (R273, R280). -/
def barServe (s : State) (p : Packet) (off : Nat) (op : DoorOp) : Served :=
  doorServe s p off 32 (fun s =>
    if (lmBadIn s p.dst off 32).isSome then doorFault s p off .eccUncorr
    else
      let (s, n) := objRead s p.dst off p.launch
      let (n, r, test, accepted) := barStep n op
      let (n, complete) := if test then barComplete n else (n, false)
      let s := objWrite s p.dst off p.launch n
      let credit : Bool := match op with
        | .credit _ => true
        | _ => false
      let s := if accepted || credit then clearTags s p.src .dev else s
      .done (if complete then releaseBwaits s p.dst off p.launch n else s) r)

/-- A bwait arrives: answered, held, or answered with p where 64 are held (R263). -/
def bwaitServe (s : State) (p : Packet) (off : Nat) (v : Word) : Served :=
  doorServe s p off 32 (fun s =>
    if (lmBadIn s p.dst off 32).isSome then doorFault s p off .eccUncorr
    else
      let (t, n) := objRead s p.dst off p.launch
      let ph := bitsOf v.toNat 0 32
      if phasePassed n ph then .done t (.val (BitVec.ofNat 64 (fld n 160 32)))
      else if 64 ≤ (s.core p.dst).bwaits.length then .done t (.val (BitVec.ofNat 64 ph))
      else .kept (t.modCore p.dst (fun c => { c with bwaits := c.bwaits ++ [⟨p, none⟩] })))

/-! ### Joins and parked records (R296, R297) -/

/-- A join arrives: the last one posts the record, waiting for room (R297). -/
def joinServe (s : State) (p : Packet) (off : Nat) : Served :=
  doorServe s p off 160 (fun s =>
    if lmRace s p.dst off 160 p.src p.launch then doorFault s p off .mmRace
    else if (lmBadIn s p.dst off 160).isSome then doorFault s p off .eccUncorr
    else
      let (t, bs) := lmRead s p.dst off p.launch 160
      let r := CR.ofNum (leNat bs)
      let j := r.join.toNat
      if j == 0 then .done t (.val all1)
      else
        let w (x : State) : State := lmWrite x p.dst (off + 16) p.launch (natLe 4 (j - 1))
        if j == 1 then
          match post t { r with launch := p.launch, join := 0 } p.dst none with
          | none => .hold
          | some u => .done (clearTags (w u) p.src .dev) (.val 1)
        else .done (clearTags (w t) p.src .dev) (.val (BitVec.ofNat 64 j)))

/-- A record is parked at its frame (R296), a release. -/
def parkServe (s : State) (p : Packet) (off : Nat) (r : CR) : Served :=
  doorServe s p off 160 (fun s =>
    if lmRace s p.dst off 160 p.src p.launch then doorFault s p off .mmRace
    else .done (clearTags (lmWrite s p.dst off p.launch r.bytes) p.src .dev) .ack)

/-! ### A door's own turn -/

/-- A held bwait at the door's own turn: one that is refused, and one that a completion has released, is answered (R263, R325). -/
def retryBwait (s : State) (cn : Nat) (h : DoorHeld) : State :=
  match h.pkt.body with
  | .dat off (.bwait _) =>
    (match doorView s cn h.pkt.launch h.pkt.hv h.pkt.req off 32 with
     | .hold => s
     | .deny =>
       if canAnswer s h.pkt 0 then
         answerHeld (s.modCore cn (fun c => { c with bwaits := c.bwaits.erase h })) h.pkt (.fault .peerDenied (peerOf cn off))
       else s
     | .serve => answerBwait s cn 0 h)
  | _ => s

/-- A door looks again at what it holds: qwaits, and bwaits that a completion has released or whose launch is gone (R106, R263, R325). -/
def doorTurn (s : State) (cn : Nat) : State :=
  let s := retryQwaits s cn 0
  (s.core cn).bwaits.foldl (fun s h => retryBwait s cn h) s

/-! ### Peer reads, writes and atomics (R92, R93) -/

/-- A DRD: the race check, the ECC check, then the bytes (R88, R92). -/
def doorRead (s : State) (p : Packet) (off n : Nat) : Served :=
  doorServe s p off n (fun s =>
    if lmRace s p.dst off n p.src p.launch then doorFault s p off .mmRace
    else if (lmBadIn s p.dst off n).isSome then doorFault s p off .eccUncorr
    else
      let (s, bs) := lmRead s p.dst off p.launch n
      .done s (.data bs))

/-- A plain DWR (R88, R92, R279). -/
def doorWrite (s : State) (p : Packet) (off : Nat) (data : List Byte) : Served :=
  let n := data.length
  doorServe s p off n (fun s =>
    if lmRace s p.dst off n p.src p.launch then doorFault s p off .mmRace
    else if (lmBadPart s p.dst off n).isSome then doorFault s p off .eccUncorr
    else .done (retryQwaits (lmMark (lmWrite s p.dst off p.launch data) p.dst off n p.src p.launch) p.dst 1) .ack)

/-- A nibble DWR: read, merge and write in one step (R92). -/
def doorNibble (s : State) (p : Packet) (off : Nat) (k : Bool) (v : BitVec 4) : Served :=
  doorServe s p off 1 (fun s =>
    if (lmBadIn s p.dst off 1).isSome then doorFault s p off .eccUncorr
    else
      let (s, bs) := lmRead s p.dst off p.launch 1
      let y := leNat bs
      let y' := if k then y % 16 + v.toNat * 16 else y / 16 * 16 + v.toNat
      .done (lmWrite s p.dst off p.launch (natLe 1 y')) .ack)

/-- An amol (R77, R93): one door step; a release that writes clears its core's tags (R280). -/
def doorAtom (s : State) (p : Packet) (off : Nat) (o : AtomOp) (dbl : Bool) (v c : Word) : Served :=
  let n := if dbl then 8 else 4
  let w := 8 * n
  doorServe s p off n (fun s =>
    if (lmBadIn s p.dst off n).isSome then doorFault s p off .eccUncorr
    else
      let (s, bs) := lmRead s p.dst off p.launch n
      let old := leNat bs
      match atomNew o w old (v.toNat % 2 ^ w) (c.toNat % 2 ^ w) with
      | none => .done s (.val (BitVec.ofNat 64 old))
      | some x =>
        let s := lmWrite s p.dst off p.launch (natLe n x)
        let s := if p.rel then clearTags s p.src .dev else s
        .done (retryQwaits s p.dst 1) (.val (BitVec.ofNat 64 old)))

/-! ### The rows -/

/-- A DAT of one kind of operation arrives. -/
def datEvent (s : State) (k : Nat) (want : DoorOp → Bool) (f : State → Packet → Nat → DoorOp → Served) :
    Host.Outcome State Fault Refusal :=
  .next (serve s k (fun b => match b with
    | .dat _ op => want op
    | _ => false) (fun s p => match p.body with
      | .dat off op => f s p off op
      | _ => .hold))

/-- DRD arrives (R87, R92). -/
def execDrd (k : Nat) (s : State) : Host.Outcome State Fault Refusal :=
  .next (serve s k (fun b => match b with
    | .drd .. => true
    | _ => false) (fun s p => match p.body with
      | .drd off n => doorRead s p off n
      | _ => .hold))

/-- DWR arrives, nibble stores included (R87, R92). -/
def execDwr (k : Nat) (s : State) : Host.Outcome State Fault Refusal :=
  .next (serve s k (fun b => match b with
    | .dwr .. | .nibble .. => true
    | _ => false) (fun s p => match p.body with
      | .dwr off data => doorWrite s p off data
      | .nibble off k v => doorNibble s p off k v
      | _ => .hold))

/-- The DAT of an amol arrives (R93). -/
def execDat (k : Nat) (s : State) : Host.Outcome State Fault Refusal :=
  datEvent s k (fun op => match op with
    | .atom .. => true
    | _ => false) (fun s p off op => match op with
      | .atom o dbl v c => doorAtom s p off o dbl v c
      | _ => .hold)

/-- The door step of a consumer's qbind (R106). -/
def execQbindConsumerDoor (k : Nat) (s : State) : Host.Outcome State Fault Refusal :=
  datEvent s k (fun op => match op with
    | .bindC _ => true
    | _ => false) ringServe

/-- The door step of a producer's qbind (R106). -/
def execQbindProducerDoor (k : Nat) (s : State) : Host.Outcome State Fault Refusal :=
  datEvent s k (fun op => op == .bindP) ringServe

/-- The door step of qres (R106). -/
def execQresDoor (k : Nat) (s : State) : Host.Outcome State Fault Refusal :=
  datEvent s k (fun op => match op with
    | .qres _ => true
    | _ => false) ringServe

/-- The door step of qpub (R106). -/
def execQpubDoor (k : Nat) (s : State) : Host.Outcome State Fault Refusal :=
  datEvent s k (fun op => match op with
    | .qpub .. => true
    | _ => false) ringServe

/-- The door step of qeos (R106). -/
def execQeosDoor (k : Nat) (s : State) : Host.Outcome State Fault Refusal :=
  datEvent s k (fun op => match op with
    | .qeos _ => true
    | _ => false) ringServe

/-- The door step of qwait (R106). -/
def execQwaitDoor (k : Nat) (s : State) : Host.Outcome State Fault Refusal := datEvent s k (fun op => op == .qwait) ringServe

/-- The door step of qadv (R106). -/
def execQadvDoor (k : Nat) (s : State) : Host.Outcome State Fault Refusal := datEvent s k (fun op => op == .qadv) ringServe

/-- The door step of binit (R260). -/
def execBinitDoor (k : Nat) (s : State) : Host.Outcome State Fault Refusal :=
  datEvent s k (fun op => match op with
    | .binit _ => true
    | _ => false) barServe

/-- The door step of bjoin (R260). -/
def execBjoinDoor (k : Nat) (s : State) : Host.Outcome State Fault Refusal :=
  datEvent s k (fun op => op == .bjoin) barServe

/-- The door step of barv (R260). -/
def execBarvDoor (k : Nat) (s : State) : Host.Outcome State Fault Refusal :=
  datEvent s k (fun op => match op with
    | .barv _ => true
    | _ => false) barServe

/-- The door step of bdrop (R260). -/
def execBdropDoor (k : Nat) (s : State) : Host.Outcome State Fault Refusal :=
  datEvent s k (fun op => match op with
    | .bdrop _ => true
    | _ => false) barServe

/-- The door step of bexp (R260). -/
def execBexpDoor (k : Nat) (s : State) : Host.Outcome State Fault Refusal :=
  datEvent s k (fun op => match op with
    | .bexp _ => true
    | _ => false) barServe

/-- The door step of bwait (R263). -/
def execBwaitDoor (k : Nat) (s : State) : Host.Outcome State Fault Refusal :=
  datEvent s k (fun op => match op with
    | .bwait _ => true
    | _ => false) (fun s p off op => match op with
      | .bwait v => bwaitServe s p off v
      | _ => .hold)

/-- The door step of a copy's credit (R101, R260). -/
def execBarrierCredit (k : Nat) (s : State) : Host.Outcome State Fault Refusal :=
  datEvent s k (fun op => match op with
    | .credit _ => true
    | _ => false) barServe

/-- The door step of join (R297). -/
def execJoinDoorOp (k : Nat) (s : State) : Host.Outcome State Fault Refusal :=
  datEvent s k (fun op => op == .join) (fun s p off _ => joinServe s p off)

/-- The door write of spawn.park (R296). -/
def execParkFrameWrite (k : Nat) (s : State) : Host.Outcome State Fault Refusal :=
  .next (serve s k (fun b => match b with
    | .park .. => true
    | _ => false) (fun s p => match p.body with
      | .park off r => parkServe s p off r
      | _ => .hold))

end Sys2Proof.Machine
end

