-- ==== Sys2Proof/Decode.lean ====
section
/-! DEFINITION. Instruction words: the decoder, total on any words and rejecting by name, and after it the encoder, both
written from the encoding tables of spec/02 and of the entries. A rejected word raises ILLEGAL_OP (R41). -/

namespace Sys2Proof

/-- Why a sequence of words is no instruction. Every case raises ILLEGAL_OP with EVAL = the first word (R41). -/
inductive DecodeErr where
  /-- fewer words than LEN gives -/
  | truncated
  /-- an unassigned or reserved OP (R40) -/
  | opUnassigned
  /-- an unassigned selector of an assigned OP (R41) -/
  | selUnassigned
  /-- a literal form where none is permitted (R24) -/
  | litRefused
  /-- a base OP in an extended form, or the reverse (R26) -/
  | lenRefused
  /-- a reserved or unused field that is not zero (R25) -/
  | fieldNotZero
  /-- a field value that the entry does not accept -/
  | fieldValue
  deriving DecidableEq, Repr

/-- The result `x` when the condition holds, else the error. -/
def need (c : Bool) (e : DecodeErr) (x : Except DecodeErr Instr) : Except DecodeErr Instr :=
  if c then x else .error e

/-! ## Fields of the base words (R23) -/

def sregOf (n : Nat) : SReg := ⟨n % 16, Nat.mod_lt _ (by decide)⟩
def vregOf (n : Nat) : VReg := ⟨n % 64, Nat.mod_lt _ (by decide)⟩
def tileOf (n : Nat) : TileNo := ⟨n % 4, Nat.mod_lt _ (by decide)⟩
def hndOf (n : Nat) : HandleNo := ⟨n % 8, Nat.mod_lt _ (by decide)⟩
def fin8Of (n : Nat) : Fin 8 := ⟨n % 8, Nat.mod_lt _ (by decide)⟩
def fin16Of (n : Nat) : Fin 16 := ⟨n % 16, Nat.mod_lt _ (by decide)⟩
def fin32Of (n : Nat) : Fin 32 := ⟨n % 32, Nat.mod_lt _ (by decide)⟩
def fin64Of (n : Nat) : Fin 64 := ⟨n % 64, Nat.mod_lt _ (by decide)⟩
def bitOf (n : Nat) : Bool := n % 2 == 1

def fLen (w : Nat) : Nat := w % 4
def fOp (w : Nat) : Nat := w / 4 % 64
def fSel (w : Nat) : Nat := w / 67108864 % 64
def fMod (w : Nat) : Nat := w / 1048576 % 64
def fB (w : Nat) : SReg := sregOf (w / 65536)
def fA (w : Nat) : SReg := sregOf (w / 4096)
def fD (w : Nat) : SReg := sregOf (w / 256)
def fImm (w : Nat) : BitVec 16 := BitVec.ofNat 16 (w / 65536)
def fSz (w : Nat) : Nat := w / 536870912 % 8
def fOff (w : Nat) : BitVec 13 := BitVec.ofNat 13 (w / 65536)
def fDelta (w : Nat) : BitVec 7 := BitVec.ofNat 7 (w / 33554432)
def fWord (w : Nat) : Fin 32 := fin32Of (w / 1048576)
def fVb (w : Nat) : VReg := vregOf (w / 1048576)
def fVa (w : Nat) : VReg := vregOf (w / 16384)
def fVd (w : Nat) : VReg := vregOf (w / 256)

/-- The literal of two words (R22). -/
def litOf (l0 l1 : Word32) : Word := BitVec.ofNat 64 (l0.toNat + l1.toNat * 4294967296)

def dirOf (n : Nat) : Dir :=
  match n % 4 with
  | 0 => .e | 1 => .w | 2 => .n | _ => .s

def dirCode : Dir → Nat
  | .e => 0 | .w => 1 | .n => 2 | .s => 3

def loadSizeOf : Nat → Option LoadSize
  | 0 => some .b | 1 => some .h | 2 => some .w | 3 => some .d | 4 => some .sb | 5 => some .sh | 6 => some .sw
  | _ => none

def loadSizeCode : LoadSize → Nat
  | .b => 0 | .h => 1 | .w => 2 | .d => 3 | .sb => 4 | .sh => 5 | .sw => 6

def storeSizeOf : Nat → Option StoreSize
  | 0 => some .b | 1 => some .h | 2 => some .w | 3 => some .d
  | _ => none

def storeSizeCode : StoreSize → Nat
  | .b => 0 | .h => 1 | .w => 2 | .d => 3

def atomOpOf (n : Nat) : AtomOp :=
  match n % 8 with
  | 0 => .ld | 1 => .swp | 2 => .cas | 3 => .add | 4 => .and | 5 => .or | 6 => .max | _ => .min

def atomOpCode : AtomOp → Nat
  | .ld => 0 | .swp => 1 | .cas => 2 | .add => 3 | .and => 4 | .or => 5 | .max => 6 | .min => 7

def atomOrdOf (n : Nat) : AtomOrd :=
  match n % 4 with
  | 0 => .none | 1 => .acq | 2 => .rel | _ => .ar

def atomOrdCode : AtomOrd → Nat
  | .none => 0 | .acq => 1 | .rel => 2 | .ar => 3

def spaceOf : Nat → Option Space
  | 0 => some .loc | 1 => some .glob | 2 => some .peer
  | _ => none

def spaceCode : Space → Nat
  | .loc => 0 | .glob => 1 | .peer => 2

/-- The condition of OP 0x10 above 0 (R42). -/
def condOf : Nat → Option Cond
  | 1 => some .eq | 2 => some .ne | 3 => some .lt | 4 => some .ge | 5 => some .ltu | 6 => some .geu
  | 7 => some .z | 8 => some .nz
  | _ => none

def condCode : Cond → Nat
  | .eq => 1 | .ne => 2 | .lt => 3 | .ge => 4 | .ltu => 5 | .geu => 6 | .z => 7 | .nz => 8

/-- The tile types of tcfg by element code (R207, R212). -/
def tileTypeOf : Nat → Option TileType
  | 10 => some .f32 | 0 => some .f16 | 1 => some .bf16 | 11 => some .i32 | 12 => some .i16 | 7 => some .i8
  | _ => none

def tileTypeCode : TileType → Nat
  | .f32 => 10 | .f16 => 0 | .bf16 => 1 | .i32 => 11 | .i16 => 12 | .i8 => 7

def cordFnOf (n : Nat) : CordFn :=
  match n % 8 with
  | 0 => .sin | 1 => .cos | 2 => .atan | 3 => .exp | 4 => .ln | 5 => .tanh | 6 => .sigm | _ => .sqrt

def cordFnCode : CordFn → Nat
  | .sin => 0 | .cos => 1 | .atan => 2 | .exp => 3 | .ln => 4 | .tanh => 5 | .sigm => 6 | .sqrt => 7

def shapeOf : Nat → Option StreamShape
  | 0 => some .one | 1 => some .row | 2 => some .col
  | _ => none

def shapeCode : StreamShape → Nat
  | .one => 0 | .row => 1 | .col => 2

def redOpOf : Nat → Option RedOp
  | 0 => some .add | 1 => some .min | 2 => some .max
  | _ => none

def redOpCode : RedOp → Nat
  | .add => 0 | .min => 1 | .max => 2

def redTypeOf : Nat → Option RedType
  | 0 => some .f32 | 1 => some .i32 | 2 => some .i64
  | _ => none

def redTypeCode : RedType → Nat
  | .f32 => 0 | .i32 => 1 | .i64 => 2

def fenceOrdOf : Nat → Option FenceOrd
  | 1 => some .acq | 2 => some .rel | 3 => some .full
  | _ => none

def fenceOrdCode : FenceOrd → Nat
  | .acq => 1 | .rel => 2 | .full => 3

def scopeOf (n : Nat) : Scope :=
  match n % 4 with
  | 0 => .core | 1 => .slice | 2 => .loaf | _ => .dev

def scopeCode : Scope → Nat
  | .core => 0 | .slice => 1 | .loaf => 2 | .dev => 3

def boolCode (b : Bool) : Nat := if b then 1 else 0

/-- Binary register operations of OP 0x01 by selector (R112). -/
def aluCtor : Nat → Option (SReg → SReg → SReg → Instr)
  | 0 => some .add
  | 1 => some .sub
  | 2 => some .mul
  | 3 => some .mulh
  | 4 => some .mulhu
  | 5 => some .div
  | 6 => some .divu
  | 7 => some .rem
  | 8 => some .remu
  | 9 => some .and
  | 10 => some .or
  | 11 => some .xor
  | 12 => some .shl
  | 13 => some .shr
  | 14 => some .sra
  | 15 => some .min
  | 16 => some .max
  | 17 => some .minu
  | 18 => some .maxu
  | 19 => some .cmpeq
  | 20 => some .cmplt
  | 21 => some .cmpltu
  | _ => none

/-- Literal forms of OP 0x01 by selector. -/
def aluLitCtor : Nat → Option (SReg → SReg → Word → Instr)
  | 0 => some .addLit
  | 1 => some .subLit
  | 2 => some .mulLit
  | 3 => some .mulhLit
  | 4 => some .mulhuLit
  | 5 => some .divLit
  | 6 => some .divuLit
  | 7 => some .remLit
  | 8 => some .remuLit
  | 9 => some .andLit
  | 10 => some .orLit
  | 11 => some .xorLit
  | 12 => some .shlLit
  | 13 => some .shrLit
  | 14 => some .sraLit
  | 15 => some .minLit
  | 16 => some .maxLit
  | 17 => some .minuLit
  | 18 => some .maxuLit
  | 19 => some .cmpeqLit
  | 20 => some .cmpltLit
  | 21 => some .cmpltuLit
  | _ => none

/-- Three-row operations of OP 0x2F by FN (R215). -/
def vecCtor : Nat → Option (VReg → VReg → VReg → Instr)
  | 0 => some .vadd
  | 1 => some .vsub
  | 2 => some .vmul
  | 3 => some .vfma
  | 4 => some .vmin
  | 5 => some .vmax
  | 8 => some .vand
  | 9 => some .vor
  | 10 => some .vxor
  | 11 => some .vshl
  | 12 => some .vshr
  | 14 => some .vsel
  | 15 => some .vshuf
  | _ => none

/-- Literal forms of OP 0x2F by FN. -/
def vecLitCtor : Nat → Option (VReg → VReg → Word → Instr)
  | 0 => some .vaddLit
  | 1 => some .vsubLit
  | 2 => some .vmulLit
  | 3 => some .vfmaLit
  | 4 => some .vminLit
  | 5 => some .vmaxLit
  | 8 => some .vandLit
  | 9 => some .vorLit
  | 10 => some .vxorLit
  | 11 => some .vshlLit
  | 12 => some .vshrLit
  | 14 => some .vselLit
  | 15 => some .vshufLit
  | _ => none

/-- Compares of OP 0x30 by FN (R216). -/
def vcmpCtor : Nat → Option (VReg → VReg → VReg → Instr)
  | 0 => some .vcmpEq
  | 1 => some .vcmpNe
  | 2 => some .vcmpLt
  | 3 => some .vcmpLe
  | 4 => some .vcmpGt
  | 5 => some .vcmpGe
  | 6 => some .vcmpUn
  | _ => none

/-- Literal forms of the compares. -/
def vcmpLitCtor : Nat → Option (VReg → VReg → Word → Instr)
  | 0 => some .vcmpEqLit
  | 1 => some .vcmpNeLit
  | 2 => some .vcmpLtLit
  | 3 => some .vcmpLeLit
  | 4 => some .vcmpGtLit
  | 5 => some .vcmpGeLit
  | 6 => some .vcmpUnLit
  | _ => none

/-- The result of a table look-up, or the named error. -/
def pickCtor {α : Type} (o : Option α) (e : DecodeErr) (f : α → Except DecodeErr Instr) : Except DecodeErr Instr :=
  match o with
  | some c => f c
  | none => .error e

/-! ## Base forms, LEN 0b00 -/

/-- OP 0x01 (R112). -/
def decodeAlu (w : Nat) : Except DecodeErr Instr :=
  match fSel w with
  | 22 => need (fMod w == 0 && (fB w).val == 0) .fieldNotZero (.ok (.clz (fD w) (fA w)))
  | 23 => need (fMod w == 0 && (fB w).val == 0) .fieldNotZero (.ok (.popc (fD w) (fA w)))
  | 24 => need (fMod w < 16) .fieldNotZero (.ok (.sel (fD w) (fA w) (fB w) (sregOf (fMod w))))
  | s => pickCtor (aluCtor s) .selUnassigned fun c => need (fMod w == 0) .fieldNotZero (.ok (c (fD w) (fA w) (fB w)))

/-- The bit-field instructions: position, width − 1 and four zero bits (R115). -/
def decodeField (c : SReg → SReg → Fin 64 → Fin 64 → Instr) (w : Nat) : Except DecodeErr Instr :=
  need ((fB w).val == 0) .fieldNotZero (.ok (c (fD w) (fA w) (fin64Of (fSel w)) (fin64Of (fMod w))))

/-- Shifts by a constant (R114). -/
def decodeShift (c : SReg → SReg → Fin 64 → Instr) (w : Nat) : Except DecodeErr Instr :=
  need (w / 65536 % 65536 < 64) .fieldValue (.ok (c (fD w) (fA w) (fin64Of (w / 65536))))

/-- OP 0x10 (R42). -/
def decodeBranch (w : Nat) : Except DecodeErr Instr :=
  match (fD w).val with
  | 0 => need ((fA w).val == 0 && (fB w).val == 0) .fieldNotZero (.ok (.b (fDelta w) (fWord w)))
  | c => pickCtor (condOf c) .fieldValue fun k => .ok (.bc k (fA w) (fB w) (fDelta w) (fWord w))

/-- OP 0x12 (R120, R121). -/
def decodeJump (w : Nat) : Except DecodeErr Instr :=
  match fSel w with
  | 0 => need (fMod w == 0 && (fB w).val == 0) .fieldNotZero (.ok (.callr (fD w) (fA w)))
  | 1 => need (fMod w == 0 && (fB w).val == 0 && (fD w).val == 0) .fieldNotZero (.ok (.ret (fA w)))
  | 2 => need (fMod w == 0 && (fB w).val == 0 && (fD w).val == 0 && (fA w).val == 0) .fieldNotZero (.ok .done)
  | _ => .error .selUnassigned

/-- OP 0x14 (R126). -/
def decodeLane (w : Nat) : Except DecodeErr Instr :=
  match fSel w with
  | 0 => need (fMod w < 4 && (fB w).val == 0 && (fD w).val == 0) .fieldNotZero (.ok (.nput (fA w) (dirOf (fMod w))))
  | 1 => need (fMod w < 4 && (fB w).val == 0 && (fA w).val == 0) .fieldNotZero (.ok (.nget (fD w) (dirOf (fMod w))))
  | _ => .error .selUnassigned

/-- Row moves of OPs 0x1A and 0x26: the scalar base stands in the low four bits of va (R76, R91). -/
def decodeRowMove (c : VReg → SReg → Fin 64 → Instr) (w : Nat) : Except DecodeErr Instr :=
  need ((fVa w).val < 16) .fieldNotZero (.ok (c (fVd w) (sregOf (fVa w).val) (fVb w)))

/-- OP 0x1A. -/
def decodeLocalRow (w : Nat) : Except DecodeErr Instr :=
  match fSel w with
  | 0 => decodeRowMove .ldlV w
  | 1 => decodeRowMove .stlV w
  | _ => .error .selUnassigned

/-- OP 0x26. -/
def decodeGlobalRow (w : Nat) : Except DecodeErr Instr :=
  match fSel w with
  | 0 => decodeRowMove .ldgV w
  | 1 => decodeRowMove .stgV w
  | 2 => decodeRowMove .gred w
  | _ => .error .selUnassigned

/-- OP 0x1B (R92). -/
def decodePeer (w : Nat) : Except DecodeErr Instr :=
  match fSel w with
  | 0 => pickCtor (loadSizeOf (fMod w)) .fieldValue fun z => .ok (.ldp (fD w) (fA w) (fB w) z)
  | 1 => pickCtor (storeSizeOf (fMod w)) .fieldValue fun z => .ok (.stp (fD w) (fA w) (fB w) z)
  | 2 => need (fMod w < 2) .fieldNotZero (.ok (.stpN (fD w) (fA w) (fB w) (bitOf (fMod w))))
  | _ => .error .selUnassigned

/-- An atomic of OPs 0x1C and 0x27 (R77). -/
def decodeAtom (c : AtomOp → Bool → AtomOrd → SReg → SReg → SReg → Instr) (w : Nat) : Except DecodeErr Instr :=
  .ok (c (atomOpOf (fMod w / 8)) (bitOf (fMod w / 4)) (atomOrdOf (fMod w)) (fD w) (fA w) (fB w))

/-- OP 0x1D (R106): MOD[2:0] is the handle, MOD[3] the role of qbind. -/
def decodeRing (w : Nat) : Except DecodeErr Instr :=
  let h := hndOf (fMod w)
  match fSel w with
  | 0 => if fMod w < 8 then .ok (.qbindC h (fD w) (fA w) (fB w))
         else need (fMod w < 16 && (fB w).val == 0) .fieldNotZero (.ok (.qbindP h (fD w) (fA w)))
  | 1 => need (fMod w < 8 && (fB w).val == 0 && (fA w).val == 0) .fieldNotZero (.ok (.qwait h (fD w)))
  | 2 => need (fMod w < 8 && (fB w).val == 0 && (fA w).val == 0 && (fD w).val == 0) .fieldNotZero (.ok (.qadv h))
  | 3 => need (fMod w < 8 && (fB w).val == 0 && (fA w).val == 0) .fieldNotZero (.ok (.qres h (fD w)))
  | 4 => need (fMod w < 8 && (fB w).val == 0) .fieldNotZero (.ok (.qpub h (fD w) (fA w)))
  | 5 => need (fMod w < 8 && (fB w).val == 0 && (fA w).val == 0 && (fD w).val == 0) .fieldNotZero (.ok (.qeos h))
  | _ => .error .selUnassigned

/-- OP 0x21 (R102). -/
def decodeObject (w : Nat) : Except DecodeErr Instr :=
  match fSel w with
  | 0 => need (fMod w == 0 && (fB w).val == 0) .fieldNotZero (.ok (.cwait (fD w) (fA w)))
  | 1 => need (fMod w == 0 && (fB w).val == 0) .fieldNotZero (.ok (.cpoll (fD w) (fA w)))
  | _ => .error .selUnassigned

/-- OP 0x27: amo and pref (R77, R79). -/
def decodeAmo (w : Nat) : Except DecodeErr Instr :=
  match fSel w with
  | 0 => decodeAtom .amo w
  | 1 => need (fMod w == 0 && (fD w).val == 0) .fieldNotZero (.ok (.pref (fA w) (fB w)))
  | _ => .error .selUnassigned

/-- OP 0x2A (R186, R187). -/
def decodeReedCtl (w : Nat) : Except DecodeErr Instr :=
  match fSel w with
  | 0 => need (fMod w < 4 && (fB w).val == 0 && (fA w).val == 0) .fieldNotZero (.ok (.rstat (fD w) (dirOf (fMod w))))
  | 1 => need (fMod w < 8 && (fB w).val == 0 && (fA w).val == 0 && (fD w).val == 0) .fieldNotZero
           (.ok (if fMod w < 4 then .rcancel (dirOf (fMod w)) else .rcancelArm (tileOf (fMod w))))
  | _ => .error .selUnassigned

/-- OP 0x2C (R205, R206). -/
def decodePattern (w : Nat) : Except DecodeErr Instr :=
  match fSel w with
  | 0 => need (fMod w < 4) .fieldNotZero (.ok (.pload (fD w) (fA w) (fB w) (dirOf (fMod w))))
  | 1 => need (fMod w < 4 && (fB w).val == 0) .fieldNotZero (.ok (.pnnz (fD w) (fA w) (dirOf (fMod w))))
  | _ => .error .selUnassigned

/-- OP 0x2D (R212, R213). -/
def decodeTile (w : Nat) : Except DecodeErr Instr :=
  match fSel w with
  | 0 => need ((fB w).val < 2 && (fA w).val == 0 && (fD w).val == 0) .fieldNotZero
           (pickCtor (tileTypeOf (fMod w / 4)) .fieldValue fun ty => .ok (.tcfg (tileOf (fMod w)) ty (bitOf (fB w).val)))
  | 1 => need (fMod w < 4 && (fB w).val == 0 && (fA w).val == 0 && (fD w).val == 0) .fieldNotZero
           (.ok (.tzero (tileOf (fMod w))))
  | _ => .error .selUnassigned

/-- OP 0x2F (R215). -/
def decodeVec (w : Nat) : Except DecodeErr Instr :=
  match fSel w with
  | 6 => need ((fVb w).val == 0) .fieldNotZero (.ok (.vabs (fVd w) (fVa w)))
  | 7 => need ((fVb w).val == 0) .fieldNotZero (.ok (.vneg (fVd w) (fVa w)))
  | 13 => need ((fVa w).val == 0) .fieldNotZero (.ok (.vmov (fVd w) (fVb w)))
  | s => pickCtor (vecCtor s) .selUnassigned fun c => .ok (c (fVd w) (fVa w) (fVb w))

/-- OP 0x30 (R216, R217). -/
def decodeVcmp (w : Nat) : Except DecodeErr Instr :=
  match fSel w with
  | 16 => need ((fVb w).val == 0) .fieldNotZero (.ok (.vredAdd (fVd w) (fVa w)))
  | 17 => need ((fVb w).val == 0) .fieldNotZero (.ok (.vredMin (fVd w) (fVa w)))
  | 18 => need ((fVb w).val == 0) .fieldNotZero (.ok (.vredMax (fVd w) (fVa w)))
  | s => pickCtor (vcmpCtor s) .selUnassigned fun c => .ok (c (fVd w) (fVa w) (fVb w))

/-- OP 0x31 (R218): scalars stand in the low four bits of a six-bit field. -/
def decodeExchange (w : Nat) : Except DecodeErr Instr :=
  match fSel w with
  | 0 => need ((fVb w).val == 0 && (fVa w).val < 16) .fieldNotZero (.ok (.vsplat (fVd w) (sregOf (fVa w).val)))
  | 1 => need ((fVd w).val < 16) .fieldNotZero (.ok (.vext (sregOf (fVd w).val) (fVa w) (fVb w)))
  | 2 => need ((fVa w).val < 16) .fieldNotZero (.ok (.vins (fVd w) (sregOf (fVa w).val) (fVb w)))
  | 3 => need ((fVd w).val < 16 && (fVb w).val < 16) .fieldNotZero
           (.ok (.vnnz (sregOf (fVd w).val) (fVa w) (fin16Of (fVb w).val)))
  | _ => .error .selUnassigned

/-- OP 0x35 (R249). -/
def decodeStream (w : Nat) : Except DecodeErr Instr :=
  match fSel w with
  | 0 => need (fMod w < 2) .fieldNotZero (.ok (.ssend (fD w) (fA w) (fB w) (bitOf (fMod w))))
  | 1 => need (fMod w < 2 && (fB w).val == 0 && (fA w).val == 0 && (fD w).val == 0) .fieldNotZero
           (.ok (.sclose (bitOf (fMod w))))
  | _ => .error .selUnassigned

/-- OP 0x36 (R257). -/
def decodeBellows (w : Nat) : Except DecodeErr Instr :=
  match fSel w with
  | 0 => pickCtor (redOpOf (fMod w / 8)) .fieldValue fun o =>
           pickCtor (redTypeOf (fMod w % 8)) .fieldValue fun t => .ok (.bred o t (fD w) (fA w) (fB w))
  | 1 => need (fMod w == 0 && (fA w).val == 0) .fieldNotZero (.ok (.bbar (fD w) (fB w)))
  | _ => .error .selUnassigned

/-- OP 0x38 (R264). -/
def decodeBarrier (w : Nat) : Except DecodeErr Instr :=
  need (fMod w == 0) .fieldNotZero <|
  match fSel w with
  | 0 => need ((fB w).val == 0) .fieldNotZero (.ok (.bjoin (fD w) (fA w)))
  | 1 => .ok (.barv (fD w) (fA w) (fB w))
  | 2 => .ok (.bdrop (fD w) (fA w) (fB w))
  | 3 => need ((fD w).val == 0) .fieldNotZero (.ok (.bexp (fA w) (fB w)))
  | 4 => .ok (.bwait (fD w) (fA w) (fB w))
  | 5 => need ((fD w).val == 0) .fieldNotZero (.ok (.binit (fA w) (fB w)))
  | _ => .error .selUnassigned

/-- OP 0x39 (R295). -/
def decodeTask (w : Nat) : Except DecodeErr Instr :=
  match fSel w with
  | 0 => need (fMod w < 2) .fieldNotZero
           (.ok (if fMod w == 0 then .spawn (fD w) (fA w) (fB w) else .spawnPark (fD w) (fA w) (fB w)))
  | 1 => need (fMod w == 0 && (fB w).val == 0) .fieldNotZero (.ok (.join (fD w) (fA w)))
  | 2 => need (fMod w == 0) .fieldNotZero (.ok (.await (fD w) (fA w) (fB w)))
  | 3 => need (fMod w == 0) .fieldNotZero (.ok (.migrate (fD w) (fA w) (fB w)))
  | 4 => need (fMod w == 0 && (fB w).val == 0 && (fA w).val == 0) .fieldNotZero (.ok (.yield (fD w)))
  | 5 => need (fMod w == 0) .fieldNotZero (.ok (.whlAt (fD w) (fA w) (fB w)))
  | _ => .error .selUnassigned

/-- OP 0x3C (R326). -/
def decodeHarvest (w : Nat) : Except DecodeErr Instr :=
  need (fMod w == 0 && (fB w).val == 0 && (fD w).val == 0) .fieldNotZero <|
  match fSel w with
  | 0 => .ok (.lend (fA w))
  | 1 => need ((fA w).val == 0) .fieldNotZero (.ok .reclaim)
  | 2 => need ((fA w).val == 0) .fieldNotZero (.ok .hvon)
  | 3 => need ((fA w).val == 0) .fieldNotZero (.ok .hvoff)
  | _ => .error .selUnassigned

/-- The 10-bit number b || MOD (R44, R344). -/
def fCsr (w : Nat) : BitVec 10 := BitVec.ofNat 10 (w / 1048576 % 64 + w / 65536 % 16 * 64)

/-- OP 0x3D (R344..R349). -/
def decodeSystem (w : Nat) : Except DecodeErr Instr :=
  match fSel w with
  | 0 => need ((fA w).val == 0 && (fD w).val == 0) .fieldNotZero (.ok (.trap (fCsr w)))
  | 1 => need (fMod w < 2 && (fB w).val == 0) .fieldNotZero
           (if fMod w == 0 then need ((fA w).val == 0) .fieldNotZero (.ok (.rte (fD w)))
            else .ok (.rteAt (fD w) (fA w)))
  | 2 => need ((fA w).val == 0) .fieldNotZero (.ok (.csrr (fD w) (fCsr w)))
  | 3 => need ((fD w).val == 0) .fieldNotZero (.ok (.csrw (fCsr w) (fA w)))
  | 4 => need (fMod w < 8 && (fD w).val == 0) .fieldNotZero
           (.ok (.tlbi (bitOf (fMod w / 4)) (scopeOf (fMod w)) (fA w) (fB w)))
  | 5 => need (fMod w < 8 && (fD w).val == 0 && (fA w).val == 0) .fieldNotZero
           (.ok (.tlbv (bitOf (fMod w / 4)) (scopeOf (fMod w)) (fB w)))
  | 6 => need (fMod w == 0 && (fB w).val == 0 && (fA w).val == 0 && (fD w).val == 0) .fieldNotZero (.ok .halt)
  | 7 => need (fMod w < 8 && (fB w).val == 0) .fieldNotZero (.ok (.svc (fD w) (fA w) (fin8Of (fMod w))))
  | _ => .error .selUnassigned

/-- OP 0x3E (R283). -/
def decodeFence (w : Nat) : Except DecodeErr Instr :=
  need (fSel w == 0) .selUnassigned <|
  need (fMod w < 16 && (fB w).val == 0 && (fA w).val == 0 && (fD w).val == 0) .fieldNotZero <|
  pickCtor (fenceOrdOf (fMod w / 4)) .fieldValue fun o => .ok (.fence o (scopeOf (fMod w)))

/-- OPs that have only extended forms (R26). -/
def extendedOp (op : Nat) : Bool :=
  op == 0x20 || op == 0x28 || op == 0x29 || op == 0x2B || op == 0x2E || op == 0x32 || op == 0x33 || op == 0x34
    || op == 0x3A

/-- A one-word instruction (R40). -/
def decodeBase (w : Nat) : Except DecodeErr Instr :=
  match fOp w with
  | 0x01 => decodeAlu w
  | 0x03 => decodeField .bext w
  | 0x04 => decodeField .bins w
  | 0x05 => .ok (.addi (fD w) (fA w) (fImm w))
  | 0x06 => .ok (.andi (fD w) (fA w) (fImm w))
  | 0x07 => .ok (.ori (fD w) (fA w) (fImm w))
  | 0x08 => .ok (.xori (fD w) (fA w) (fImm w))
  | 0x09 => decodeShift .shli w
  | 0x0A => decodeShift .shri w
  | 0x0B => decodeShift .srai w
  | 0x0C => need ((fA w).val == 0) .fieldNotZero (.ok (.li (fD w) (fImm w)))
  | 0x0D => need ((fA w).val == 0) .fieldNotZero (.ok (.lea (fD w) (fImm w)))
  | 0x10 => decodeBranch w
  | 0x11 => need ((fA w).val == 0 && (fB w).val == 0) .fieldNotZero (.ok (.call (fD w) (fDelta w) (fWord w)))
  | 0x12 => decodeJump w
  | 0x13 => need ((fD w).val == 0 && (fB w).val == 0) .fieldNotZero (.ok (.cont (fA w) (fDelta w) (fWord w)))
  | 0x14 => decodeLane w
  | 0x15 => need (fSel w == 0) .selUnassigned (need (fMod w < 8) .fieldNotZero
              (.ok (.send (fD w) (fA w) (fB w) (fin8Of (fMod w)))))
  | 0x18 => pickCtor (loadSizeOf (fSz w)) .fieldValue fun z => .ok (.ldl (fD w) (fA w) z (fOff w))
  | 0x19 => pickCtor (storeSizeOf (fSz w)) .fieldValue fun z => .ok (.stl (fD w) (fA w) z (fOff w))
  | 0x1A => decodeLocalRow w
  | 0x1B => decodePeer w
  | 0x1C => need (fSel w == 0) .selUnassigned (decodeAtom .amol w)
  | 0x1D => decodeRing w
  | 0x21 => decodeObject w
  | 0x24 => pickCtor (loadSizeOf (fSz w)) .fieldValue fun z => .ok (.ldg (fD w) (fA w) z (fOff w))
  | 0x25 => pickCtor (storeSizeOf (fSz w)) .fieldValue fun z => .ok (.stg (fD w) (fA w) z (fOff w))
  | 0x26 => decodeGlobalRow w
  | 0x27 => decodeAmo w
  | 0x2A => decodeReedCtl w
  | 0x2C => decodePattern w
  | 0x2D => decodeTile w
  | 0x2F => decodeVec w
  | 0x30 => decodeVcmp w
  | 0x31 => decodeExchange w
  | 0x35 => decodeStream w
  | 0x36 => decodeBellows w
  | 0x38 => decodeBarrier w
  | 0x39 => decodeTask w
  | 0x3C => decodeHarvest w
  | 0x3D => decodeSystem w
  | 0x3E => decodeFence w
  | op => .error (if extendedOp op then .lenRefused else .opUnassigned)

/-! ## Literal forms, LEN 0b01 (R24) -/

/-- The field that the literal of format A replaces must be zero. -/
def litA (w : Nat) (x : Except DecodeErr Instr) : Except DecodeErr Instr := need ((fB w).val == 0) .fieldNotZero x

/-- OP 0x01 with a literal second source; clz and popc read none. -/
def decodeAluLit (w : Nat) (l : Word) : Except DecodeErr Instr :=
  litA w <|
  match fSel w with
  | 22 => .error .litRefused
  | 23 => .error .litRefused
  | 24 => need (fMod w < 16) .fieldNotZero (.ok (.selLit (fD w) (fA w) (sregOf (fMod w)) l))
  | s => pickCtor (aluLitCtor s) .selUnassigned fun c => need (fMod w == 0) .fieldNotZero (.ok (c (fD w) (fA w) l))

/-- Immediates with a 64-bit literal. -/
def decodeImmLit (c : SReg → SReg → Word → Instr) (w : Nat) (l : Word) : Except DecodeErr Instr :=
  need (w / 65536 % 65536 == 0) .fieldNotZero (.ok (c (fD w) (fA w) l))

/-- li and lea with a literal: a is zero too. -/
def decodeMoveLit (c : SReg → Word → Instr) (w : Nat) (l : Word) : Except DecodeErr Instr :=
  need (w / 65536 % 65536 == 0 && (fA w).val == 0) .fieldNotZero (.ok (c (fD w) l))

/-- delta and word must be zero beside a literal target. -/
def litB (w : Nat) (x : Except DecodeErr Instr) : Except DecodeErr Instr :=
  need (w / 1048576 % 4096 == 0) .fieldNotZero x

/-- OP 0x10 with an absolute target. -/
def decodeBranchLit (w : Nat) (l : Word) : Except DecodeErr Instr :=
  litB w <|
  match (fD w).val with
  | 0 => need ((fA w).val == 0 && (fB w).val == 0) .fieldNotZero (.ok (.bLit l))
  | c => pickCtor (condOf c) .fieldValue fun k => .ok (.bcLit k (fA w) (fB w) l)

/-- Row moves with a literal byte offset: vb is zero. -/
def decodeRowMoveLit (c : VReg → SReg → Word → Instr) (w : Nat) (l : Word) : Except DecodeErr Instr :=
  need ((fVa w).val < 16 && (fVb w).val == 0) .fieldNotZero (.ok (c (fVd w) (sregOf (fVa w).val) l))

/-- OP 0x1A with a literal. -/
def decodeLocalRowLit (w : Nat) (l : Word) : Except DecodeErr Instr :=
  match fSel w with
  | 0 => decodeRowMoveLit .ldlVLit w l
  | 1 => decodeRowMoveLit .stlVLit w l
  | _ => .error .selUnassigned

/-- OP 0x26 with a literal. -/
def decodeGlobalRowLit (w : Nat) (l : Word) : Except DecodeErr Instr :=
  match fSel w with
  | 0 => decodeRowMoveLit .ldgVLit w l
  | 1 => decodeRowMoveLit .stgVLit w l
  | 2 => decodeRowMoveLit .gredLit w l
  | _ => .error .selUnassigned

/-- OP 0x1B with a literal offset. -/
def decodePeerLit (w : Nat) (l : Word) : Except DecodeErr Instr :=
  litA w <|
  match fSel w with
  | 0 => pickCtor (loadSizeOf (fMod w)) .fieldValue fun z => .ok (.ldpLit (fD w) (fA w) z l)
  | 1 => pickCtor (storeSizeOf (fMod w)) .fieldValue fun z => .ok (.stpLit (fD w) (fA w) z l)
  | 2 => need (fMod w < 2) .fieldNotZero (.ok (.stpNLit (fD w) (fA w) (bitOf (fMod w)) l))
  | _ => .error .selUnassigned

/-- An atomic with a literal operand (not for ld, which `Instr.wf` refuses). -/
def decodeAtomLit (c : AtomOp → Bool → AtomOrd → SReg → SReg → Word → Instr) (w : Nat) (l : Word) :
    Except DecodeErr Instr :=
  litA w (.ok (c (atomOpOf (fMod w / 8)) (bitOf (fMod w / 4)) (atomOrdOf (fMod w)) (fD w) (fA w) l))

/-- OP 0x27 with a literal. -/
def decodeAmoLit (w : Nat) (l : Word) : Except DecodeErr Instr :=
  match fSel w with
  | 0 => decodeAtomLit .amoLit w l
  | 1 => litA w (need (fMod w == 0 && (fD w).val == 0) .fieldNotZero (.ok (.prefLit (fA w) l)))
  | _ => .error .selUnassigned

/-- OP 0x2F with a literal row. -/
def decodeVecLit (w : Nat) (l : Word) : Except DecodeErr Instr :=
  need ((fVb w).val == 0) .fieldNotZero <|
  match fSel w with
  | 6 => .error .litRefused
  | 7 => .error .litRefused
  | 13 => need ((fVa w).val == 0) .fieldNotZero (.ok (.vmovLit (fVd w) l))
  | s => pickCtor (vecLitCtor s) .selUnassigned fun c => .ok (c (fVd w) (fVa w) l)

/-- OP 0x30 with a literal row; vred refuses it. -/
def decodeVcmpLit (w : Nat) (l : Word) : Except DecodeErr Instr :=
  need ((fVb w).val == 0) .fieldNotZero <|
  match fSel w with
  | 16 => .error .litRefused
  | 17 => .error .litRefused
  | 18 => .error .litRefused
  | s => pickCtor (vcmpLitCtor s) .selUnassigned fun c => .ok (c (fVd w) (fVa w) l)

/-- OP 0x38 with a literal in place of s_b; bjoin refuses it. -/
def decodeBarrierLit (w : Nat) (l : Word) : Except DecodeErr Instr :=
  litA w <| need (fMod w == 0) .fieldNotZero <|
  match fSel w with
  | 0 => .error .litRefused
  | 1 => .ok (.barvLit (fD w) (fA w) l)
  | 2 => .ok (.bdropLit (fD w) (fA w) l)
  | 3 => need ((fD w).val == 0) .fieldNotZero (.ok (.bexpLit (fA w) l))
  | 4 => .ok (.bwaitLit (fD w) (fA w) l)
  | 5 => need ((fD w).val == 0) .fieldNotZero (.ok (.binitLit (fA w) l))
  | _ => .error .selUnassigned

/-- OP 0x39 with an absolute target; join and yield refuse it. -/
def decodeTaskLit (w : Nat) (l : Word) : Except DecodeErr Instr :=
  litA w <|
  match fSel w with
  | 0 => need (fMod w < 2) .fieldNotZero
           (.ok (if fMod w == 0 then .spawnLit (fD w) (fA w) l else .spawnParkLit (fD w) (fA w) l))
  | 1 => .error .litRefused
  | 2 => need (fMod w == 0) .fieldNotZero (.ok (.awaitLit (fD w) (fA w) l))
  | 3 => need (fMod w == 0) .fieldNotZero (.ok (.migrateLit (fD w) (fA w) l))
  | 4 => .error .litRefused
  | 5 => need (fMod w == 0) .fieldNotZero (.ok (.whlAtLit (fD w) (fA w) l))
  | _ => .error .selUnassigned

/-- OPs whose map entry gives Lit = N in a base form (R40). -/
def noLitOp (op : Nat) : Bool :=
  op == 0x03 || op == 0x04 || (0x09 ≤ op && op ≤ 0x0B) || op == 0x12 || op == 0x14 || op == 0x18 || op == 0x19
    || op == 0x1D || op == 0x21 || op == 0x24 || op == 0x25 || op == 0x2A || op == 0x2C || op == 0x2D || op == 0x31
    || op == 0x35 || op == 0x36 || op == 0x3C || op == 0x3D || op == 0x3E

/-- A three-word instruction with a literal. -/
def decodeLit (w : Nat) (l : Word) : Except DecodeErr Instr :=
  match fOp w with
  | 0x01 => decodeAluLit w l
  | 0x05 => decodeImmLit .addiLit w l
  | 0x06 => decodeImmLit .andiLit w l
  | 0x07 => decodeImmLit .oriLit w l
  | 0x08 => decodeImmLit .xoriLit w l
  | 0x0C => decodeMoveLit .liLit w l
  | 0x0D => decodeMoveLit .leaLit w l
  | 0x10 => decodeBranchLit w l
  | 0x11 => litB w (need ((fA w).val == 0 && (fB w).val == 0) .fieldNotZero (.ok (.callLit (fD w) l)))
  | 0x13 => litB w (need ((fD w).val == 0 && (fB w).val == 0) .fieldNotZero (.ok (.contLit (fA w) l)))
  | 0x15 => litA w (need (fSel w == 0) .selUnassigned (need (fMod w < 8) .fieldNotZero
              (.ok (.sendLit (fD w) (fA w) (fin8Of (fMod w)) l))))
  | 0x1A => decodeLocalRowLit w l
  | 0x1B => decodePeerLit w l
  | 0x1C => need (fSel w == 0) .selUnassigned (decodeAtomLit .amolLit w l)
  | 0x26 => decodeGlobalRowLit w l
  | 0x27 => decodeAmoLit w l
  | 0x2F => decodeVecLit w l
  | 0x30 => decodeVcmpLit w l
  | 0x38 => decodeBarrierLit w l
  | 0x39 => decodeTaskLit w l
  | op => .error (if extendedOp op then .lenRefused else if noLitOp op then .litRefused else .opUnassigned)

/-! ## Extended forms, LEN 0b10 (R28..R32) -/

/-- A copy: FROM, TO, and the fields of X1 and X2 (R29). -/
def decodeCopy (w x1 x2 : Nat) : Except DecodeErr Instr :=
  pickCtor (spaceOf (x1 / 1073741824 % 4)) .fieldValue fun s =>
  pickCtor (spaceOf (x1 / 268435456 % 4)) .fieldValue fun t =>
  need (fMod w == 0 && x1 / 65536 % 4096 == 0 && x2 / 2147483648 == 0) .fieldNotZero <|
  let idx := BitVec.ofNat 16 x1
  let noIdx := x1 % 65536 == 0
  let noBar := x2 == 0
  match fSel w with
  | 0 => need (noIdx && noBar) .fieldNotZero (.ok (.cpy (fD w) (fA w) (fB w) s t))
  | 1 => need noIdx .fieldNotZero
           (.ok (.cpyBar (fD w) (fA w) (fB w) s t (BitVec.ofNat 15 (x2 / 65536)) (BitVec.ofNat 16 x2)))
  | 2 => need noBar .fieldNotZero (.ok (.cgat (fD w) (fA w) (fB w) s t idx))
  | 3 => need noBar .fieldNotZero (.ok (.cscat (fD w) (fA w) (fB w) s t idx))
  | _ => .error .selUnassigned

/-- rset (R183). -/
def decodeRset (w x1 x2 : Nat) : Except DecodeErr Instr :=
  need (fSel w == 0 && fMod w == 0 && (fB w).val == 0 && x2 / 64 == 0) .fieldNotZero <|
  .ok (.rset (fD w) (fA w) (BitVec.ofNat 16 (x1 / 65536)) (fin16Of (x1 / 4096)) (dirOf (x1 / 1024)) (bitOf (x1 / 512))
    (bitOf (x1 / 256)) (BitVec.ofNat 8 x1) (fin64Of x2))

/-- rfeed (R184). -/
def decodeRfeed (w x1 x2 : Nat) : Except DecodeErr Instr :=
  need (fSel w == 0 && fMod w == 0 && x1 % 1024 == 0 && x2 % 1024 == 0) .fieldNotZero <|
  .ok (.rfeed (fD w) (fA w) (fB w) (BitVec.ofNat 16 (x1 / 65536)) (fin16Of (x1 / 4096)) (dirOf (x1 / 1024))
    (BitVec.ofNat 12 (x2 / 1048576)) (tileOf (x2 / 262144)) (fin16Of (x2 / 16384)) (fin16Of (x2 / 1024)))

/-- tarm (R185). -/
def decodeTarm (w x1 x2 : Nat) : Except DecodeErr Instr :=
  need (fSel w == 0 && fMod w == 0 && (fA w).val == 0 && (fB w).val == 0 && x1 / 1024 == 0 && x1 % 512 == 0
    && x2 % 512 == 0) .fieldNotZero <|
  .ok (.tarm (fD w) (bitOf (x1 / 512)) (BitVec.ofNat 12 (x2 / 1048576)) (tileOf (x2 / 262144)) (fin16Of (x2 / 16384))
    (fin16Of (x2 / 1024)) (bitOf (x2 / 512)))

/-- tdrain (R228). -/
def decodeDrain (w x1 x2 : Nat) : Except DecodeErr Instr :=
  need (fSel w == 0 && fMod w == 0 && x1 % 65536 == 0) .fieldNotZero <|
  .ok (.tdrain (fD w) (fA w) (fB w) (tileOf (x1 / 1073741824)) (fin16Of (x1 / 67108864)) (fin16Of (x1 / 4194304))
    (fin8Of (x1 / 524288)) (fin8Of (x1 / 65536)) (BitVec.ofNat 16 (x2 / 65536)) (BitVec.ofNat 16 x2))

/-- OP 0x32: vcvt, vq, vscale (R31). -/
def decodeConvert (w x1 x2 : Nat) : Except DecodeErr Instr :=
  need (x1 % 1048576 == 0 && x2 == 0) .fieldNotZero <|
  let tf := fin16Of (x1 / 268435456)
  let sf := fin16Of (x1 / 16777216)
  let rnd := fin8Of (x1 / 2097152)
  let sat := bitOf (x1 / 1048576)
  match fSel w with
  | 0 => .ok (.vcvt (fVd w) (fVa w) (fVb w) tf sf rnd sat)
  | 1 => .ok (.vq (fVd w) (fVa w) (fVb w) tf sf rnd sat)
  | 2 => need (tf == sf) .fieldValue (.ok (.vscale (fVd w) (fVa w) (fVb w) tf rnd sat))
  | _ => .error .selUnassigned

/-- vcord (R226). -/
def decodeCord (w x1 x2 : Nat) : Except DecodeErr Instr :=
  need (fSel w == 0) .selUnassigned <| need ((fVb w).val == 0 && x1 % 16777216 == 0 && x2 == 0) .fieldNotZero <|
  .ok (.vcord (fVd w) (fVa w) (cordFnOf (x1 / 536870912)) (fin32Of (x1 / 16777216)))

/-- sopen (R248). -/
def decodeSopen (w x1 x2 : Nat) : Except DecodeErr Instr :=
  need (fSel w == 0 && fMod w < 2 && (fB w).val == 0 && x1 % 524288 == 0 && x2 == 0) .fieldNotZero <|
  pickCtor (shapeOf (x1 / 1073741824 % 4)) .fieldValue fun s =>
  .ok (.sopen (fD w) (fA w) s (BitVec.ofNat 8 (x1 / 4194304)) (hndOf (x1 / 524288)) (bitOf (fMod w)))

/-- launch (R307). -/
def decodeLaunch (w x1 x2 : Nat) : Except DecodeErr Instr :=
  need (fSel w == 0 && fMod w == 0 && x1 % 268435456 == 0 && x2 == 0) .fieldNotZero <|
  .ok (.launch (fD w) (fA w) (fB w) (fin16Of (x1 / 268435456)))

/-- A three-word extended instruction. -/
def decodeExt (w x1 x2 : Nat) : Except DecodeErr Instr :=
  match fOp w with
  | 0x20 => decodeCopy w x1 x2
  | 0x28 => decodeRset w x1 x2
  | 0x29 => decodeRfeed w x1 x2
  | 0x2B => decodeTarm w x1 x2
  | 0x2E => decodeDrain w x1 x2
  | 0x32 => decodeConvert w x1 x2
  | 0x33 => decodeCord w x1 x2
  | 0x34 => decodeSopen w x1 x2
  | 0x3A => decodeLaunch w x1 x2
  | _ => .error .lenRefused

/-- Words of an instruction by the LEN field of its first word (R22). -/
def instrWords (w : Word32) : Nat :=
  match fLen w.toNat with
  | 0 => 1
  | 3 => 5
  | _ => 3

/-- The words of an instruction, before the operand limits of `Instr.wf`. -/
def decodeWords (ws : List Word32) : Except DecodeErr Instr :=
  match ws with
  | [] => .error .truncated
  | w :: rest =>
    match fLen w.toNat, rest with
    | 0, _ => decodeBase w.toNat
    | 1, l0 :: l1 :: _ => decodeLit w.toNat (litOf l0 l1)
    | 2, x1 :: x2 :: _ => decodeExt w.toNat x1.toNat x2.toNat
    | 3, _ => .error .litRefused
    | _, _ => .error .truncated

/-- The instruction at the head of a list of words, or the reason why there is none. No extended OP accepts a literal
(R40), so LEN 0b11 is always refused. -/
def decode (ws : List Word32) : Except DecodeErr Instr :=
  match decodeWords ws with
  | .ok i => need i.wf .fieldValue (.ok i)
  | .error e => .error e

/-! ## The encoder -/

/-- A 32-bit word of a number. -/
def wd (n : Nat) : Word32 := BitVec.ofNat 32 n

/-- Format A. -/
def wA (sel mod b a d op len : Nat) : Nat :=
  sel * 67108864 + mod * 1048576 + b * 65536 + a * 4096 + d * 256 + op * 4 + len

/-- Format I. -/
def wI (imm a d op len : Nat) : Nat := imm * 65536 + a * 4096 + d * 256 + op * 4 + len

/-- Format I-M. -/
def wM (sz off a d op : Nat) : Nat := sz * 536870912 + off * 65536 + a * 4096 + d * 256 + op * 4

/-- Format B. -/
def wB (delta word b a c op len : Nat) : Nat :=
  delta * 33554432 + word * 1048576 + b * 65536 + a * 4096 + c * 256 + op * 4 + len

/-- Format V. -/
def wV (fn vb va vd op len : Nat) : Nat := fn * 67108864 + vb * 1048576 + va * 16384 + vd * 256 + op * 4 + len

/-- The two words of a literal (R22). -/
def litWords (l : Word) : List Word32 := [wd (l.toNat % 4294967296), wd (l.toNat / 4294967296)]

/-- MOD of an atomic (R77). -/
def atomMod (o : AtomOp) (dbl : Bool) (r : AtomOrd) : Nat := atomOpCode o * 8 + boolCode dbl * 4 + atomOrdCode r

/-- X1 of a copy (R29). -/
def copyX1 (s t : Space) (idx : Nat) : Nat := spaceCode s * 1073741824 + spaceCode t * 268435456 + idx

/-- X1 of a conversion (R31). -/
def convX1 (tf sf rnd : Nat) (sat : Bool) : Nat :=
  tf * 268435456 + sf * 16777216 + rnd * 2097152 + boolCode sat * 1048576

/-- A CSR number or trap code split into b and MOD (R44). -/
def csrB (n : BitVec 10) : Nat := n.toNat / 64
def csrMod (n : BitVec 10) : Nat := n.toNat % 64

/-- The words of a well-formed instruction; events of the part have none. -/
def encode : Instr → List Word32
  | .add d a y => [wd (wA 0 0 y a d 0x01 0)]
  | .addLit d a l => wd (wA 0 0 0 a d 0x01 1) :: litWords l
  | .sub d a y => [wd (wA 1 0 y a d 0x01 0)]
  | .subLit d a l => wd (wA 1 0 0 a d 0x01 1) :: litWords l
  | .mul d a y => [wd (wA 2 0 y a d 0x01 0)]
  | .mulLit d a l => wd (wA 2 0 0 a d 0x01 1) :: litWords l
  | .mulh d a y => [wd (wA 3 0 y a d 0x01 0)]
  | .mulhLit d a l => wd (wA 3 0 0 a d 0x01 1) :: litWords l
  | .mulhu d a y => [wd (wA 4 0 y a d 0x01 0)]
  | .mulhuLit d a l => wd (wA 4 0 0 a d 0x01 1) :: litWords l
  | .div d a y => [wd (wA 5 0 y a d 0x01 0)]
  | .divLit d a l => wd (wA 5 0 0 a d 0x01 1) :: litWords l
  | .divu d a y => [wd (wA 6 0 y a d 0x01 0)]
  | .divuLit d a l => wd (wA 6 0 0 a d 0x01 1) :: litWords l
  | .rem d a y => [wd (wA 7 0 y a d 0x01 0)]
  | .remLit d a l => wd (wA 7 0 0 a d 0x01 1) :: litWords l
  | .remu d a y => [wd (wA 8 0 y a d 0x01 0)]
  | .remuLit d a l => wd (wA 8 0 0 a d 0x01 1) :: litWords l
  | .and d a y => [wd (wA 9 0 y a d 0x01 0)]
  | .andLit d a l => wd (wA 9 0 0 a d 0x01 1) :: litWords l
  | .or d a y => [wd (wA 10 0 y a d 0x01 0)]
  | .orLit d a l => wd (wA 10 0 0 a d 0x01 1) :: litWords l
  | .xor d a y => [wd (wA 11 0 y a d 0x01 0)]
  | .xorLit d a l => wd (wA 11 0 0 a d 0x01 1) :: litWords l
  | .shl d a y => [wd (wA 12 0 y a d 0x01 0)]
  | .shlLit d a l => wd (wA 12 0 0 a d 0x01 1) :: litWords l
  | .shr d a y => [wd (wA 13 0 y a d 0x01 0)]
  | .shrLit d a l => wd (wA 13 0 0 a d 0x01 1) :: litWords l
  | .sra d a y => [wd (wA 14 0 y a d 0x01 0)]
  | .sraLit d a l => wd (wA 14 0 0 a d 0x01 1) :: litWords l
  | .min d a y => [wd (wA 15 0 y a d 0x01 0)]
  | .minLit d a l => wd (wA 15 0 0 a d 0x01 1) :: litWords l
  | .max d a y => [wd (wA 16 0 y a d 0x01 0)]
  | .maxLit d a l => wd (wA 16 0 0 a d 0x01 1) :: litWords l
  | .minu d a y => [wd (wA 17 0 y a d 0x01 0)]
  | .minuLit d a l => wd (wA 17 0 0 a d 0x01 1) :: litWords l
  | .maxu d a y => [wd (wA 18 0 y a d 0x01 0)]
  | .maxuLit d a l => wd (wA 18 0 0 a d 0x01 1) :: litWords l
  | .cmpeq d a y => [wd (wA 19 0 y a d 0x01 0)]
  | .cmpeqLit d a l => wd (wA 19 0 0 a d 0x01 1) :: litWords l
  | .cmplt d a y => [wd (wA 20 0 y a d 0x01 0)]
  | .cmpltLit d a l => wd (wA 20 0 0 a d 0x01 1) :: litWords l
  | .cmpltu d a y => [wd (wA 21 0 y a d 0x01 0)]
  | .cmpltuLit d a l => wd (wA 21 0 0 a d 0x01 1) :: litWords l
  | .clz d a => [wd (wA 22 0 0 a d 0x01 0)]
  | .popc d a => [wd (wA 23 0 0 a d 0x01 0)]
  | .sel d a y c => [wd (wA 24 c y a d 0x01 0)]
  | .selLit d a c l => wd (wA 24 c 0 a d 0x01 1) :: litWords l
  | .addi d a i => [wd (wI i.toNat a d 0x05 0)]
  | .addiLit d a l => wd (wI 0 a d 0x05 1) :: litWords l
  | .andi d a i => [wd (wI i.toNat a d 0x06 0)]
  | .andiLit d a l => wd (wI 0 a d 0x06 1) :: litWords l
  | .ori d a i => [wd (wI i.toNat a d 0x07 0)]
  | .oriLit d a l => wd (wI 0 a d 0x07 1) :: litWords l
  | .xori d a i => [wd (wI i.toNat a d 0x08 0)]
  | .xoriLit d a l => wd (wI 0 a d 0x08 1) :: litWords l
  | .li d i => [wd (wI i.toNat 0 d 0x0C 0)]
  | .liLit d l => wd (wI 0 0 d 0x0C 1) :: litWords l
  | .shli d a n => [wd (wI n 0 0 0x09 0 + a * 4096 + d * 256)]
  | .shri d a n => [wd (wI n 0 0 0x0A 0 + a * 4096 + d * 256)]
  | .srai d a n => [wd (wI n 0 0 0x0B 0 + a * 4096 + d * 256)]
  | .bext d a p w => [wd (wA p w 0 a d 0x03 0)]
  | .bins d a p w => [wd (wA p w 0 a d 0x04 0)]
  | .lea d i => [wd (wI i.toNat 0 d 0x0D 0)]
  | .leaLit d l => wd (wI 0 0 d 0x0D 1) :: litWords l
  | .b t w => [wd (wB t.toNat w 0 0 0 0x10 0)]
  | .bLit t => wd (wB 0 0 0 0 0 0x10 1) :: litWords t
  | .bc c a y t w => [wd (wB t.toNat w y a (condCode c) 0x10 0)]
  | .bcLit c a y t => wd (wB 0 0 y a (condCode c) 0x10 1) :: litWords t
  | .call l t w => [wd (wB t.toNat w 0 0 l 0x11 0)]
  | .callLit l t => wd (wB 0 0 0 0 l 0x11 1) :: litWords t
  | .callr d a => [wd (wA 0 0 0 a d 0x12 0)]
  | .ret a => [wd (wA 1 0 0 a 0 0x12 0)]
  | .done => [wd (wA 2 0 0 0 0 0x12 0)]
  | .cont a t w => [wd (wB t.toNat w 0 a 0 0x13 0)]
  | .contLit a t => wd (wB 0 0 0 a 0 0x13 1) :: litWords t
  | .nput a r => [wd (wA 0 (dirCode r) 0 a 0 0x14 0)]
  | .nget d r => [wd (wA 1 (dirCode r) 0 0 d 0x14 0)]
  | .send d a y n => [wd (wA 0 n y a d 0x15 0)]
  | .sendLit d a n l => wd (wA 0 n 0 a d 0x15 1) :: litWords l
  | .ldl d a z o => [wd (wM (loadSizeCode z) o.toNat a d 0x18)]
  | .stl d a z o => [wd (wM (storeSizeCode z) o.toNat a d 0x19)]
  | .ldlV v a n => [wd (wV 0 n a v 0x1A 0)]
  | .ldlVLit v a l => wd (wV 0 0 a v 0x1A 1) :: litWords l
  | .stlV v a n => [wd (wV 1 n a v 0x1A 0)]
  | .stlVLit v a l => wd (wV 1 0 a v 0x1A 1) :: litWords l
  | .ldp d a y z => [wd (wA 0 (loadSizeCode z) y a d 0x1B 0)]
  | .ldpLit d a z l => wd (wA 0 (loadSizeCode z) 0 a d 0x1B 1) :: litWords l
  | .stp d a y z => [wd (wA 1 (storeSizeCode z) y a d 0x1B 0)]
  | .stpLit d a z l => wd (wA 1 (storeSizeCode z) 0 a d 0x1B 1) :: litWords l
  | .stpN d a y k => [wd (wA 2 (boolCode k) y a d 0x1B 0)]
  | .stpNLit d a k l => wd (wA 2 (boolCode k) 0 a d 0x1B 1) :: litWords l
  | .amol o z r d a y => [wd (wA 0 (atomMod o z r) y a d 0x1C 0)]
  | .amolLit o z r d a l => wd (wA 0 (atomMod o z r) 0 a d 0x1C 1) :: litWords l
  | .qbindC h d a y => [wd (wA 0 h y a d 0x1D 0)]
  | .qbindP h d a => [wd (wA 0 (h + 8) 0 a d 0x1D 0)]
  | .qwait h d => [wd (wA 1 h 0 0 d 0x1D 0)]
  | .qadv h => [wd (wA 2 h 0 0 0 0x1D 0)]
  | .qres h d => [wd (wA 3 h 0 0 d 0x1D 0)]
  | .qpub h d a => [wd (wA 4 h 0 a d 0x1D 0)]
  | .qeos h => [wd (wA 5 h 0 0 0 0x1D 0)]
  | .cpy d a y s t => [wd (wA 0 0 y a d 0x20 2), wd (copyX1 s t 0), wd 0]
  | .cpyBar d a y s t h o => [wd (wA 1 0 y a d 0x20 2), wd (copyX1 s t 0), wd (h.toNat * 65536 + o.toNat)]
  | .cgat d a y s t i => [wd (wA 2 0 y a d 0x20 2), wd (copyX1 s t i.toNat), wd 0]
  | .cscat d a y s t i => [wd (wA 3 0 y a d 0x20 2), wd (copyX1 s t i.toNat), wd 0]
  | .cwait d a => [wd (wA 0 0 0 a d 0x21 0)]
  | .cpoll d a => [wd (wA 1 0 0 a d 0x21 0)]
  | .ldg d a z o => [wd (wM (loadSizeCode z) o.toNat a d 0x24)]
  | .stg d a z o => [wd (wM (storeSizeCode z) o.toNat a d 0x25)]
  | .ldgV v a n => [wd (wV 0 n a v 0x26 0)]
  | .ldgVLit v a l => wd (wV 0 0 a v 0x26 1) :: litWords l
  | .stgV v a n => [wd (wV 1 n a v 0x26 0)]
  | .stgVLit v a l => wd (wV 1 0 a v 0x26 1) :: litWords l
  | .gred v a n => [wd (wV 2 n a v 0x26 0)]
  | .gredLit v a l => wd (wV 2 0 a v 0x26 1) :: litWords l
  | .amo o z r d a y => [wd (wA 0 (atomMod o z r) y a d 0x27 0)]
  | .amoLit o z r d a l => wd (wA 0 (atomMod o z r) 0 a d 0x27 1) :: litWords l
  | .pref a y => [wd (wA 1 0 y a 0 0x27 0)]
  | .prefLit a l => wd (wA 1 0 0 a 0 0x27 1) :: litWords l
  | .rset d a g f r sp tr u n =>
      [wd (wA 0 0 0 a d 0x28 2),
       wd (g.toNat * 65536 + f * 4096 + dirCode r * 1024 + boolCode sp * 512 + boolCode tr * 256 + u.toNat), wd n]
  | .rfeed d a y g f r k t r0 m =>
      [wd (wA 0 0 y a d 0x29 2), wd (g.toNat * 65536 + f * 4096 + dirCode r * 1024),
       wd (k.toNat * 1048576 + t * 262144 + r0 * 16384 + m * 1024)]
  | .tarm d wide k t r0 m ovw =>
      [wd (wA 0 0 0 0 d 0x2B 2), wd (boolCode wide * 512),
       wd (k.toNat * 1048576 + t * 262144 + r0 * 16384 + m * 1024 + boolCode ovw * 512)]
  | .rstat d r => [wd (wA 0 (dirCode r) 0 0 d 0x2A 0)]
  | .rcancel r => [wd (wA 1 (dirCode r) 0 0 0 0x2A 0)]
  | .rcancelArm t => [wd (wA 1 (t + 4) 0 0 0 0x2A 0)]
  | .pload d a y r => [wd (wA 0 (dirCode r) y a d 0x2C 0)]
  | .pnnz d a r => [wd (wA 1 (dirCode r) 0 a d 0x2C 0)]
  | .tcfg t ty z => [wd (wA 0 (tileTypeCode ty * 4 + t) (boolCode z) 0 0 0x2D 0)]
  | .tzero t => [wd (wA 1 t 0 0 0 0x2D 0)]
  | .tdrain d a y t f1 f2 r1 r2 s1 s2 =>
      [wd (wA 0 0 y a d 0x2E 2),
       wd (t * 1073741824 + f1 * 67108864 + f2 * 4194304 + r1 * 524288 + r2 * 65536), wd (s1.toNat * 65536 + s2.toNat)]
  | .vadd v a n => [wd (wV 0 n a v 0x2F 0)]
  | .vaddLit v a l => wd (wV 0 0 a v 0x2F 1) :: litWords l
  | .vsub v a n => [wd (wV 1 n a v 0x2F 0)]
  | .vsubLit v a l => wd (wV 1 0 a v 0x2F 1) :: litWords l
  | .vmul v a n => [wd (wV 2 n a v 0x2F 0)]
  | .vmulLit v a l => wd (wV 2 0 a v 0x2F 1) :: litWords l
  | .vfma v a n => [wd (wV 3 n a v 0x2F 0)]
  | .vfmaLit v a l => wd (wV 3 0 a v 0x2F 1) :: litWords l
  | .vmin v a n => [wd (wV 4 n a v 0x2F 0)]
  | .vminLit v a l => wd (wV 4 0 a v 0x2F 1) :: litWords l
  | .vmax v a n => [wd (wV 5 n a v 0x2F 0)]
  | .vmaxLit v a l => wd (wV 5 0 a v 0x2F 1) :: litWords l
  | .vand v a n => [wd (wV 8 n a v 0x2F 0)]
  | .vandLit v a l => wd (wV 8 0 a v 0x2F 1) :: litWords l
  | .vor v a n => [wd (wV 9 n a v 0x2F 0)]
  | .vorLit v a l => wd (wV 9 0 a v 0x2F 1) :: litWords l
  | .vxor v a n => [wd (wV 10 n a v 0x2F 0)]
  | .vxorLit v a l => wd (wV 10 0 a v 0x2F 1) :: litWords l
  | .vshl v a n => [wd (wV 11 n a v 0x2F 0)]
  | .vshlLit v a l => wd (wV 11 0 a v 0x2F 1) :: litWords l
  | .vshr v a n => [wd (wV 12 n a v 0x2F 0)]
  | .vshrLit v a l => wd (wV 12 0 a v 0x2F 1) :: litWords l
  | .vsel v a n => [wd (wV 14 n a v 0x2F 0)]
  | .vselLit v a l => wd (wV 14 0 a v 0x2F 1) :: litWords l
  | .vshuf v a n => [wd (wV 15 n a v 0x2F 0)]
  | .vshufLit v a l => wd (wV 15 0 a v 0x2F 1) :: litWords l
  | .vcmpEq v a n => [wd (wV 0 n a v 0x30 0)]
  | .vcmpEqLit v a l => wd (wV 0 0 a v 0x30 1) :: litWords l
  | .vcmpNe v a n => [wd (wV 1 n a v 0x30 0)]
  | .vcmpNeLit v a l => wd (wV 1 0 a v 0x30 1) :: litWords l
  | .vcmpLt v a n => [wd (wV 2 n a v 0x30 0)]
  | .vcmpLtLit v a l => wd (wV 2 0 a v 0x30 1) :: litWords l
  | .vcmpLe v a n => [wd (wV 3 n a v 0x30 0)]
  | .vcmpLeLit v a l => wd (wV 3 0 a v 0x30 1) :: litWords l
  | .vcmpGt v a n => [wd (wV 4 n a v 0x30 0)]
  | .vcmpGtLit v a l => wd (wV 4 0 a v 0x30 1) :: litWords l
  | .vcmpGe v a n => [wd (wV 5 n a v 0x30 0)]
  | .vcmpGeLit v a l => wd (wV 5 0 a v 0x30 1) :: litWords l
  | .vcmpUn v a n => [wd (wV 6 n a v 0x30 0)]
  | .vcmpUnLit v a l => wd (wV 6 0 a v 0x30 1) :: litWords l
  | .vabs v a => [wd (wV 6 0 a v 0x2F 0)]
  | .vneg v a => [wd (wV 7 0 a v 0x2F 0)]
  | .vmov v n => [wd (wV 13 n 0 v 0x2F 0)]
  | .vmovLit v l => wd (wV 13 0 0 v 0x2F 1) :: litWords l
  | .vredAdd v a => [wd (wV 16 0 a v 0x30 0)]
  | .vredMin v a => [wd (wV 17 0 a v 0x30 0)]
  | .vredMax v a => [wd (wV 18 0 a v 0x30 0)]
  | .vsplat v a => [wd (wV 0 0 a v 0x31 0)]
  | .vext d a l => [wd (wV 1 l a d 0x31 0)]
  | .vins v a l => [wd (wV 2 l a v 0x31 0)]
  | .vnnz d a e => [wd (wV 3 e a d 0x31 0)]
  | .vcvt v a p tf sf r sat => [wd (wV 0 p a v 0x32 2), wd (convX1 tf sf r sat), wd 0]
  | .vq v a n tf sf r sat => [wd (wV 1 n a v 0x32 2), wd (convX1 tf sf r sat), wd 0]
  | .vscale v a n f r sat => [wd (wV 2 n a v 0x32 2), wd (convX1 f f r sat), wd 0]
  | .vcord v a f n => [wd (wV 0 0 a v 0x33 2), wd (cordFnCode f * 536870912 + n * 16777216), wd 0]
  | .sopen d a s c h p =>
      [wd (wA 0 (boolCode p) 0 a d 0x34 2), wd (shapeCode s * 1073741824 + c.toNat * 4194304 + h * 524288), wd 0]
  | .ssend d a y p => [wd (wA 0 (boolCode p) y a d 0x35 0)]
  | .sclose p => [wd (wA 1 (boolCode p) 0 0 0 0x35 0)]
  | .bred o t d a y => [wd (wA 0 (redOpCode o * 8 + redTypeCode t) y a d 0x36 0)]
  | .bbar d y => [wd (wA 1 0 y 0 d 0x36 0)]
  | .bjoin d a => [wd (wA 0 0 0 a d 0x38 0)]
  | .barv d a y => [wd (wA 1 0 y a d 0x38 0)]
  | .barvLit d a l => wd (wA 1 0 0 a d 0x38 1) :: litWords l
  | .bdrop d a y => [wd (wA 2 0 y a d 0x38 0)]
  | .bdropLit d a l => wd (wA 2 0 0 a d 0x38 1) :: litWords l
  | .bexp a y => [wd (wA 3 0 y a 0 0x38 0)]
  | .bexpLit a l => wd (wA 3 0 0 a 0 0x38 1) :: litWords l
  | .bwait d a y => [wd (wA 4 0 y a d 0x38 0)]
  | .bwaitLit d a l => wd (wA 4 0 0 a d 0x38 1) :: litWords l
  | .binit a y => [wd (wA 5 0 y a 0 0x38 0)]
  | .binitLit a l => wd (wA 5 0 0 a 0 0x38 1) :: litWords l
  | .spawn d a y => [wd (wA 0 0 y a d 0x39 0)]
  | .spawnLit d a l => wd (wA 0 0 0 a d 0x39 1) :: litWords l
  | .spawnPark d a y => [wd (wA 0 1 y a d 0x39 0)]
  | .spawnParkLit d a l => wd (wA 0 1 0 a d 0x39 1) :: litWords l
  | .join d a => [wd (wA 1 0 0 a d 0x39 0)]
  | .await d a y => [wd (wA 2 0 y a d 0x39 0)]
  | .awaitLit d a l => wd (wA 2 0 0 a d 0x39 1) :: litWords l
  | .migrate d a y => [wd (wA 3 0 y a d 0x39 0)]
  | .migrateLit d a l => wd (wA 3 0 0 a d 0x39 1) :: litWords l
  | .yield d => [wd (wA 4 0 0 0 d 0x39 0)]
  | .whlAt d a y => [wd (wA 5 0 y a d 0x39 0)]
  | .whlAtLit d a l => wd (wA 5 0 0 a d 0x39 1) :: litWords l
  | .launch d a y c => [wd (wA 0 0 y a d 0x3A 2), wd (c * 268435456), wd 0]
  | .lend a => [wd (wA 0 0 0 a 0 0x3C 0)]
  | .reclaim => [wd (wA 1 0 0 0 0 0x3C 0)]
  | .hvon => [wd (wA 2 0 0 0 0 0x3C 0)]
  | .hvoff => [wd (wA 3 0 0 0 0 0x3C 0)]
  | .trap c => [wd (wA 0 (csrMod c) (csrB c) 0 0 0x3D 0)]
  | .rte d => [wd (wA 1 0 0 0 d 0x3D 0)]
  | .rteAt d a => [wd (wA 1 1 0 a d 0x3D 0)]
  | .csrr d n => [wd (wA 2 (csrMod n) (csrB n) 0 d 0x3D 0)]
  | .csrw n a => [wd (wA 3 (csrMod n) (csrB n) a 0 0x3D 0)]
  | .tlbi all s a y => [wd (wA 4 (boolCode all * 4 + scopeCode s) y a 0 0x3D 0)]
  | .tlbv all s y => [wd (wA 5 (boolCode all * 4 + scopeCode s) y 0 0 0x3D 0)]
  | .halt => [wd (wA 6 0 0 0 0 0x3D 0)]
  | .svc d a n => [wd (wA 7 n 0 a d 0x3D 0)]
  | .fence o s => [wd (wA 0 (fenceOrdCode o * 4 + scopeCode s) 0 0 0 0x3E 0)]
  | .srseedWrite .. | .rdvtoWrite .. | .hvctlWrite .. | .ebudWrite .. | .pwrstatWrite .. | .pstepWrite ..
  | .rampWrite .. | .fabmodeWrite .. | .bconfWrite .. | .trimcWrite .. | .statusWrite .. | .vflagRead ..
  | .grd .. | .gwr .. | .gat .. | .gredPacket .. | .drd .. | .dwr .. | .dat .. | .qbindConsumerDoor ..
  | .qbindProducerDoor .. | .qresDoor .. | .qpubDoor .. | .qeosDoor .. | .qwaitDoor .. | .qadvDoor ..
  | .binitDoor .. | .bjoinDoor .. | .barvDoor .. | .bdropDoor .. | .bexpDoor .. | .bwaitDoor ..
  | .barrierCredit .. | .joinDoorOp .. | .parkFrameWrite .. | .msg .. | .rdl .. | .rreq .. | .rply ..
  | .ack .. | .cwr .. | .eack .. | .rack .. | .rdef .. | .sres .. | .sopn .. | .sdat ..
  | .streamSlotPublish .. | .smrk .. | .unassignedKind .. | .trim .. | .trimmedHeader .. | .rreqSend ..
  | .tokenRefill .. | .retransmitTimeout .. | .linkReplay .. | .linkRetrain .. | .tlbWalk .. | .lineFill ..
  | .migration .. | .copyStart .. | .copyComplete .. | .copyStop .. | .drainComplete .. | .vcordComplete ..
  | .sideQueueHead .. | .latchLoaded .. | .rowStart .. | .rowComputed .. | .deliveryResend ..
  | .rdvtoTimeout .. | .laneWordArrival .. | .laneCreditReturn .. | .presenceTimeout ..
  | .sopenSetupTimeout .. | .ssendServe .. | .ssendComplete .. | .bellowsContribute ..
  | .bellowsNodeCombine .. | .bellowsResult .. | .pick .. | .hardwarePost .. | .quantumBoundary ..
  | .wheelTick .. | .launchAccept .. | .hostLaunchDoorbell .. | .launchEnd .. | .harvestPark ..
  | .harvestResume .. | .asyncFaultTake .. | .svcReply .. | .read .. | .write .. | .restart .. | .repost ..
  | .preempt .. | .permit .. | .retire .. | .teardown .. | .reset .. | .powerWindow ..
  | .throttleStepChange .. | .rampPeriod .. | .coldStart .. | .warmStart .. | .warmreq ..
  | .imageFetchRestart | .gatewayDatagram .. | .gatewayRetransmit .. | .ptpMessage .. | .pageReturn ..
  | .keyInstall .. => []

/-- The first word of an instruction, the EVAL of ILLEGAL_OP (R41). -/
def firstWord (i : Instr) : Word :=
  match encode i with
  | w :: _ => w.zeroExtend 64
  | [] => 0#64

/-- The words of a number, least significant first: `n` words. -/
def wordsOf : Nat → Nat → List Word32
  | 0, _ => []
  | n + 1, w => wd (w % 4294967296) :: wordsOf n (w / 4294967296)

/-- What the decoder reads from an instruction whose bits are `w`, numbered as spec/opcode_table.json numbers them: bit 0
is the least significant bit of the first word; words above the given bits are zero (five words is the longest form). -/
def decodeTableWord (nbits w : Nat) : Option Instr :=
  match decode (wordsOf 5 (w % 2 ^ nbits)) with
  | .ok i => some i
  | .error _ => none

end Sys2Proof
end

