-- ==== Sys2Proof/Machine/Peer.lean ====
section
/-! DEFINITION. Peer memory through doors: ldp, stp, stp.n and amol (R92, R93). What a door does with a request stands in
Sys2Proof/Machine/Door.lean. -/

namespace Sys2Proof.Machine

open Sys2Proof

/-- A peer address with its alignment: PEER_DENIED, then ALIGN (R92). -/
def peerAligned (s : State) (sum : Int) (n : Nat) : Except Stop Word := do
  let pa ← peerAddr s sum
  need (peerOff pa % n == 0) .align pa
  .ok pa

/-- A request to the door that a peer address names. -/
def doorAccess (pa : Word) (dest : Dest) (load store acq rel : Bool) (body : Body) : Access :=
  { peer := true, dest := dest, load := load, store := store, acq := acq, rel := rel, serial := false,
    home := .door (peerCore pa), dst := peerCore pa, addr := pa, body := body }

/-- ldp at `s_a + y` (R92). -/
def peerLoad (d a : SReg) (y : Except Stop Word) (sz : LoadSize) (len : Nat) (s : State) : Act := do
  let base ← readReg s a
  let off ← y
  let n := szBytes sz
  let pa ← peerAligned s ((base.toNat : Int) + off.toNat) n
  destFree s d
  orderOk s false
  let s ← issueAccess s (doorAccess pa (.reg d sz) true false false false (.drd (peerOff pa) n))
  .ok ((s.clearReg d).advance len)

/-- stp at `s_a + y` (R92). -/
def peerStore (d a : SReg) (y : Except Stop Word) (sz : StoreSize) (len : Nat) (s : State) : Act := do
  let base ← readReg s a
  let off ← y
  let n := stBytes sz
  let pa ← peerAligned s ((base.toNat : Int) + off.toNat) n
  let v ← readReg s d
  orderOk s true
  let s ← issueAccess s (doorAccess pa .none false true false false (.dwr (peerOff pa) (natLe n v.toNat)))
  .ok (s.advance len)

/-- stp.n at `s_a + y` (R92): a synchronising access (R266). -/
def peerNibble (d a : SReg) (y : Except Stop Word) (k : Bool) (len : Nat) (s : State) : Act := do
  let base ← readReg s a
  let off ← y
  let pa ← peerAligned s ((base.toNat : Int) + off.toNat) 1
  let v ← readReg s d
  orderOk s true
  let s ← issueAccess s (doorAccess pa .none true true false false (.nibble (peerOff pa) k (v.setWidth 4)))
  .ok (s.advance len)

/-- Order bits of an atomic: acquire and release (R77). -/
def ordAcq (r : AtomOrd) : Bool := r == .acq || r == .ar

/-- The release bit of an atomic. -/
def ordRel (r : AtomOrd) : Bool := r == .rel || r == .ar

/-- The operands of an atomic, read at issue: v, and the compare value of cas (R77). -/
def atomOperands (s : State) (o : AtomOp) (d : SReg) (y : Except Stop Word) : Except Stop (Word × Word) := do
  let v ← y
  let c ← if o == .cas then readReg s d else .ok 0
  .ok (v, c)

/-- Bytes of an atomic. -/
def atomBytes (dbl : Bool) : Nat := if dbl then 8 else 4

/-- amol (R93). -/
def peerAtom (o : AtomOp) (dbl : Bool) (r : AtomOrd) (d a : SReg) (y : Except Stop Word) (len : Nat) (s : State) :
    Act := do
  let base ← readReg s a
  let pa ← peerAligned s base.toNat (atomBytes dbl)
  let (v, c) ← atomOperands s o d y
  destFree s d
  orderOk s true
  let s ← issueAccess s
    { doorAccess pa (.reg d .d) true true (ordAcq r) (ordRel r) (.dat (peerOff pa) (.atom o dbl v c)) with mod_ := atomMod o dbl r }
  .ok ((s.clearReg d).advance len)

/-- ldp (R92). -/
def execLdp (d a b : SReg) (sz : LoadSize) (s : State) : Host.Outcome State Fault Refusal :=
  finish s (peerLoad d a (readReg s b) sz 1 s)

/-- ldp, literal form (R92, R24). -/
def execLdpLit (d a : SReg) (sz : LoadSize) (lit : Word) (s : State) : Host.Outcome State Fault Refusal :=
  finish s (peerLoad d a (.ok lit) sz 3 s)

/-- stp (R92). -/
def execStp (d a b : SReg) (sz : StoreSize) (s : State) : Host.Outcome State Fault Refusal :=
  finish s (peerStore d a (readReg s b) sz 1 s)

/-- stp, literal form (R92, R24). -/
def execStpLit (d a : SReg) (sz : StoreSize) (lit : Word) (s : State) : Host.Outcome State Fault Refusal :=
  finish s (peerStore d a (.ok lit) sz 3 s)

/-- stp.n (R92). -/
def execStpN (d a b : SReg) (k : Bool) (s : State) : Host.Outcome State Fault Refusal :=
  finish s (peerNibble d a (readReg s b) k 1 s)

/-- stp.n, literal form (R92, R24). -/
def execStpNLit (d a : SReg) (k : Bool) (lit : Word) (s : State) : Host.Outcome State Fault Refusal :=
  finish s (peerNibble d a (.ok lit) k 3 s)

/-- amol (R93); its load form reads no operand (R77). -/
def execAmol (o : AtomOp) (dbl : Bool) (r : AtomOrd) (d a b : SReg) (s : State) : Host.Outcome State Fault Refusal :=
  finish s (peerAtom o dbl r d a (if o == .ld then .ok 0 else readReg s b) 1 s)

/-- amol, literal form (R93, R24). -/
def execAmolLit (o : AtomOp) (dbl : Bool) (r : AtomOrd) (d a : SReg) (lit : Word) (s : State) :
    Host.Outcome State Fault Refusal :=
  finish s (peerAtom o dbl r d a (.ok lit) 3 s)

end Sys2Proof.Machine
end

