-- ==== Sys2Proof/Machine/Router.lean ====
section
/-! DEFINITION. Routers: the header and payload of a packet (R232..R234), the choice of an output (R231), the queues and the arbitration of
an output (R230), trimming at a queue (R236), and the groups of flits that a link checks and replays (R239, R240). -/

namespace Sys2Proof.Machine

open Sys2Proof

/-! ### A packet's flits (R232..R234) -/

/-- Flits of `n` bytes (R232). -/
def flitsOf (n : Nat) : Nat := (n + 31) / 32

/-- Code of a tile type as a lane type (R78). -/
def laneCode : TileType → Nat
  | .f32 => 0
  | .f16 => 1
  | .bf16 => 2
  | .i32 => 3
  | .i16 => 4
  | .i8 => 5

/-- SZ code of a plain access of `n` bytes (R23); a row is 0b111 (R234). -/
def szCode (n : Nat) : Nat := if n == 1 then 0 else if n == 2 then 1 else if n == 4 then 2 else if n == 8 then 3 else 7

/-- Payload bytes of a door operation (R234: as GAT). -/
def DoorOp.payload : DoorOp → List Byte
  | .atom .cas _ _ c => natLe 32 c.toNat
  | _ => []

/-- Payload bytes of a packet (R234). What a value of up to 8 bytes carries stands in DATA. -/
def Body.payload : Body → List Byte
  | .gwr _ data => if 8 < data.length then data else []
  | .gat _ .cas _ _ c => natLe 32 c.toNat
  | .gred _ _ bits => natLe 64 bits.toNat
  | .dat _ op => op.payload
  | .park _ r => r.bytes
  | .msg _ vals => (List.range 4).flatMap (fun k => natLe 8 (vals.getD k 0).toNat)
  | .rdl d => natLe (if d.wide then 256 else 64) (d.lanes.foldr (fun x n => x.toNat + 2 ^ 32 * n) 0)
  | .rply (.data bs) => if 8 < bs.length then bs else []
  | .cwr _ _ _ data => data
  | .sdat _ _ _ _ data => data
  | _ => []

/-- LEN: payload flits (R232, R233). -/
def Body.len (b : Body) : Nat := flitsOf b.payload.length

/-- KIND (R234). -/
def Body.kind : Body → Nat
  | .grd .. | .line .. => 0x01
  | .gwr .. => 0x02
  | .gat .. | .mark .. => 0x03
  | .gred .. => 0x04
  | .drd .. => 0x05
  | .dwr .. | .nibble .. => 0x06
  | .dat .. | .park .. => 0x07
  | .msg .. => 0x08
  | .rdl _ => 0x09
  | .rreq .. => 0x0A
  | .rply _ => 0x10
  | .ack _ => 0x11
  | .cwr .. => 0x12
  | .eack .. => 0x20
  | .rack .. => 0x21
  | .rdef .. => 0x22
  | .sres .. => 0x23
  | .sopn .. => 0x30
  | .sdat .. => 0x31
  | .smrk .. => 0x32
  | .unknown k => k.toNat

/-- ADDR (R233): the physical, peer or handler address, or the reed. -/
def Packet.addr (p : Packet) : Nat :=
  match p.body with
  | .grd g _ _ | .line g _ | .mark g _ _ | .gwr g _ | .gat g _ _ _ _ | .gred g _ _ => g.pa
  | .drd off _ | .dwr off _ | .nibble off _ _ | .dat off _ | .park off _ => p.dst * 65536 + off
  | .cwr (.door d) off _ _ => d * 65536 + off
  | .cwr (.die _) _ g _ => g.pa
  | .cwr (.far d) off _ _ => 0x7F0000000000 + d * 2 ^ 32 + off
  | .msg h _ => h.toNat
  | .rdl d => d.reed
  | .rack reed _ | .rdef reed _ => reed
  | _ => 0

/-- Number of a door operation (R234): R259 lists the barriers'; no rule lists the others', and theirs are values left open (log 144). -/
def DoorOp.number : DoorOp → Nat
  | .bjoin => 0x10
  | .barv _ => 0x11
  | .bdrop _ => 0x12
  | .bexp _ => 0x13
  | .bwait _ => 0x14
  | .binit _ => 0x15
  | .credit _ => 0x16
  | .atom .. => Config.freeNat 0
  | .bindC _ => Config.freeNat 1
  | .bindP => Config.freeNat 2
  | .qwait => Config.freeNat 3
  | .qadv => Config.freeNat 4
  | .qres _ => Config.freeNat 5
  | .qpub .. => Config.freeNat 6
  | .qeos _ => Config.freeNat 7
  | .join => Config.freeNat 8

/-- ARG (R234) but for the MOD field of a GAT or DAT, which its packet has. -/
def Body.arg : Body → Nat
  | .grd _ n _ => szCode n * 2 ^ 23
  | .line .. => 7 * 2 ^ 23
  | .gwr _ data => szCode data.length * 2 ^ 23
  | .gred _ ty _ => laneCode ty * 2 ^ 22
  | .drd _ n => szCode n * 2 ^ 23
  | .dwr _ data => szCode data.length * 2 ^ 23
  | .nibble _ k _ => 2 ^ 22 + if k then 2 ^ 21 else 0
  | .dat _ op => op.number % 64 * 2 ^ 14
  | .park .. => Config.freeNat 9 % 64 * 2 ^ 14
  | .msg _ vals => vals.length % 8 * 2 ^ 23
  | .rdl d => d.kb % 4096 * 2 ^ 14 + d.tile.val * 2 ^ 12 + d.row % 16 * 2 ^ 8 + (if d.wide then 2 ^ 7 else 0)
      + (if d.sat then 2 ^ 6 else 0) + if d.int then 2 ^ 5 else 0
  | .rreq seq vn | .eack seq vn => seq % 65536 * 2 ^ 10 + vn % 4 * 2 ^ 8
  | .cwr _ _ _ data => data.length % 512
  | .sres _ v => v.toNat % 2 ^ 26
  | .sopn _ arg => arg
  | .sdat _ _ total _ _ => total % 8192 * 2 ^ 13
  | _ => 0

/-- DATA (R233): an inline value. -/
def Body.inl : Body → Nat
  | .gwr _ data => if data.length ≤ 8 then leNat data else 0
  | .gat _ _ _ v _ => v.toNat
  | .dwr _ data => leNat data
  | .nibble _ _ v => v.toNat
  | .dat _ (.atom _ _ v _) | .dat _ (.qpub _ v) | .dat _ (.binit v) | .dat _ (.barv v) | .dat _ (.bdrop v) | .dat _ (.bexp v)
  | .dat _ (.bwait v) => v.toNat
  | .dat _ (.credit n) => n
  | .rply (.data bs) => if bs.length ≤ 8 then leNat bs else 0
  | .rply (.val v) | .rply (.bound v ..) => v.toNat
  | _ => 0

/-- The flow whose number a packet bears: a trimmed header's is its packet's (R237). -/
def Packet.flowVn (p : Packet) : Nat := if p.trim then 2 else p.vn

/-- An end of a packet as the header names it: the crust by the gateway's core of the loaf at the other end (R233, R244). -/
def endName (a other : Nat) : Nat := if isSvc a then gatewayCore (loafOf other) else a

/-- ARG of a packet: MOD stands above a GAT's or DAT's other fields (R234). -/
def Packet.arg (p : Packet) : Nat := p.body.arg + p.mod_.toNat * 2 ^ 20

/-- The header flit (R233). -/
def Packet.header (p : Packet) : BitVec 256 :=
  let b (x : Bool) (i : Nat) : Nat := if x then 2 ^ i else 0
  BitVec.ofNat 256 (endName p.dst p.src % 32768 * 2 ^ 241 + endName p.src p.dst % 32768 * 2 ^ 226 + p.vn % 4 * 2 ^ 224 + b p.trim 223 + b p.retx 222
    + b p.ord 221 + b p.e 220 + p.body.len % 16 * 2 ^ 216 + p.body.kind % 64 * 2 ^ 210 + p.seq % 65536 * 2 ^ 194
    + p.iseq.toNat * 2 ^ 178 + p.tag.toNat * 2 ^ 170 + p.launch % 65536 * 2 ^ 154 + p.addr % 2 ^ 64 * 2 ^ 90
    + p.arg % 2 ^ 26 * 2 ^ 64 + p.body.inl % 2 ^ 64)

/-- Payload flit `i`: byte b lies in flit b ≫ 5 at bits 8·(b & 31) (R232). -/
def Body.flit (b : Body) (i : Nat) : BitVec 256 := BitVec.ofNat 256 (leNat ((b.payload.drop (32 * i)).take 32))

/-- The flits that a packet puts on a link: its header, and its payload unless that was cut. -/
def Packet.flits (p : Packet) : Nat := 1 + if p.trim then 0 else p.body.len

/-! ### Outputs (R230, R231) -/

/-- The router at which a packet leaves the mesh: its destination's, or for the crust the gateway of the loaf it is in (R244). -/
def exitRouter (cn : Nat) (p : Packet) : Nat := if isSvc p.dst then gatewayCore (loafOf cn) else p.dst

/-- The port of its last router: the core's, the base die's, or the gateway (R244, R369). -/
def exitPort (p : Packet) : Nat :=
  if isSvc p.dst then 6
  else match p.place with
    | some (.die _, _) => 5
    | _ => 4

/-- The direction that reduces the distance in x, if any, and that in y (R231). -/
def stepX (cn d : Nat) : Option Dir := if xOf cn < xOf d then some .e else if xOf d < xOf cn then some .w else none

/-- The direction that reduces the distance in y, if any (R231). -/
def stepY (cn d : Nat) : Option Dir := if yOf cn < yOf d then some .n else if yOf d < yOf cn then some .s else none

/-- Flits of one virtual network that wait in the queue of an output: the adaptive ones, or those of the escape channel. -/
def queued (s : State) (cn port vn : Nat) (esc : Bool) : Nat :=
  s.net.foldl (fun n p => match p.at_ with
    | .queue c q left => if c == cn && q == port && p.vn == vn && p.esc == esc then n + left else n
    | .router .. | .arrived => n) 0

/-- Flits that a queue holds: 32 on VN2 (R236); the others' sizes are left open, and hold one packet at least. -/
def queueSize (vn : Nat) : Nat := if vn == 2 then 32 else 9 + Config.queueExtra vn

/-- A queue has room for a packet. -/
def hasRoom (s : State) (cn port : Nat) (p : Packet) (esc : Bool) : Bool :=
  queued s cn port p.vn esc + p.flits ≤ queueSize p.vn

/-- The output that a packet at a router takes (R231): dimension-ordered, or for VN1 and VN2 the less occupied of the directions that reduce
its distance, X on a tie. -/
def chosenPort (s : State) (cn : Nat) (p : Packet) : Nat :=
  let d := exitRouter cn p
  match stepX cn d, stepY cn d with
  | none, none => exitPort p
  | some x, none => dirNum x
  | none, some y => dirNum y
  | some x, some y =>
    if (p.vn == 1 || p.vn == 2) && !p.esc && queued s cn (dirNum y) p.vn false < queued s cn (dirNum x) p.vn false then dirNum y
    else dirNum x

/-- The output of the escape channel: X then Y (R231). -/
def escapePort (cn : Nat) (p : Packet) : Nat :=
  let d := exitRouter cn p
  match stepX cn d, stepY cn d with
  | none, none => exitPort p
  | some x, _ => dirNum x
  | none, some y => dirNum y

/-- A packet's header meets an output whose VN2 queue holds 24 flits or more (R236). -/
def mustTrim (s : State) (cn : Nat) (p : Packet) : Bool :=
  p.e && p.vn == 2 && !p.trim && p.body.len != 0 && 24 ≤ queued s cn (chosenPort s cn p) 2 false

/-- A packet moves: it stands last of those that are where it goes, so that the packets of one input or queue keep their order. -/
def State.move (s : State) (p : Packet) : State := { s with net := s.net.filter (fun q => q.id != p.id) ++ [p] }

/-- Two packets stand in one buffer of an input: each virtual network and each escape channel has its own (R230, R231), and each stream its
own channel of VN3 (R245). -/
def oneBuffer (p q : Packet) : Bool := q.vn == p.vn && q.esc == p.esc && q.body.streamOf == p.body.streamOf

/-- A packet that came into the same buffer before is still at the router (R230: buffers keep their order). -/
def behind (s : State) (p : Packet) : Bool :=
  (s.net.takeWhile (fun q => q.id != p.id)).any (fun q => q.at_ == p.at_ && oneBuffer p q)

/-! ### Streams' links (R245) -/

/-- A stream by number. -/
def State.stream (s : State) (n : Nat) : Option Stream := s.streams.find? (fun x => x.id == n)

/-- A change of a stream. -/
def State.modStream (s : State) (n : Nat) (f : Stream → Stream) : State :=
  { s with streams := updWhere (fun x => x.id == n) f s.streams }

/-- A link's VN3 channel is held by another stream. -/
def linkHeld (s : State) (me l : Nat) : Bool :=
  s.streams.any (fun x => x.id != me && ((x.path.take x.reserved).drop x.released).contains l)

/-- A set-up waits at a reserved link, or has waited there (R248). -/
def Stream.waitAt (x : Stream) (now : Nat) (held : Bool) : Stream :=
  if held then { x with since := some (x.since.getD now) }
  else { x with waited := x.waited + (x.since.map (now - ·)).getD 0, since := none }

/-- What the next link means to a packet: a set-up's link that another stream holds keeps it where it is, and its wait counts. -/
def atLink (s : State) (p : Packet) (port l : Nat) : State × Bool :=
  match p.body with
  | .sopn n _ =>
    if port < 4 then
      let held := linkHeld s n l
      (s.modStream n (fun x => x.waitAt s.now held), held)
    else (s, false)
  | _ => (s, false)

/-- A set-up that takes a link reserves it (R245). -/
def reserveLink (s : State) (p : Packet) (port : Nat) : State :=
  match p.body with
  | .sopn n _ => if port < 4 then s.modStream n (fun x => { x with reserved := x.reserved + 1 }) else s
  | _ => s

/-- A close marker that has passed a link releases it (R245). -/
def releaseLink (s : State) (p : Packet) (port : Nat) : State :=
  match p.body with
  | .smrk n _ => if port < 4 then s.modStream n (fun x => { x with released := x.released + 1 }) else s
  | _ => s

/-- A packet at a router enters the queue of its output; where no adaptive queue has room it enters the escape channel, which it then
keeps (R231). A set-up reserves the link it takes, and waits at one that another stream has reserved (R245). -/
def routePacket (s : State) (k : Nat) : State :=
  match s.pkt k with
  | none => s
  | some p =>
    match p.at_ with
    | .router cn _ =>
      if behind s p || mustTrim s cn p then s
      else
        let q := chosenPort s cn p
        let e := escapePort cn p
        let (s, held) := atLink s p q (outNo cn q)
        if held then s
        else if !p.esc && hasRoom s cn q p false then (reserveLink s p q).move { p with at_ := .queue cn q p.flits }
        else if (p.vn == 1 || p.vn == 2) && hasRoom s cn e p true then
          s.move { p with at_ := .queue cn e p.flits, esc := true }
        else s
    | .queue .. | .arrived => s

/-! ### Trimming (R236) -/

/-- TRIM (R236): the payload is dropped, the header goes on on VN0, and the output counts. -/
def execTrim (k : Nat) (s : State) : Host.Outcome State Fault Refusal :=
  .next (match s.pkt k with
    | none => s
    | some p =>
      match p.at_ with
      | .router cn _ =>
        if !behind s p && mustTrim s cn p then
          (s.modOut (outNo cn (chosenPort s cn p)) (fun l => { l with trims := (l.trims + 1) % 2 ^ 32 })).move
            { p with trim := true, vn := 0 }
        else s
      | .queue .. | .arrived => s)

/-! ### Links (R230, R239, R240) -/

/-- Where an output leads: the next router, or the packet's destination. -/
def leadsTo (cn port : Nat) : Where :=
  let at_ (d : Dir) : Where := match nbr cn d with
    | some m => .router m (outNo cn port)
    | none => .arrived
  if port == 0 then at_ .e else if port == 1 then at_ .w else if port == 2 then at_ .n else if port == 3 then at_ .s else .arrived

/-- The packets of a virtual network of which an output may send a flit next: the one it has begun, else the first of the escape channel,
before the first of the adaptive queue (R230, R231; log 160). -/
def headsOf (s : State) (cn port vn : Nat) : List Packet :=
  let qs := s.net.filter (fun p => p.vn == vn && (match p.at_ with
    | .queue c q left => c == cn && q == port && left != 0
    | .router .. | .arrived => false))
  match qs.find? (fun p => match p.at_ with
      | .queue _ _ left => left != p.flits
      | .router .. | .arrived => false) with
  | some p => [p]
  | none => (qs.filter (·.esc)).take 1 ++ (qs.filter (!·.esc)).take 1

/-- The input buffer at an output's far end has room for a packet's flits; its size is left open, and holds one packet at least. -/
def farRoom (s : State) (cn port : Nat) (p : Packet) : Bool :=
  let far := leadsTo cn port
  far == .arrived ||
    (s.net.foldl (fun n q => if q.at_ == far && oneBuffer p q then n + q.flits else n) 0) + p.flits ≤ 9 + Config.inputExtra p.vn

/-- The packet that an output serves: VN0 first, then VN1 to VN3 in turn after the one served last (R230). -/
def served (s : State) (cn port last : Nat) : Option Packet :=
  let ready (vn : Nat) : Option Packet := (headsOf s cn port vn).find? (farRoom s cn port)
  match ready 0 with
  | some p => some p
  | none => (List.range 3).findSome? (fun i => ready ((last + i) % 3 + 1))

/-- The receiver takes the group that it has checked: a packet whose last flit is through goes on (R239). -/
def acceptGroup (s : State) (cn port : Nat) : State :=
  let l := s.output (outNo cn port)
  let s := s.modOut (outNo cn port) (fun l => { l with check := [] })
  (l.check.eraseDups).foldl (fun s k => match s.pkt k with
    | some p =>
      if p.at_ == .queue cn port 0 && !l.group.contains k then (releaseLink s p port).move { p with at_ := leadsTo cn port } else s
    | none => s) s

/-- A flit of packet `k` goes over an output: it joins the group, which ends with its fourth flit or a packet's last (R239). -/
def sendFlit (s : State) (cn port k : Nat) (last : Bool) : State :=
  s.modOut (outNo cn port) (fun l =>
    let g := l.group ++ [k]
    if last || g.length == 4 then { l with group := [], check := g } else { l with group := g })

/-- The flit that a replay or the arbitration gives an output, in its order (R230, R239). -/
def flitMove (s : State) (cn port : Nat) : State :=
  let o := outNo cn port
  let step (s : State) (p : Packet) : State :=
    match p.at_ with
    | .queue c q left =>
      let s := { s with net := updWhere (fun x => x.id == p.id) (fun x => { x with at_ := .queue c q (left - 1) }) s.net }
      sendFlit s cn port p.id (left == 1)
    | .router .. | .arrived => s
  match (s.output o).replay with
  | k :: rest =>
    let s := s.modOut o (fun l => { l with replay := rest })
    (match s.pkt k with
     | some p => step s p
     | none => s)
  | [] =>
    match served s cn port (s.output o).last with
    | some p => step (s.modOut o (fun l => { l with last := if p.vn == 0 then l.last else p.vn })) p
    | none => s

/-- An output's slot (R230, R239, R240): the checked group is accepted, and one flit is sent; at half width a flit takes two cycles, and
while a retrain is due none moves. -/
def flitTurn (s : State) (cn port : Nat) : State :=
  let o := outNo cn port
  let l := s.output o
  if s.now < l.next || l.due then s
  else
    let s := acceptGroup s cn port
    flitMove (s.modOut o (fun l => { l with next := s.now + if l.half then 2 else 1 })) cn port

/-- Cycles within which CRC failures of a link are counted (R240). -/
def failSpan : Nat := 1000000

/-- A link on the grid. -/
def linkOn (cn : Nat) (r : Dir) : Bool := (nbr cn r).isSome

/-- A change of a link. -/
def State.modLink (s : State) (cn : Nat) (r : Dir) (f : Link → Link) : State := s.modOut (outNo cn (dirNum r)) f

/-- LINK_REPLAY (R239): the receiver's CRC of a group fails, and the sender replays it from its first flit, which no endpoint sees; the
16th failure within 10^6 cycles makes a retrain due (R240). -/
def execLinkReplay (cn : Nat) (r : Dir) (s : State) : Host.Outcome State Fault Refusal :=
  .next (
    let l := s.link cn r
    if linkOn cn r && !l.check.isEmpty then
      let back (s : State) (k : Nat) : State :=
        { s with net := updWhere (fun p => p.id == k) (fun p => match p.at_ with
            | .queue c q left => { p with at_ := .queue c q (left + 1) }
            | .router .. | .arrived => p) s.net }
      let fails := l.fails.filter (fun t => s.now < t + failSpan) ++ [s.now]
      (l.check.foldl back s).modLink cn r (fun l =>
        { l with fails := fails, replays := l.replays + 1, due := l.due || (!l.half && 16 ≤ fails.length), check := [],
                 replay := l.check ++ l.group ++ l.replay, group := [] })
    else s)

/-- LINK_RETRAIN (R240): the link goes to half width, which is reported. -/
def execLinkRetrain (cn : Nat) (r : Dir) (s : State) : Host.Outcome State Fault Refusal :=
  .next (
    let l := s.link cn r
    if l.due && !l.half then
      report (s.modLink cn r (fun l => { l with half := true, due := false })) (loafOf cn) 4 cn false 0 0 0 0 0 0
    else s)

end Sys2Proof.Machine
end

