-- ==== Sys2Proof/Machine/Copy.lean ====
section
/-! DEFINITION. The copy engine: layout records (R94, R95), issue of copies (R96, R97, R100, R101), the movement of elements, which
behave as if moved one at a time in copy order (R98, R99), cwait and cpoll (R102), and what a gateway gathers (R367). -/

namespace Sys2Proof.Machine

open Sys2Proof

/-! ### Layout records (R94, R95) -/

/-- The fields of a 48-byte record. -/
def LRec.ofNum (n : Nat) : LRec :=
  { base := bitsOf n 0 64, strides := (List.range 4).map (fun i => sgn 32 (bitsOf n (64 + 32 * i) 32)),
    exts := (List.range 4).map (fun i => bitsOf n (192 + 16 * i) 16), skip := bitsOf n 256 32,
    lesize := bitsOf n 288 8 }

/-- Element size in bytes. -/
def LRec.esize (r : LRec) : Nat := 2 ^ r.lesize

/-- N, the elements of a record. -/
def LRec.count (r : LRec) : Nat := r.exts.foldl (· * ·) 1

/-- Elements SKIP..N − 1; negative where SKIP exceeds N. -/
def LRec.span (r : LRec) : Int := (r.count : Int) - r.skip

/-- Sum of index times stride from dimension 0 outward. -/
def strideSum : List Nat → List Int → Nat → Int
  | e :: es, t :: ts, j => (if es.isEmpty then (j : Int) else (j % e : Nat)) * t + strideSum es ts (j / e)
  | _, _, _ => 0

/-- Addr(j), exact. -/
def LRec.addr (r : LRec) (j : Nat) : Int := r.base + strideSum r.exts r.strides j

/-- The first and last byte of the box of all elements; none where there is no element. -/
def LRec.hull (r : LRec) : Option (Int × Int) :=
  if r.count == 0 then none
  else
    let ends := List.zipWith (fun (e : Nat) (t : Int) => ((e : Int) - 1) * t) r.exts r.strides
    some ((r.base : Int) + (ends.filter (· < 0)).foldl (· + ·) 0,
      (r.base : Int) + (ends.filter (0 < ·)).foldl (· + ·) 0 + r.esize - 1)

/-- A record passes R95 alone. -/
def recOk (off n : Nat) : Bool :=
  let r := LRec.ofNum n
  off % 16 == 0 && bitsOf n 296 88 == 0 && decide (r.lesize ≤ 6) && r.base % r.esize == 0
    && r.strides.all (fun t => t % (r.esize : Int) == 0)

/-- Elements that a copy moves (R100). -/
def copyCount (kind : CopyKind) (rs rd : LRec) : Nat :=
  match kind with
  | .plain | .bar .. | .gather _ => rd.span.toNat
  | .scatter _ => rs.span.toNat

/-! ### Issue (R95, R96, R97, R100, R101) -/

/-- The index list of a gather or scatter. -/
def CopyKind.idx : CopyKind → Option Nat
  | .gather i | .scatter i => some i
  | .plain | .bar .. => none

/-- A record that the issuing core reads at issue, after the context's own requests to its bytes (R271); an uncorrectable error is precise,
with EVAL the record's offset. -/
def readRec (s : State) (off : Word) : Except Stop (State × Nat) := do
  ownDoor s off.toNat 48
  need (lmBadIn s s.cur.core off.toNat 48).isNone .eccUncorr off
  let (s, bs) := lmRead s s.cur.core off.toNat s.myLaunch 48
  .ok (s, leNat bs)

/-- The box of a local-side record (R95, R319). -/
def localBox (s : State) (sp : Space) (r : LRec) (off : Word) : Except Stop Unit :=
  match sp, r.hull with
  | .loc, some (lo, hi) => need (areaOk s lo (hi - lo + 1).toNat) .localRange off
  | _, _ => .ok ()

/-- A peer-side record at issue (R86, R95): BASE, then the ends of the hull. -/
def peerBox (s : State) (sp : Space) (r : LRec) : Except Stop Unit :=
  match sp with
  | .peer => do
    let b := BitVec.ofNat 64 r.base
    need (peerOk s s.myLaunch b) .peerDenied b
    match r.hull with
    | some (lo, hi) => do
      need (decide (0 ≤ lo)) .peerDenied (BitVec.ofInt 64 lo)
      need (decide (hi ≤ 0x7FFFFFFF)) .peerDenied (BitVec.ofInt 64 hi)
    | none => .ok ()
  | .loc | .glob => .ok ()

/-- The index list (R100). -/
def idxBox (s : State) (kind : CopyKind) (n : Nat) : Except Stop Unit :=
  match kind.idx with
  | some i => do
    need (i % 4 == 0) .align (BitVec.ofNat 64 i)
    need (areaOk s i (4 * n)) .localRange (BitVec.ofNat 64 i)
  | none => .ok ()

/-- The barrier object of cpy.bar (R101). -/
def barBox (s : State) (kind : CopyKind) : Except Stop Unit :=
  match kind with
  | .bar home off => do
    let pa := peerOf home off
    need (peerOk s s.myLaunch pa) .peerDenied pa
    need (off % 32 == 0) .align pa
  | .plain | .gather _ | .scatter _ => .ok ()

/-- A free queue entry, and a free scoreboard entry for an operation that writes own local memory (R96, R310). -/
def engineRoom (s : State) (box : Bool) : Except Stop Unit :=
  let c := s.me
  let hv := s.cur.hv
  let queued := c.copies.filter (fun o => !o.running)
  waitFor (decide (queued.length < 2) && !(hv && queued.any (·.hv)) &&
    (!box || (decide (c.board.length < 8) && !(hv && decide (2 ≤ (c.board.filter (·.hv)).length))))) none

/-- An operation joins the engine's queue with its scoreboard entry (R96). -/
def enqueue (s : State) (work : Work) (obj : Nat) (box : Option (Nat × Nat)) : State :=
  let (s, id) := s.newId
  let hv := s.cur.hv
  let op : CopyOp :=
    { op := id, hv := hv, sup := s.ctx.mode, launch := s.myLaunch, fork := id, work := work, obj := obj, fin := 0, elems := [],
      credited := 0, credit := none, wrote := [], failed := none, running := false }
  s.modMe (fun c => { c with copies := c.copies ++ [op],
                             board := c.board ++ (match box with
                               | some (lo, hi) => [⟨id, hv, lo, hi⟩]
                               | none => []) })

/-- A copy at issue: the checks in their order, then the object's STATUS 0, then the queue (R95..R97, R100, R101). DESIGN CHOICE (log 135):
a copy to peer memory that names the issuing core itself writes by its own door and takes no scoreboard entry; R96 asks one of a copy that
writes the issuing core's own local memory, and holds no door operation by an entry. -/
def copyIssue (d a b : SReg) (src dst : Space) (kind : CopyKind) (s : State) : Act := do
  let obj ← readReg s d
  let ra ← readReg s a
  let rb ← readReg s b
  let o ← objOk s obj
  need (areaOk s ra.toNat 48) .localRange ra
  need (areaOk s rb.toNat 48) .localRange rb
  let (s, na) ← readRec s ra
  let (s, nb) ← readRec s rb
  need (recOk ra.toNat na) .copyFault ra
  need (recOk rb.toNat nb) .copyFault rb
  let rs := LRec.ofNum na
  let rd := LRec.ofNum nb
  need (rs.lesize == rd.lesize && (kind.idx.isSome || rs.span == rd.span)) .copyFault rb
  localBox s src rs ra
  localBox s dst rd rb
  idxBox s kind (copyCount kind rs rd)
  peerBox s src rs
  peerBox s dst rd
  barBox s kind
  let box : Option (Nat × Nat) := match dst, rd.hull with
    | .loc, some (lo, hi) => some (lo.toNat, hi.toNat)
    | _, _ => none
  engineRoom s box.isSome
  let s ← startObj s o
  .ok ((enqueue s (.copy kind src dst rs rd) o box).advance 3)

/-- cpy (R100). -/
def execCpy (d a b : SReg) (src dst : Space) (s : State) : Host.Outcome State Fault Refusal :=
  finish s (copyIssue d a b src dst .plain s)

/-- cpy.bar (R100, R101). -/
def execCpyBar (d a b : SReg) (src dst : Space) (bhome : BitVec 15) (boff : BitVec 16) (s : State) :
    Host.Outcome State Fault Refusal :=
  finish s (copyIssue d a b src dst (.bar bhome.toNat boff.toNat) s)

/-- cgat (R100). -/
def execCgat (d a b : SReg) (src dst : Space) (idx : BitVec 16) (s : State) : Host.Outcome State Fault Refusal :=
  finish s (copyIssue d a b src dst (.gather idx.toNat) s)

/-- cscat (R100). -/
def execCscat (d a b : SReg) (src dst : Space) (idx : BitVec 16) (s : State) : Host.Outcome State Fault Refusal :=
  finish s (copyIssue d a b src dst (.scatter idx.toNat) s)

/-! ### cwait and cpoll (R102) -/

/-- The object's value; cwait stalls while STATUS is 0. -/
def observe (d a : SReg) (wait : Bool) (s : State) : Act := do
  let off ← readReg s a
  let o ← objOk s off
  destFree s d
  orderOk s true
  ownDoor s o 8
  need (lmBadIn s s.cur.core o 8).isNone .eccUncorr off
  let (s, bs) := lmRead s s.cur.core o s.myLaunch 8
  let v := BitVec.ofNat 64 (leNat bs)
  waitFor (!wait || bitsOf v.toNat 56 8 != 0) (some 0x101)
  .ok ((s.setReg d v).advance 1)

/-- cwait (R102). -/
def execCwait (d a : SReg) (s : State) : Host.Outcome State Fault Refusal := finish s (observe d a true s)

/-- cpoll (R102). -/
def execCpoll (d a : SReg) (s : State) : Host.Outcome State Fault Refusal := finish s (observe d a false s)

/-! ### The engine (R96..R101) -/

/-- An operation of a core's engine. -/
def State.copyOp (s : State) (cn op : Nat) : Option CopyOp := (s.core cn).copies.find? (fun c => c.op == op)

/-- A change of an operation. -/
def State.modOp (s : State) (cn op : Nat) (f : CopyOp → CopyOp) : State :=
  s.modCore cn (fun c => { c with copies := updWhere (fun o => o.op == op) f c.copies })

/-- An operation retires; its scoreboard entry is freed (R96). -/
def retireOp (s : State) (cn op : Nat) : State :=
  s.modCore cn (fun c => { c with copies := c.copies.filter (fun o => o.op != op),
                                  board := c.board.filter (fun r => r.op != op) })

/-- A copy operation that runs elements in copy order; none for a drain. -/
def CopyOp.isCopy (c : CopyOp) : Bool :=
  match c.work with
  | .copy .. => true
  | .drain _ => false

/-- Elements of an operation. -/
def CopyOp.count (c : CopyOp) : Nat :=
  match c.work with
  | .copy kind _ _ rs rd => copyCount kind rs rd
  | .drain ws => ws.length

/-- Bytes of the first `n` elements (R98, R100, R228). -/
def CopyOp.bytesOf (c : CopyOp) (n : Nat) : Nat :=
  match c.work with
  | .copy _ _ _ rs _ => n * rs.esize
  | .drain ws => (ws.take n).foldl (fun k w => k + w.2.length) 0

/-- COUNT of an operation that ends now: the bytes of its elements in order, up to the one that failed (R97, R98). -/
def CopyOp.bytes (c : CopyOp) : Nat :=
  c.bytesOf (match c.failed with
    | some (f, _) => min c.fin f
    | none => c.fin)

/-- Bytes written in copy order that a cpy.bar has not credited (R101). -/
def CopyOp.owed (c : CopyOp) : Nat :=
  match c.work with
  | .copy (.bar ..) .. => c.bytes - c.credited
  | _ => 0

/-- The element that begins next. -/
def CopyOp.next (c : CopyOp) : Nat := c.fin + c.elems.length

/-- A request of an element is under way. -/
def Elem.busy (e : Elem) : Bool :=
  match e.st with
  | .reading _ | .writing .. => true
  | .fetching _ | .loaded _ | .storing .. | .done | .failed => false

/-- The write of an element has not been performed, and may yet be. -/
def Elem.unwritten (e : Elem) : Bool :=
  match e.st with
  | .reading _ | .fetching _ | .loaded _ | .storing .. | .writing .. => true
  | .done | .failed => false

/-- Every access that the issuer made before the fork has been performed (R269). -/
def forked (s : State) (cn : Nat) (hv : Bool) (fork : Nat) : Bool := !openBefore s cn hv fork .dev

/-- The leading elements that are done count as written in copy order. -/
def popDone : Nat → List Elem → Nat × List Elem
  | n, [] => (n, [])
  | n, e :: es => if e.st == .done then popDone (n + 1) es else (n, e :: es)

/-- The elements under way are changed, and those that lead are counted. -/
def CopyOp.setElems (c : CopyOp) (es : List Elem) : CopyOp :=
  let (n, es) := popDone c.fin es
  { c with fin := n, elems := es }

/-- The lowest element that failed stops an operation (R98). -/
def CopyOp.fail (c : CopyOp) (k : Nat) (e : Cause) : CopyOp :=
  { c with failed := match c.failed with
      | some (f, d) => if k < f then some (k, e) else some (f, d)
      | none => some (k, e) }

/-- The next element begins, as `x`. -/
def CopyOp.push (c : CopyOp) (x : Elem) : CopyOp := c.setElems (c.elems ++ [x])

/-- The next element fails as it begins (R98). -/
def failNext (s : State) (cn op : Nat) (e : Cause) : State :=
  s.modOp cn op (fun o => (o.fail o.next e).push ⟨0, 0, .failed⟩)

/-- An uncorrectable error that an engine meets is reported (R339). -/
def engineEcc (s : State) (cn launch : Nat) (addr : Nat) : State := reportEcc s (loafOf cn) cn launch addr

/-- Bytes from `off` on within its 16-byte unit, `n` at most: what one bank access moves (R83). -/
def unitRest (off n : Nat) : Nat := Nat.min n (16 - off % 16)

/-- Bytes of own local memory as an engine reads them (R82, R83, R281): a copy's element unit by unit. DESIGN CHOICE (log 158): the reads of
ssend, reeds and the bellows are each one step, and so is the write of a bellows result. -/
def engineLocalRead (s : State) (cn launch off n : Nat) : State × Except Cause (List Byte) :=
  if lmRace s cn off n cn launch then (s, .error .mmRace)
  else if (lmBadIn s cn off n).isSome then (engineEcc s cn launch off, .error .eccUncorr)
  else
    let (s, bs) := lmRead s cn off launch n
    (s, .ok bs)

/-- Bytes that an engine writes in own local memory (R82, R83, R279, R281). -/
def engineLocalWrite (s : State) (cn launch off : Nat) (bs : List Byte) : State × Except Cause Unit :=
  let n := bs.length
  if lmRace s cn off n cn launch then (s, .error .mmRace)
  else if (lmBadPart s cn off n).isSome then (engineEcc s cn launch off, .error .eccUncorr)
  else (lmMark (lmWrite s cn off launch bs) cn off n cn launch, .ok ())

/-- BCONF (R84): a 16-byte request of the generator to own local memory is refused by its bank in some cycles, 12 at most (R81). -/
def genRequest (s : State) (cn : Nat) : State :=
  ({ s with fresh := s.fresh + 1 }).modCore cn (fun c =>
    { c with bconf := c.bconf + BitVec.ofNat 64 (Config.freeNat s.fresh % 13) })

/-- How an engine comes by the place of a global address (R53, R58, R64): the place, a fault, or a walk to wait for. -/
inductive EnginePlace where
  | at_ (s : State) (g : GLoc)
  | fault (c : Cause)
  | wait (s : State)

/-- The window of other devices, which the engine does not translate: device and offset (R367). -/
def gatewayAt (sum : Int) : Option (Nat × Nat) :=
  if 0x7F0000000000 ≤ sum && sum < 0x800000000000 then some (bitsOf sum.toNat 32 8, bitsOf sum.toNat 0 32) else none

/-- An engine operation asks for a walk (R64). -/
def engineWalk (s : State) (cn op : Nat) (r : WalkReq) : State :=
  s.modSlice (sliceOf cn) (fun sl => { sl with walks := sl.walks ++ [⟨cn, .engine op, r, .start⟩] })

/-- The translation of an engine's element, one at a time with the other accesses of its core (R64); it never migrates (R62). -/
def engineTranslate (s : State) (cn : Nat) (c : CopyOp) (sum : Int) (n : Nat) (k : AccKind) : EnginePlace :=
  let va : Word := BitVec.ofInt 64 sum
  if !canonRange sum n then .fault .addrNoncanon
  else if va.toNat.testBit 47 && !c.sup then .fault .pageProt
  else if (s.slice (sliceOf cn)).walks.any (fun w => w.core == cn && w.req.kind != .x) then .wait s
  else match lookup s cn c.launch va k with
    | .hit e => .at_ (s.modCore cn (fun x => x.addTlb false e)) (e.loc va)
    | .prot => .fault .pageProt
    | .mark e => .wait (engineWalk s cn c.op ⟨va, k, va, none, some e⟩)
    | .miss => .wait (engineWalk s cn c.op ⟨va, k, va, none, none⟩)

/-- The target of a peer element, checked when it is moved (R95). -/
def enginePeer (s : State) (c : CopyOp) (sum : Int) : Option Word :=
  let pa : Word := BitVec.ofInt 64 sum
  if 0 ≤ sum && sum < 2147483648 && peerOk s c.launch pa then some pa else none

/-- An engine sends a request or its data (R234, R235). -/
def engineSend (s : State) (cn : Nat) (c : CopyOp) (dst vn : Nat) (ord : Bool) (body : Body) : Option (State × Nat) :=
  if canSend s cn dst vn then
    some (send s
      { who := .engine c.op, src := cn, dst := dst, vn := vn, launch := c.launch, ord := ord, rel := false, req := none,
        body := body })
  else none

/-! #### Elements that touch the same bytes (R99) -/

/-- Two elements of one size may be the same bytes: in local and peer memory they are where their addresses are one; in global memory
a page's offset is the same under every translation. -/
def sameBytes (cn : Nat) (a : Space) (x : Int) (b : Space) (y : Int) : Bool :=
  let peer (sp : Space) (v : Int) : Int := if sp == .loc then 65536 * cn + v else v
  match a, b with
  | .glob, .glob => x % 65536 == y % 65536
  | .glob, _ | _, .glob => false
  | _, _ => peer a x == peer b y

/-- A word of the index list lies among the bytes of a destination element. -/
def idxTouches (cn i k : Nat) (sp : Space) (y : Int) (size : Nat) : Bool :=
  let a : Int := 65536 * cn + (i + 4 * k : Nat)
  match sp with
  | .glob => false
  | .loc => decide (65536 * cn + y < a + 4) && decide (a < 65536 * cn + y + size)
  | .peer => decide (y < a + 4) && decide (a < y + size)

/-! #### Reads -/

/-- An element whose first bytes `got` have been read from own local memory: its next unit is read (R83). -/
def fetchUnit (s : State) (cn : Nat) (c : CopyOp) (off n : Nat) (got : List Byte) : State × Except Cause MoveState :=
  let k := unitRest (off + got.length) (n - got.length)
  match engineLocalRead (genRequest s cn) cn c.launch (off + got.length) k with
  | (s, .ok bs) => (s, .ok (if got.length + k < n then .fetching (got ++ bs) else .loaded (got ++ bs)))
  | (s, .error e) => (s, .error e)

/-- The element that began last goes on with its next unit; where that fails, so does the element (R83, R98). -/
def fetchOn (s : State) (cn : Nat) (c : CopyOp) (rs : LRec) (e : Elem) (got : List Byte) : State :=
  let init := c.elems.dropLast
  match fetchUnit s cn c (rs.addr e.src).toNat rs.esize got with
  | (s, .ok st) => s.modOp cn c.op (fun o => o.setElems (init ++ [{ e with st := st }]))
  | (s, .error f) => s.modOp cn c.op (fun o => (o.fail (o.fin + init.length) f).setElems (init ++ [{ e with st := .failed }]))

/-- The engine reads the next element at `sum`, of numbers `sj` and `dj` in the records. Another device's memory is not read (R367). -/
def readElem (s : State) (cn : Nat) (c : CopyOp) (sp : Space) (sum : Int) (n sj dj : Nat) : State :=
  let sent (r : Option (State × Nat)) : State := match r with
    | some (t, id) => t.modOp cn c.op (fun o => o.push ⟨sj, dj, .reading id⟩)
    | none => s
  match sp with
  | .loc =>
    (match fetchUnit s cn c sum.toNat n [] with
     | (s, .ok st) => s.modOp cn c.op (fun o => o.push ⟨sj, dj, st⟩)
     | (s, .error e) => failNext s cn c.op e)
  | .glob =>
    if (gatewayAt sum).isSome then failNext s cn c.op .peerDenied
    else (match engineTranslate s cn c sum n .rd with
     | .fault e => failNext s cn c.op e
     | .wait s => s
     | .at_ s g => (match engineSend s cn c (dieCore g.pa) 1 false (.grd g n []) with
       | some (t, id) => t.modOp cn c.op (fun o => o.push ⟨sj, dj, .reading id⟩)
       | none => s))
  | .peer =>
    (match enginePeer s c sum with
     | none => failNext s cn c.op .peerDenied
     | some pa => sent (engineSend s cn c (peerCore pa) 1 false (.drd (peerOff pa) n)))

/-- Source and destination element of copy element k; an index list is read when the copy runs, and an index at or beyond the
indexed record's N stops the copy (R98, R100). -/
def elemPair (s : State) (cn launch : Nat) (kind : CopyKind) (rs rd : LRec) (k : Nat) : State × Except Cause (Nat × Nat) :=
  match kind.idx with
  | none => (s, .ok (rs.skip + k, rd.skip + k))
  | some i =>
    match engineLocalRead s cn launch (i + 4 * k) 4 with
    | (s, .error e) => (s, .error e)
    | (s, .ok bs) =>
      let j := leNat bs
      (match kind with
       | .gather _ => (s, if j < rs.count then .ok (j, rd.skip + k) else .error .copyFault)
       | _ => (s, if j < rd.count then .ok (rs.skip + k, j) else .error .copyFault))

/-- The engine begins the next element of a copy: it waits while an earlier one may still write what the element reads (R99). -/
def beginElem (s : State) (cn : Nat) (c : CopyOp) (kind : CopyKind) (src dst : Space) (rs rd : LRec) : State :=
  let ahead := c.elems.filter (·.unwritten)
  if kind.idx.any (fun i => ahead.any (fun e => idxTouches cn i c.next dst (rd.addr e.dst) rd.esize)) then s
  else match elemPair s cn c.launch kind rs rd c.next with
    | (s, .error e) => failNext s cn c.op e
    | (s, .ok (sj, dj)) =>
      if ahead.any (fun e => sameBytes cn src (rs.addr sj) dst (rd.addr e.dst)) then s
      else readElem s cn c src (rs.addr sj) rs.esize sj dj

/-- A drain writes its next captured bytes (R228). -/
def drainElem (s : State) (cn : Nat) (c : CopyOp) (ws : List (Nat × List Byte)) : State :=
  match ws[c.fin]? with
  | none => s
  | some (off, bs) =>
    match engineLocalWrite s cn c.launch off bs with
    | (s, .ok _) => s.modOp cn c.op (fun o =>
        { o with fin := o.fin + 1, wrote := o.wrote ++ (granules off bs.length).map (fun g => (.door cn, g)) })
    | (s, .error e) => failNext s cn c.op e

/-- A turn in which an operation goes on with the element that it reads unit by unit, or to its next one (R83, R98, R99). -/
def engineMove (s : State) (cn op : Nat) : State :=
  match s.copyOp cn op with
  | none => s
  | some c =>
    if !c.running || c.failed.isSome || !forked s cn c.hv c.fork then s
    else match c.work with
      | .drain ws => drainElem s cn c ws
      | .copy kind src dst rs rd =>
        (match c.elems.getLast? with
         | some ⟨sj, dj, .fetching got⟩ => fetchOn s cn c rs ⟨sj, dj, .fetching got⟩ got
         | _ => if c.count ≤ c.next then s else beginElem s cn c kind src dst rs rd)

/-! #### Writes -/

/-- Data of cpy.bar is unordered (R235). -/
def CopyKind.ordered : CopyKind → Bool
  | .bar .. => false
  | .plain | .gather _ | .scatter _ => true

/-- Core to which the gateways' traffic is addressed: service core 0, for which the crust takes it (R244, R367). -/
def crustCore : Nat := Config.computeCores

/-- Unacknowledged ordered data packets of a core to one destination (R235). -/
def ordOpen (s : State) (cn dst : Nat) : Nat :=
  ((s.core cn).copies.flatMap (fun c => match c.work with
    | .copy kind .. => if kind.ordered then c.elems.filterMap (fun e => match e.st with
        | .writing id d _ => if d == dst then some id else none
        | _ => none) else []
    | .drain _ => [])).eraseDups.length

/-- The bytes of up to `n` elements from the head of a list, read and not yet written, whose destinations follow on from `a` within its
256 bytes, element by element (R234: a CWR carries 1 to 256). -/
def packetRun (addr : Nat → Int) (size : Nat) (first : Int) : Nat → Int → List Elem → List (List Byte)
  | 0, _, _ => []
  | _, _, [] => []
  | n + 1, a, e :: es =>
    match e.st with
    | .loaded bs =>
      if addr e.dst == a && a / 256 == first / 256 then bs :: packetRun addr size first n (a + size) es else []
    | _ => []

/-- Elements `i .. i + m − 1` under way take a state. -/
def setRun (i m : Nat) (st : MoveState) (es : List Elem) : List Elem :=
  es.zipIdx.map (fun p => if i ≤ p.2 && p.2 < i + m then { p.1 with st := st } else p.1)

/-- The engine writes the next unit of the `i`th element under way, whose first `k` bytes stand at `off` in own local memory (R83). -/
def engineStoreUnit (s : State) (cn : Nat) (c : CopyOp) (off i : Nat) (bs : List Byte) (k : Nat) : State :=
  let n := unitRest (off + k) (bs.length - k)
  match engineLocalWrite (genRequest s cn) cn c.launch (off + k) ((bs.drop k).take n) with
  | (s, .ok _) => s.modOp cn c.op (fun o =>
      { (o.setElems (setRun i 1 (if k + n < bs.length then .storing bs (k + n) else .done) o.elems)) with
        wrote := o.wrote ++ (granules (off + k) n).map (fun g => (.door cn, g)) })
  | (s, .error e) => s.modOp cn c.op (fun o => (o.fail (o.fin + i) e).setElems (setRun i 1 .failed o.elems))

/-- The engine writes `m` elements from the `i`th under way on, whose bytes `bs` go to `sum`. Data of cpy, cgat and cscat is ordered, with
at most 32 packets of a flow unacknowledged; that of cpy.bar is not, and waits for earlier packets to the same bytes (R235). -/
def writeRun (s : State) (cn : Nat) (c : CopyOp) (sp : Space) (sum : Int) (i m : Nat) (bs : List Byte) (ord : Bool) : State :=
  let n := bs.length
  let stop (s : State) (e : Cause) : State := s.modOp cn c.op (fun o =>
    (o.fail (o.fin + i) e).setElems (setRun i m .failed o.elems))
  let sent (s : State) (dst : Nat) (gs : List (Home × Nat)) (body : Body) : State :=
    if ord && 32 ≤ ordOpen s cn dst then s
    else match engineSend s cn c dst 2 ord body with
      | some (t, id) => t.modOp cn c.op (fun o => o.setElems (setRun i m (.writing id dst gs) o.elems))
      | none => s
  match sp with
  | .loc => engineStoreUnit s cn c sum.toNat i bs 0
  | .glob =>
    (match gatewayAt sum with
     | some (dev, off) => sent s crustCore [] (.cwr (.far dev) off ⟨0, 0, 0, false, false⟩ bs)
     | none =>
       match engineTranslate s cn c sum n .w with
       | .fault e => stop s e
       | .wait s => s
       | .at_ s g =>
         let h : Home := .die (g.pa / 2 ^ 36)
         sent s (dieCore g.pa) ((granules g.pa n).map (fun x => (h, x))) (.cwr h 0 g bs))
  | .peer =>
    (match enginePeer s c sum with
     | none => stop s .peerDenied
     | some pa =>
       let h : Home := .door (peerCore pa)
       sent s (peerCore pa) ((granules (peerOff pa) n).map (fun x => (h, x)))
         (.cwr h (peerOff pa) ⟨0, 0, 0, false, false⟩ bs))

/-- The first element that is not yet on its way to its destination. -/
def CopyOp.toWrite (c : CopyOp) : Option Nat :=
  c.elems.findIdx? (fun e => match e.st with
    | .reading _ | .fetching _ | .loaded _ | .storing .. => true
    | .writing .. | .done | .failed => false)

/-- The element to be written fails (R98). -/
def failWrite (s : State) (cn op : Nat) (e : Cause) : State :=
  s.modOp cn op (fun o => match o.toWrite with
    | some i => (o.fail (o.fin + i) e).setElems (setRun i 1 .failed o.elems)
    | none => o)

/-- A turn in which an operation writes: the first element that is not yet on its way, once it has been read, and those that follow on from
it, at most `n`. So writes leave in copy order, and none before the earlier elements' reads (R99). -/
def engineWrite (s : State) (cn op n : Nat) : State :=
  match s.copyOp cn op with
  | none => s
  | some c =>
    match c.work with
    | .drain _ => s
    | .copy kind _ dst _ rd =>
      match c.toWrite with
      | none => s
      | some i =>
        let es := c.elems.drop i
        let a := rd.addr ((es.head?.map (·.dst)).getD 0)
        let run := packetRun rd.addr rd.esize a (if dst == .loc then 1 else n + 1) a es
        let hazard : Bool := !kind.ordered && (c.elems.take i).any (fun e => e.busy &&
          (List.range run.length).any (fun j => sameBytes cn dst (rd.addr e.dst) dst (a + j * rd.esize)))
        match (c.elems[i]?).map Elem.st with
        | some (.storing bs n) => engineStoreUnit s cn c a.toNat i bs n
        | _ => if run.isEmpty || hazard then s else writeRun s cn c dst a i run.length run.flatten kind.ordered

/-- A turn in which a cpy.bar credits what it has written (R101). -/
def engineCredit (s : State) (cn op : Nat) : State :=
  match s.copyOp cn op with
  | none => s
  | some c =>
    match c.work with
    | .copy (.bar home off) .. =>
      if !c.running || c.owed == 0 || c.credit.isSome then s
      else (match engineSend s cn c home 1 false (.dat off (.credit c.owed)) with
        | some (s, id) => s.modOp cn op (fun o => { o with credit := some (id, c.owed) })
        | none => s)
    | _ => s

/-! #### Answers -/

/-- A credit is acknowledged, or it fails: the lowest element that it covered failed (R101). -/
def creditReply (c : CopyOp) (r : Result) : CopyOp :=
  match r with
  | .fault e _ => { (c.fail (c.credited / c.bytesOf 1) e) with credit := none }
  | _ => { c with credit := none, credited := c.credited + (c.credit.map (·.2)).getD 0 }

/-- Request `req` of an element is answered: it is read, or written, or has failed (R98). -/
def Elem.reply (req : Nat) (r : Result) (e : Elem) : Elem :=
  match e.st, r with
  | .reading id, .fault .. | .writing id .., .fault .. => if id == req then { e with st := .failed } else e
  | .reading id, .data bs => if id == req then { e with st := .loaded bs } else e
  | .writing id .., _ => if id == req then { e with st := .done } else e
  | _, _ => e

/-- Request `req` is one of an element's. -/
def Elem.asked (req : Nat) (e : Elem) : Bool :=
  match e.st with
  | .reading id | .writing id .. => id == req
  | .fetching _ | .loaded _ | .storing .. | .done | .failed => false

/-- Granules that a request writes. -/
def Elem.grans (e : Elem) : List (Home × Nat) :=
  match e.st with
  | .writing _ _ gs => gs
  | .reading _ | .fetching _ | .loaded _ | .storing .. | .done | .failed => []

/-- The answer to a request of an operation's elements. -/
def elemReply (c : CopyOp) (req : Nat) (r : Result) : CopyOp :=
  match c.elems.findIdx? (·.asked req), r with
  | none, _ => c
  | some i, .fault e _ => (c.fail (c.fin + i) e).setElems (c.elems.map (·.reply req r))
  | some i, _ =>
    { (c.setElems (c.elems.map (·.reply req r))) with wrote := c.wrote ++ ((c.elems[i]?).map (·.grans)).getD [] }

/-- The answer to an engine's request: elements read or written, or a credit (R98, R101). -/
def engineReply (s : State) (cn op req : Nat) (r : Result) : State :=
  s.modOp cn op (fun c => if c.credit.map (·.1) == some req then creditReply c r else elemReply c req r)

/-! #### Start, completion and stop -/

/-- A queued operation may start: a slot is free, and no earlier one is held back for another reason than the harvest's own
limit (R96, R310). -/
def mayStart (c : Core) (op : CopyOp) : Bool :=
  let running := c.copies.filter (·.running)
  let hvFull : Bool := decide (2 ≤ (running.filter (·.hv)).length)
  let ahead := c.copies.filter (fun o => !o.running && decide (o.op < op.op))
  !op.running && decide (running.length < 6) && !(op.hv && hvFull) && ahead.all (fun o => o.hv && hvFull && !op.hv)

/-- COPY_START (R96): a queued operation takes a free slot. -/
def execCopyStart (cn op : Nat) (s : State) : Host.Outcome State Fault Refusal :=
  .next (match s.copyOp cn op with
    | some c => if mayStart (s.core cn) c then s.modOp cn op (fun o => { o with running := true }) else s
    | none => s)

/-- Every element is written and every byte credited. -/
def opDone (s : State) (cn : Nat) (c : CopyOp) : Bool :=
  c.running && c.failed.isNone && c.fin == c.count && c.elems.isEmpty && c.owed == 0 && c.credit.isNone
    && forked s cn c.hv c.fork

/-- An operation's final object, STATUS 1, and its retirement (R97). -/
def completeOp (s : State) (cn : Nat) (c : CopyOp) : State :=
  retireOp (engineObj s cn c.hv c.launch c.obj 1 0 c.bytes c.wrote) cn c.op

/-- COPY_COMPLETE (R97). -/
def execCopyComplete (cn op : Nat) (s : State) : Host.Outcome State Fault Refusal :=
  .next (match s.copyOp cn op with
    | some c => if c.isCopy && opDone s cn c then completeOp s cn c else s
    | none => s)

/-- An operation has stopped at element `f`: all below it are written and credited, and no request of one is under way (R98, R101). -/
def opStopped (c : CopyOp) (f : Nat) : Bool :=
  decide (f ≤ c.fin) && c.elems.all (fun e => !e.busy) && c.owed == 0 && c.credit.isNone

/-- Elements above the one that failed that have been written (R98). -/
def CopyOp.above (c : CopyOp) : Nat := (c.elems.filter (fun e => e.st == .done)).length

/-- COPY_STOP (R98): the object receives STATUS 2, and the issuer COPY_FAULT. Elements above the one that failed have been written or not,
as far as the engine had come with them; the event names their number. -/
def execCopyStop (cn op above : Nat) (s : State) : Host.Outcome State Fault Refusal :=
  .next (match s.copyOp cn op with
    | some c =>
      (match c.failed with
       | some (f, e) =>
         if opStopped c f && c.above == above then
           let s := engineObj s cn c.hv c.launch c.obj 2 e.num c.bytes c.wrote
           retireOp (asyncFault s cn c.hv ⟨c.launch, .copyFault, 0, BitVec.ofNat 64 c.obj⟩) cn op
         else s
       | none => s)
    | none => s)

/-- DRAIN_COMPLETE (R228). -/
def execDrainComplete (cn op : Nat) (s : State) : Host.Outcome State Fault Refusal :=
  .next (match s.copyOp cn op with
    | some c => if !c.isCopy && opDone s cn c then completeOp s cn c else s
    | none => s)

/-- A teardown aborts a core's operations of a launch: the object receives STATUS 3 (R97, R305). -/
def abortOps (s : State) (cn launch : Nat) : State :=
  ((s.core cn).copies.filter (fun c => c.launch == launch)).foldl (fun s c =>
    retireOp (engineObj s cn c.hv c.launch c.obj 3 0 c.bytes c.wrote) cn c.op) s

/-- A reclaim stops the harvest's operations; their objects are not written (R320). -/
def dropHarvestOps (s : State) (cn : Nat) : State :=
  ((s.core cn).copies.filter (·.hv)).foldl (fun s c => retireOp s cn c.op) s

/-! ### CWR at its destination (R235, R367) -/

/-- Packet `q` stands before `p` in their flow: its SEQ is lower, modulo 2^16 (R232). -/
def Packet.before (q p : Packet) : Bool := q.seq != p.seq && decide (seqAbove p.seq q.seq < 32768)

/-- An ordered packet waits for the ordered packets of its flow with a lower SEQ, in flight or lost with a kept copy; a packet sent again
(R237) has its SEQ. -/
def orderedBehind (s : State) (p : Packet) : Bool :=
  let earlier (q : Packet) : Bool := q.src == p.src && q.dst == p.dst && q.flowVn == 2 && q.ord && q.before p
  p.ord && (s.net.any (fun q => earlier q && !s.isDone q) || (s.core p.src).fab.kept.any (fun k =>
    earlier k.pkt && !s.isDone k.pkt))

/-- A gateway's datagram leaves, and is kept until the far device acknowledges it (R367). -/
def sendDatagram (s : State) (b : GwBuf) : State :=
  let seq := mget s.crust.gwNext b.dev 0
  s.modCrust (fun k => { k with gwOut := k.gwOut ++ [⟨b.dev, seq, b.off, b.data, s.now, b.pkts⟩],
                                gwNext := mset k.gwNext b.dev (seq + 1), gwBufs := k.gwBufs.filter (· != b) })

/-- The gateway has gathered something to send. -/
def gatewaySend (s : State) (i : Nat) : State :=
  match s.crust.gwBufs[i]? with
  | some b => sendDatagram s b
  | none => s

/-- Bytes of a datagram at most (R367). -/
def datagramMax : Nat := 8192

/-- Data for another device joins what the gateway has gathered of its operation, where it follows on and a datagram has room; else that
leaves first (R367). -/
def gatherFar (s : State) (p : Packet) (dev off : Nat) (bs : List Byte) : State :=
  let mine (b : GwBuf) : Bool := b.pkts.any (fun q => q.src == p.src && q.who == p.who)
  let joins (b : GwBuf) : Bool :=
    mine b && b.dev == dev && b.off + b.data.length == off && decide (b.data.length + bs.length ≤ datagramMax)
  if s.crust.gwBufs.any joins then
    s.modCrust (fun k => { k with gwBufs := updWhere joins (fun b => { b with data := b.data ++ bs, pkts := b.pkts ++ [p] })
                                              k.gwBufs })
  else
    let s := (s.crust.gwBufs.filter mine).foldl sendDatagram s
    s.modCrust (fun k => { k with gwBufs := k.gwBufs ++ [⟨dev, off, bs, [p]⟩] })

/-- CWR arrives (R235). Data for another device is kept by the gateway, and an unknown device refuses it (R367). -/
def execCwr (k : Nat) (s : State) : Host.Outcome State Fault Refusal :=
  .next (serve s k (fun b => match b with
    | .cwr .. => true
    | _ => false) (fun s p => if orderedBehind s p then .hold else match p.body with
      | .cwr (.door _) off _ data => doorWrite s p off data
      | .cwr (.die _) _ g data =>
        if hbmRace s g data.length p.src p.launch then dieFault s p g .mmRace
        else if hbmBadPart s g.pa data.length then dieFault s p g .eccUncorr
        else .done (dieStore s p g data) .ack
      | .cwr (.far dev) off _ data =>
        if s.crust.peers.contains dev then .kept (gatherFar s p dev off data)
        else .done s (.fault .peerDenied (BitVec.ofNat 64 p.addr))
      | _ => .hold))

end Sys2Proof.Machine
end

