-- ==== Sys2Proof/Machine/Global.lean ====
section
/-! DEFINITION. Global memory: ldg, stg, ldg.v, stg.v, gred, amo and pref (R75..R79). What a base die does with a request
stands in Sys2Proof/Machine/Die.lean. -/

namespace Sys2Proof.Machine

open Sys2Proof

/-- An access of a migrate page from another loaf is not sent: the context stops at the instruction until its tags are back
(R62, R299). Without an unretired core of the launch in the home loaf it goes on as in message mode, and so does a context of no
launch, such as a service core's (R299). -/
def migrates (s : State) (e : TlbEntry) : Bool :=
  let home := e.frame / 2 ^ 36
  e.mig && home != loafOf s.cur.core && (match s.launch s.myLaunch with
     | some l => (alive s l).any (fun k => loafOf k == home)
     | none => false)

/-- The checks and the translation of a global access of `n` aligned bytes, in the order of R74. -/
def globalPlace (s : State) (sum : Int) (n : Nat) (k : AccKind) : Except Stop (State × GLoc × Word) := do
  let va ← globalAddr sum n
  let (s, e) ← translate s va k va none
  if migrates s e then .error (.wait (s.modCtx (fun c => { c with moving := some (e.frame / 2 ^ 36) })))
  else .ok (s, e.loc va, va)

/-- A request to the base die of a place. -/
def dieAccess (g : GLoc) (va : Word) (dest : Dest) (load store acq rel : Bool) (body : Body) : Access :=
  { peer := false, dest := dest, load := load, store := store, acq := acq, rel := rel, serial := false,
    home := .die (g.pa / 2 ^ 36), dst := dieCore g.pa, addr := va, body := body }

/-- ldg (R75). -/
def execLdg (d a : SReg) (sz : LoadSize) (off : BitVec 13) (s : State) : Host.Outcome State Fault Refusal :=
  finish s (do
    let base ← readReg s a
    let n := szBytes sz
    let (s, g, va) ← globalPlace s (offSum base off) n .rd
    destFree s d
    orderOk s false
    let s ← issueAccess s (dieAccess g va (.reg d sz) true false false false (.grd g n []))
    .ok ((s.clearReg d).advance 1))

/-- stg (R75). -/
def execStg (d a : SReg) (sz : StoreSize) (off : BitVec 13) (s : State) : Host.Outcome State Fault Refusal :=
  finish s (do
    let base ← readReg s a
    let n := stBytes sz
    let (s, g, va) ← globalPlace s (offSum base off) n .w
    let v ← readReg s d
    orderOk s true
    let s ← issueAccess s (dieAccess g va .none false true false false (.gwr g (natLe n v.toNat)))
    .ok (s.advance 1))

/-- ldg.v at `base + add` (R76). DESIGN CHOICE (log 136): the fault of a row that a loan bars (R319) ranks after ALIGN,
ADDR_NONCANON, the faults of Translate and the migration check, whose order with it no rule gives. -/
def globalLoadRow (v : VReg) (a : SReg) (add : Nat) (len : Nat) (s : State) : Act := do
  let base ← readReg s a
  let (s, g, va) ← globalPlace s (base.toNat + add : Nat) 64 .rd
  rowAllowed s v
  rowFree s v
  orderOk s false
  let s ← issueAccess s (dieAccess g va (.row v) true false false false (.grd g 64 []))
  .ok ((s.clearRow v).advance len)

/-- stg.v at `base + add` (R76). DESIGN CHOICE (log 136): the fault of a row that a loan bars (R319) ranks after ALIGN,
ADDR_NONCANON, the faults of Translate and the migration check, whose order with it no rule gives. -/
def globalStoreRow (v : VReg) (a : SReg) (add : Nat) (len : Nat) (s : State) : Act := do
  let base ← readReg s a
  let (s, g, va) ← globalPlace s (base.toNat + add : Nat) 64 .w
  rowAllowed s v
  let bits ← readRow s v
  orderOk s true
  let s ← issueAccess s (dieAccess g va .none false true false false (.gwr g (rowBytes bits)))
  .ok (s.advance len)

/-- gred at `base + add` (R78): the lane type is that of the row's tile; a synchronising access (R266). DESIGN CHOICE (log 136): a barred row's
fault ranks last, as for ldg.v. -/
def globalReduce (v : VReg) (a : SReg) (add : Nat) (len : Nat) (s : State) : Act := do
  let base ← readReg s a
  let (s, g, va) ← globalPlace s (base.toNat + add : Nat) 64 .w
  rowAllowed s v
  let bits ← readRow s v
  orderOk s true
  let ty := s.me.tiles[(rowIdx v).1].ty
  let s ← issueAccess s (dieAccess g va .none true true false false (.gred g ty bits))
  .ok (s.advance len)

/-- amo (R77). -/
def globalAtom (o : AtomOp) (dbl : Bool) (r : AtomOrd) (d a : SReg) (y : Except Stop Word) (len : Nat) (s : State) :
    Act := do
  let base ← readReg s a
  let (t, g, va) ← globalPlace s base.toNat (atomBytes dbl) (if o == .ld then .rd else .w)
  let (v, c) ← atomOperands s o d y
  destFree t d
  orderOk t true
  let t ← issueAccess t { dieAccess g va (.reg d .d) true true (ordAcq r) (ordRel r) (.gat g o dbl v c) with mod_ := atomMod o dbl r }
  .ok ((t.clearReg d).advance len)

/-- pref (R79): it fills the DTLB and the second level where the translation succeeds, and never faults. DESIGN CHOICE (log 157): its wait for
s_a or s_b counts, and its 65,536th cycle raises PRESENCE_TIMEOUT as R110 has of every stalled instruction, though R79 lists no fault. -/
def prefetch (a : SReg) (y : Except Stop Word) (len : Nat) (s : State) : Act := do
  let base ← readReg s a
  let off ← y
  let sum : Int := (base.toNat : Int) + off.toNat
  let va : Word := BitVec.ofInt 64 sum
  if 18446744073709551616 ≤ sum then .ok (s.advance len)
  else match translate s va .rd va (some len) with
    | .ok (t, e) => .ok ((fillTlbs t t.cur.core false e).advance len)
    | .error (.wait t) => .error (.wait t)
    | .error (.stall code) => .error (.stall code)
    | .error _ => .ok (s.advance len)

/-- ldg.v (R76). -/
def execLdgV (v : VReg) (a : SReg) (n : Fin 64) (s : State) : Host.Outcome State Fault Refusal :=
  finish s (globalLoadRow v a (n.val * 64) 1 s)

/-- ldg.v, literal form (R76, R24). -/
def execLdgVLit (v : VReg) (a : SReg) (lit : Word) (s : State) : Host.Outcome State Fault Refusal :=
  finish s (globalLoadRow v a lit.toNat 3 s)

/-- stg.v (R76). -/
def execStgV (v : VReg) (a : SReg) (n : Fin 64) (s : State) : Host.Outcome State Fault Refusal :=
  finish s (globalStoreRow v a (n.val * 64) 1 s)

/-- stg.v, literal form (R76, R24). -/
def execStgVLit (v : VReg) (a : SReg) (lit : Word) (s : State) : Host.Outcome State Fault Refusal :=
  finish s (globalStoreRow v a lit.toNat 3 s)

/-- gred (R78). -/
def execGred (v : VReg) (a : SReg) (n : Fin 64) (s : State) : Host.Outcome State Fault Refusal :=
  finish s (globalReduce v a (n.val * 64) 1 s)

/-- gred, literal form (R78, R24). -/
def execGredLit (v : VReg) (a : SReg) (lit : Word) (s : State) : Host.Outcome State Fault Refusal :=
  finish s (globalReduce v a lit.toNat 3 s)

/-- amo (R77); its load form reads no operand. -/
def execAmo (o : AtomOp) (dbl : Bool) (r : AtomOrd) (d a b : SReg) (s : State) : Host.Outcome State Fault Refusal :=
  finish s (globalAtom o dbl r d a (if o == .ld then .ok 0 else readReg s b) 1 s)

/-- amo, literal form (R77, R24). -/
def execAmoLit (o : AtomOp) (dbl : Bool) (r : AtomOrd) (d a : SReg) (lit : Word) (s : State) :
    Host.Outcome State Fault Refusal :=
  finish s (globalAtom o dbl r d a (.ok lit) 3 s)

/-- pref (R79). -/
def execPref (a b : SReg) (s : State) : Host.Outcome State Fault Refusal := finish s (prefetch a (readReg s b) 1 s)

/-- pref, literal form (R79, R24). -/
def execPrefLit (a : SReg) (lit : Word) (s : State) : Host.Outcome State Fault Refusal :=
  finish s (prefetch a (.ok lit) 3 s)

end Sys2Proof.Machine
end

