-- ==== Sys2Proof/Machine/Walk.lean ====
section
/-! DEFINITION. Page walks (R58..R65, R342), line fills (R34, R39), and the migration of a task to the home of a migrate page
(R62, R299). -/

namespace Sys2Proof.Machine

open Sys2Proof

/-! ### Walks -/

/-- A precise fault of a context at the instruction it waits at. -/
def preciseAt (s : State) (cn : Nat) (hv : Bool) (c : Cause) (val : Word) : State :=
  precise { s with cur := ⟨cn, hv⟩ } c val

/-- The end of a walk for a context: a TLB entry, a fault at its instruction, or a swapped page, on which a task is parked
(R59, R308, R342); a pref goes on past its fault (R79). -/
def walkCtx (s : State) (cn : Nat) (hv : Bool) (q : WalkReq) (r : WalkRes) : State :=
  let s := s.modCtxOf cn hv (fun c => { c with walk := none })
  let c := s.ctxOf cn hv
  match r, q.pref with
  | .leaf e, _ => fillTlbs s cn (q.kind == .x) e
  | .fault _, some len | .swapped _, some len => s.advanceOf cn hv len
  | .fault f, none => preciseAt s cn hv f q.val
  | .swapped pte, none =>
    if c.task.isNone || c.inh then preciseAt s cn hv .pageNotPresent q.val
    else s.modCtxOf cn hv (fun c => { c with pflt := some pte })

/-- The end of a walk for an engine operation, which any fault stops at the element that asked: the next one to write, or the next one to
begin (R98, R342). -/
def walkEngine (s : State) (cn op : Nat) (k : AccKind) (r : WalkRes) : State :=
  let stop (e : Cause) : State := if k == .w then failWrite s cn op e else failNext s cn op e
  match r with
  | .leaf e => fillTlbs s cn false e
  | .fault f => stop f
  | .swapped _ => stop .pageNotPresent

/-- The launch under whose tables a walk runs; none where its engine operation has gone. -/
def walkLaunch (s : State) (cn : Nat) (who : WalkFor) : Option Nat :=
  match who with
  | .ctx hv => some (s.ctxOf cn hv).launch
  | .engine op => (s.copyOp cn op).map (·.launch)

/-- A walk of a slice at another phase. -/
def State.setPhase (s : State) (cn : Nat) (who : WalkFor) (p : WalkPhase) : State :=
  s.modSlice (sliceOf cn) (fun sl =>
    { sl with walks := updWhere (fun w => w.core == cn && w.who == who) (fun w => { w with phase := p }) sl.walks })

/-- A walk ends: it leaves its slice's list, and its requester goes on (R64). -/
def endWalk (s : State) (w : Walk) (r : WalkRes) : State :=
  let s := s.modSlice (sliceOf w.core) (fun sl => { sl with walks := sl.walks.filter (fun x => !(x.core == w.core && x.who == w.who)) })
  match w.who with
  | .ctx hv => walkCtx s w.core hv w.req r
  | .engine op => walkEngine s w.core op w.req.kind r

/-- A walker asks for the entry of a level: a GRD of 8 bytes to the port of the entry's unit (R58, R234, R369). -/
def askEntry (s : State) (w : Walk) (launch table lvl : Nat) : State :=
  let pte := table + ptIndex (w.req.va.toNat % 2 ^ 48) lvl * 8
  let dst := dieCore pte
  if canSend s w.core dst 1 then
    let (s, id) := send s
      { who := .walk w.who, src := w.core, dst := dst, vn := 1, launch := launch, ord := false, rel := false, req := none,
        body := .grd (pteLoc pte) 8 [] }
    s.setPhase w.core w.who (.asked table lvl id)
  else s.setPhase w.core w.who (.next table lvl)

/-- A walker sends the OR of A and D to the port of the entry's unit (R60, R369): kind GAT, the one kind of R234 that changes a word
indivisibly (log 140). -/
def askMark (s : State) (w : Walk) (launch pte lvl e : Nat) : State :=
  let dst := dieCore pte
  if canSend s w.core dst 1 then
    let (s, id) := send s
      { who := .walk w.who, src := w.core, dst := dst, vn := 1, launch := launch, ord := false, rel := false, req := none,
        body := .mark (pteLoc pte) w.req.kind e, mod_ := atomMod .or true .none }
    s.setPhase w.core w.who (.marking pte lvl e id)
  else s.setPhase w.core w.who (.mark pte lvl e)

/-- The parts of a leaf that R60 compares, as a TLB entry keeps them. -/
def TlbEntry.bits (e : TlbEntry) : Nat :=
  2 + e.frame / 65536 * 65536 + (if e.rd then 4 else 0) + (if e.wr then 8 else 0) + (if e.ex then 16 else 0)

/-- One move of a walker on a walk (R58, R60): it asks for the next entry, takes the entry that came, sends the OR of A and D, or takes what
that found. A write that hit a TLB entry with D clear makes the OR alone. -/
def walkMove (s : State) (w : Walk) (launch : Nat) : State :=
  let upper := w.req.va.toNat.testBit 47
  match w.phase with
  | .start =>
    (match w.req.mark with
     | some e => askMark s w launch e.pte e.lvl e.bits
     | none => askEntry s w launch (rootOf s launch w.req.va).1 3)
  | .next table lvl => askEntry s w launch table lvl
  | .asked .. | .marking .. => s
  | .mark pte lvl e => askMark s w launch pte lvl e
  | .marked pte lvl e x =>
    endWalk s w (markResult (w.req.va.toNat % 2 ^ 48) lvl (rootOf s launch w.req.va).2 pte e x)
  | .failed c => endWalk s w (.fault c)
  | .got table lvl e =>
    let va := w.req.va.toNat % 2 ^ 48
    let pte := table + ptIndex va lvl * 8
    match entryStep w.req.kind upper lvl e with
    | .table t => askEntry s w launch t (lvl - 1)
    | .fault c => endWalk s w (.fault c)
    | .swapped => endWalk s w (.swapped pte)
    | .leaf =>
      if markedFor w.req.kind e then endWalk s w (.leaf (leafEntry va lvl (rootOf s launch w.req.va).2 pte e))
      else askMark s w launch pte lvl e

/-- TLB_WALK: one of the slice's four walkers makes its next move on the walk of a request, oldest requests first (R58, R64). -/
def execTlbWalk (cn : Nat) (who : WalkFor) (s : State) : Host.Outcome State Fault Refusal :=
  .next (
    match ((s.slice (sliceOf cn)).walks.take 4).find? (fun w => w.core == cn && w.who == who) with
    | none => s
    | some w =>
      match walkLaunch s cn who with
      | some launch => walkMove s w launch
      | none => s.modSlice (sliceOf cn) (fun sl => { sl with walks := sl.walks.erase w }))

/-! ### Line fills -/

/-- A line of 32 words with its check (R33, R34). -/
def lineFrom (a : Word) (bs : List Byte) : Line :=
  let ws := wordsOfBytes bs
  { addr := a, state := if lineOk ws then .ok else .malformed, words := ws }

/-- A line joins the instruction cache of a context that still waits for it. -/
def takeLine (s : State) (cn : Nat) (hv : Bool) (l : Line) : State :=
  s.modCtxOf cn hv (fun c => { c with fill := none, icache := l :: c.icache.filter (fun x => x.addr != l.addr) })

/-- LINE_FILL (R34, R39): a line of the service core's own memory comes at once; another is asked for with two GRDs of 64 bytes, one after
the other, to the port of its unit (R234, R369). A translation that has gone is looked up again. -/
def execLineFill (cn : Nat) (hv : Bool) (s : State) : Host.Outcome State Fault Refusal :=
  let c := s.ctxOf cn hv
  .next (match c.fill with
    | none => s
    | some f =>
      if ownFetch s cn hv f.addr then takeLine s cn hv (lineFrom f.addr (cellRead (s.svcMem cn) f.addr.toNat 128))
      else if f.asked.isSome then s
      else match lookup s cn c.launch f.addr .x with
        | .hit e =>
          let g := e.loc (f.addr + BitVec.ofNat 64 f.got.length)
          let dst := dieCore g.pa
          if canSend s cn dst 1 then
            let (s, id) := send s
              { who := .fill hv, src := cn, dst := dst, vn := 1, launch := c.launch, ord := false, rel := false, req := none,
                body := .line g c.born }
            s.modCtxOf cn hv (fun c => { c with fill := some { f with asked := some id } })
          else s
        | .mark _ | .prot | .miss => s.modCtxOf cn hv (fun c => { c with fill := none }))

/-! ### Migration (R62, R299) -/

/-- Distance of two numbers. -/
def dist (a b : Nat) : Nat := if a ≤ b then b - a else a - b

/-- Loaf-relative distance of two cores (R299). -/
def loafDist (a b : Nat) : Nat := dist (xOf a % 64) (xOf b % 64) + dist (yOf a % 64) (yOf b % 64)

/-- The nearest of some cores to a place, the first on a tie. -/
def nearest (cn : Nat) : List Nat → Option Nat
  | [] => none
  | k :: rest =>
    match nearest cn rest with
    | none => some k
    | some j => if loafDist cn j < loafDist cn k || (loafDist cn j == loafDist cn k && decide (j < k)) then some j else some k

/-- The destination of a migration to a home loaf (R299). -/
def migrateTo (s : State) (launch cn home : Nat) : Option Nat :=
  match s.launch launch with
  | some l => nearest cn ((alive s l).filter (fun k => loafOf k == home))
  | none => none

/-- The register file of a moved task: a register whose nget was withdrawn is zero (R299). -/
def withdrawn (c : Ctx) : Vector Reg 16 :=
  c.ngets.foldl (fun (v : Vector Reg 16) g => match g.dest with
    | some r => v.set r ⟨0, true⟩
    | none => v) c.regs

/-- MIGRATION (R62, R299): once its tags are back and no fault waits, the task goes to the home loaf. Its post is a release (R290). DESIGN
CHOICE (log 164): out of a trap handler the record takes the handler's pc and registers, and INH, MODE and PB0, for which it has no field, are
lost; while a fault of the interrupted task is held it waits, which R73 and R336 leave without an end; and a pending BAR_OVER stays with the
context (log 155). -/
def execMigration (cn : Nat) (hv : Bool) (s : State) : Host.Outcome State Fault Refusal :=
  let c := s.ctxOf cn hv
  .next (match c.moving, c.task with
    | some home, some t =>
      if c.out.any (·.tag.isSome) || !c.held.isEmpty then s
      else match migrateTo s t.launch cn home with
        | none => s.modCtxOf cn hv (fun c => { c with moving := none })
        | some dest =>
          let r := { wholeRecord t (withdrawn c) c.pc with akind := 0, aid := dest, migr := true }
          releasePost (freeCtx s cn hv) cn hv r
    | _, _ => s)

end Sys2Proof.Machine
end

