-- ==== Sys2Proof/Machine/Arrive.lean ====
section
/-! DEFINITION. Replies and acknowledgements at their requester (R61, R66, R67, R73, R87, R105, R106, R241, R242, R262). -/

namespace Sys2Proof.Machine

open Sys2Proof

/-- A reply's value for a register that still waits for it. -/
def deliverTo (s : State) (cn : Nat) (hv : Bool) (d : Option SReg) (handler : Bool) (v : Word) : State :=
  match d with
  | some r => deliver s cn hv r handler v
  | none => s

/-- What a reply without a fault does for an access of a context. DESIGN CHOICE (log 155): a refused arrival joins the pending BAR_OVERs, however
many there are, since R262 names no bound but the tags of arrivals that are still outstanding. -/
def landReply (s : State) (cn : Nat) (hv : Bool) (o : Out) (r : Result) : State :=
  match o.dest, r with
  | .reg d sz, .data bs => deliver s cn hv d o.handler (extendSz sz (leNat bs))
  | .reg d _, .val v => deliver s cn hv d o.handler v
  | .row v, .data bs => s.modCore cn (fun c => c.setRow v ⟨rowOfBytes bs, true⟩)
  | .arrive d, .val v =>
    let s := deliverTo s cn hv d o.handler v
    if v == all1 then s.modCtxOf cn hv (fun c => { c with bops := c.bops ++ [⟨o.epc, o.addr, d⟩] }) else s
  | .bindC d h, .bound _ _ base lsize lslots =>
    let s := bindHandle (deliverTo s cn hv d o.handler 0) cn hv h (.consumer o.addr base lsize lslots)
    if o.serial then s.advanceOf cn hv 1 else s
  | .bindP d h, .bound v p base lsize lslots =>
    bindHandle (deliverTo s cn hv d o.handler v) cn hv h
      (if v == all1 then .unbound else .producer o.addr p base lsize lslots)
  | _, _ => s

/-- What a fault does for an access of a context (R73, R105, R106): a consumer's bind stops at the instruction itself. -/
def landFault (s : State) (cn : Nat) (hv : Bool) (o : Out) (c : Cause) (v : Word) : State :=
  match o.dest with
  | .none => if o.serial then s else accessFault s cn hv o c v
  | .bindC _ h =>
    let s := bindHandle s cn hv h .unbound
    if c == .localRange then takeTrap s cn hv c .precise o.epc o.epc v
    else accessFault (s.advanceOf cn hv 1) cn hv o c v
  | .bindP _ h => accessFault (bindHandle s cn hv h .unbound) cn hv o c v
  | .reg .. | .row _ | .arrive _ => accessFault s cn hv o c v

/-- The answer to a context's request: the first one frees its tag, and another finds no access (R66, R67, R242). -/
def ctxReply (s : State) (cn : Nat) (hv : Bool) (req : Nat) (r : Result) : State :=
  match (s.ctxOf cn hv).out.find? (fun o => o.id == req) with
  | none => s
  | some o =>
    let s := closeOut s cn hv req
    match r with
    | .fault c v => landFault s cn hv o c v
    | _ => landReply s cn hv o r

/-- The entry that a walker asked for, what its OR found there, or the fault that the access met (R58, R60, R71). -/
def walkReply (s : State) (cn : Nat) (who : WalkFor) (req : Nat) (r : Result) : State :=
  match (s.slice (sliceOf cn)).walks.find? (fun w => w.core == cn && w.who == who) with
  | some w =>
    (match w.phase, r with
     | .asked table lvl id, .data bs => if id == req then s.setPhase cn who (.got table lvl (leNat bs)) else s
     | .marking pte lvl e id, .val x => if id == req then s.setPhase cn who (.marked pte lvl e x.toNat) else s
     | .asked _ _ id, .fault c _ | .marking _ _ _ id, .fault c _ => if id == req then s.setPhase cn who (.failed c) else s
     | _, _ => s)
  | none => s

/-- Half of the line that a context asked for, and with the second the whole line (R34). -/
def fillReply (s : State) (cn : Nat) (hv : Bool) (req : Nat) (r : Result) : State :=
  match (s.ctxOf cn hv).fill with
  | some f =>
    if f.asked == some req then
      match r with
      | .data bs =>
        if f.got.isEmpty then s.modCtxOf cn hv (fun c => { c with fill := some { f with asked := none, got := bs } })
        else takeLine s cn hv (lineFrom f.addr (f.got ++ bs))
      | .fault .. => takeLine s cn hv { addr := f.addr, state := .ecc, words := [] }
      | _ => s
    else s
  | none => s

/-- Data of a far device's datagram has been written; with the last of it the datagram is acknowledged, or refused where a request failed
(R367). -/
def gateReply (s : State) (dev seq req : Nat) (r : Result) : State :=
  match s.crust.gwIn.find? (fun g => g.dev == dev && g.seq == seq) with
  | none => s
  | some g =>
    let bad : Bool := g.bad || (match r with
      | .fault .. => true
      | _ => false)
    let left := g.reqs.filter (· != req)
    let rest := s.crust.gwIn.filter (· != g)
    s.modCrust (fun c =>
      if left.isEmpty then { c with gwIn := rest, gwAcked := c.gwAcked ++ [(dev, seq, !bad)] }
      else { c with gwIn := rest ++ [{ g with reqs := left, bad := bad }] })

/-- In mode E a reply is acknowledged on VN0 (R241). -/
def sendEack (s : State) (p : Packet) : State :=
  if p.e then
    (send s { who := p.who, src := p.dst, dst := p.src, vn := 0, launch := p.launch, ord := false, rel := false, req := none,
              body := .eack p.seq p.vn }).1
  else s

/-- An answer arrives: the kept request is dropped, and the requester's agent has its answer (R241, R242). -/
def landAnswer (s : State) (p : Packet) (r : Result) : State :=
  if p.e && (s.core p.dst).fab.executed p.src p.vn p.seq then s.take p.id
  else
    let s := dropKept (executed s p) p.dst p.req
    match p.who with
    | .ctx hv => ctxReply s p.dst hv p.req r
    | .engine op => engineReply s p.dst op p.req r
    | .walk w => walkReply s p.dst w p.req r
    | .fill hv => fillReply s p.dst hv p.req r
    | .gate dev seq => gateReply s dev seq p.req r

/-- RPLY arrives (R234). -/
def execRply (k : Nat) (s : State) : Host.Outcome State Fault Refusal :=
  .next (match s.got k with
    | some p =>
      (match p.body with
       | .rply r => if p.trim then s else sendEack (landAnswer s p r) p
       | _ => s)
    | none => s)

/-- ACK arrives (R234). -/
def execAck (k : Nat) (s : State) : Host.Outcome State Fault Refusal :=
  .next (match s.got k with
    | some p =>
      (match p.body with
       | .ack r => if p.trim then s else landAnswer s p r
       | _ => s)
    | none => s)

end Sys2Proof.Machine
end

