-- ==== Sys2Proof/Machine/Barrier.lean ====
section
/-! DEFINITION. Barrier instructions at issue (R264). Their door steps stand in Sys2Proof/Machine/Door.lean. -/

namespace Sys2Proof.Machine

open Sys2Proof

/-- The object's address: PEER_DENIED, then ALIGN (R264). -/
def barObject (s : State) (a : SReg) : Except Stop Word := do
  let pa ← readReg s a
  need (peerOk s s.myLaunch pa) .peerDenied pa
  need (peerOff pa % 32 == 0) .align pa
  .ok pa

/-- A barrier operation with a result in s_d: a plain register, or an arrival's (R262, R264). -/
def barResult (d a : SReg) (dest : Dest) (acq rel : Bool) (y : Except Stop Word) (op : Word → DoorOp) (len : Nat)
    (s : State) : Act := do
  let pa ← barObject s a
  let v ← y
  destFree s d
  orderOk s true
  let s ← issueAccess s (doorAccess pa dest true true acq rel (.dat (peerOff pa) (op v)))
  .ok ((s.clearReg d).advance len)

/-- A barrier operation without a result (R264). -/
def barPlain (a : SReg) (y : Except Stop Word) (op : Word → DoorOp) (len : Nat) (s : State) : Act := do
  let pa ← barObject s a
  let v ← y
  orderOk s true
  let s ← issueAccess s (doorAccess pa .none true true false false (.dat (peerOff pa) (op v)))
  .ok (s.advance len)

/-- bjoin (R264). -/
def execBjoin (d a : SReg) (s : State) : Host.Outcome State Fault Refusal :=
  finish s (barResult d a (.reg d .d) false false (.ok 0) (fun _ => .bjoin) 1 s)

/-- barv (R264): a release. -/
def execBarv (d a b : SReg) (s : State) : Host.Outcome State Fault Refusal :=
  finish s (barResult d a (.arrive (some d)) false true (readReg s b) .barv 1 s)

/-- barv, literal form (R264, R24). -/
def execBarvLit (d a : SReg) (lit : Word) (s : State) : Host.Outcome State Fault Refusal :=
  finish s (barResult d a (.arrive (some d)) false true (.ok lit) .barv 3 s)

/-- bdrop (R264): a release. -/
def execBdrop (d a b : SReg) (s : State) : Host.Outcome State Fault Refusal :=
  finish s (barResult d a (.arrive (some d)) false true (readReg s b) .bdrop 1 s)

/-- bdrop, literal form (R264, R24). -/
def execBdropLit (d a : SReg) (lit : Word) (s : State) : Host.Outcome State Fault Refusal :=
  finish s (barResult d a (.arrive (some d)) false true (.ok lit) .bdrop 3 s)

/-- bexp (R264). -/
def execBexp (a b : SReg) (s : State) : Host.Outcome State Fault Refusal :=
  finish s (barPlain a (readReg s b) .bexp 1 s)

/-- bexp, literal form (R264, R24). -/
def execBexpLit (a : SReg) (lit : Word) (s : State) : Host.Outcome State Fault Refusal :=
  finish s (barPlain a (.ok lit) .bexp 3 s)

/-- bwait (R264): its reply is an acquire (R263). -/
def execBwait (d a b : SReg) (s : State) : Host.Outcome State Fault Refusal :=
  finish s (barResult d a (.reg d .d) true false (readReg s b) .bwait 1 s)

/-- bwait, literal form (R264, R24). -/
def execBwaitLit (d a : SReg) (lit : Word) (s : State) : Host.Outcome State Fault Refusal :=
  finish s (barResult d a (.reg d .d) true false (.ok lit) .bwait 3 s)

/-- binit (R264). -/
def execBinit (a b : SReg) (s : State) : Host.Outcome State Fault Refusal :=
  finish s (barPlain a (readReg s b) .binit 1 s)

/-- binit, literal form (R264, R24). -/
def execBinitLit (a : SReg) (lit : Word) (s : State) : Host.Outcome State Fault Refusal :=
  finish s (barPlain a (.ok lit) .binit 3 s)

end Sys2Proof.Machine
end

