-- ==== Sys2Proof/Machine/Bellows.lean ====
section
/-! DEFINITION. The bellows (R250..R257): bred and bbar at issue, a member's contribution, the nodes' folds in their fixed order,
and the results. -/

namespace Sys2Proof.Machine

open Sys2Proof

/-! ### Issue (R251, R253, R257) -/

/-- Cores of a descriptor's rectangle, in ascending number; none where a reserved bit is set or it leaves the grid (R251). -/
def rectangle (d : Word) : Option (List Nat) :=
  let x := d.toNat
  let h := bitsOf x 24 7 + 1
  let w := bitsOf x 16 8 + 1
  let y0 := bitsOf x 8 7
  let x0 := bitsOf x 0 8
  if bitsOf x 48 16 != 0 || x.testBit 31 || x.testBit 15 || 256 < x0 + w || 128 < y0 + h then none
  else some ((natRange y0 h).flatMap (fun y => (natRange x0 w).map (fun c => y * 256 + c)))

/-- The members of a descriptor for the issuing core (R251). -/
def membersOf (s : State) (d : Word) : Option (List Nat) :=
  match rectangle d, s.launch s.myLaunch with
  | some cs, some l =>
    if cs.all (fun c => l.place.contains c) && cs.contains s.cur.core then some (cs.filter (fun c => !(s.core c).retired))
    else none
  | _, _ => none

/-- Operations of a core and launch whose objects are not yet written (R253). -/
def openMembers (s : State) (cn launch : Nat) : Nat :=
  s.bellows.foldl (fun n b => if b.launch == launch then n + (b.members.filter (fun m => m.core == cn && !m.done)).length else n) 0

/-- An operation by number. -/
def State.bellow (s : State) (op : Nat) : Option Bellows := s.bellows.find? (fun b => b.op == op)

/-- A change of one operation. -/
def State.modBellow (s : State) (op : Nat) (f : Bellows → Bellows) : State :=
  { s with bellows := updWhere (fun b => b.op == op) f s.bellows }

/-- A member's operation meets the first operation of its launch and descriptor that it has not joined: the n-th meets the
n-th (R252). -/
def joinBellows (s : State) (launch : Nat) (d : Word) (cores : List Nat) (m : Member) : State :=
  let mine (b : Bellows) : Bool := b.launch == launch && b.desc == d
  match s.bellows.find? (fun b => mine b && !b.members.any (fun x => x.core == m.core)) with
  | some b => s.modBellow b.op (fun x => { x with members := x.members ++ [m] })
  | none =>
    let (s, id) := s.newId
    { s with bellows := s.bellows ++
        [{ op := id, launch := launch, desc := d, nth := (s.bellows.filter mine).length, cores := cores, members := [m],
           nodes := [] }] }

/-- bred and bbar (R257); `buf` is a bred's buffer register. -/
def bellowsIssue (op : RedOp) (ty : RedType) (d : SReg) (buf : Option SReg) (b : SReg) (w : Word) (s : State) : Act := do
  ownerOnly s w
  let obj ← readReg s d
  let off ← match buf with
    | some a => readReg s a
    | none => .ok 0
  let desc ← readReg s b
  let o ← objOk s obj
  (if buf.isSome then do
    need (off.toNat % 64 == 0) .align off
    need (areaOk s off.toNat 64) .localRange off
  else .ok ())
  match membersOf s desc with
  | none => .error (.trap .peerDenied desc)
  | some cores => do
    waitFor (decide (openMembers s s.cur.core s.myLaunch < 4)) none
    waitFor (buf.isNone || decide (s.me.board.length < 8)) none
    let s ← startObj s o
    let (s, id) := s.newId
    let m : Member :=
      { core := s.cur.core, id := id, hv := false, op := op, ty := ty, bar := buf.isNone, buf := off.toNat, obj := o,
        sent := none, done := false }
    let s := if buf.isSome then
        s.modMe (fun c => { c with board := c.board ++ [⟨id, false, off.toNat, off.toNat + 63⟩] })
      else s
    .ok ((joinBellows s s.myLaunch desc cores m).advance 1)

/-- bred (R257). -/
def execBred (o : RedOp) (t : RedType) (d a b : SReg) (s : State) : Host.Outcome State Fault Refusal :=
  finish s (bellowsIssue o t d (some a) b (firstWord (.bred o t d a b)) s)

/-- bbar (R257). -/
def execBbar (d b : SReg) (s : State) : Host.Outcome State Fault Refusal :=
  finish s (bellowsIssue .add .f32 d none b (firstWord (.bbar d b)) s)

/-! ### Contributions (R254, R257) -/

/-- A change of one member. -/
def State.modMember (s : State) (op cn : Nat) (f : Member → Member) : State :=
  s.modBellow op (fun b => { b with members := updWhere (fun m => m.core == cn) f b.members })

/-- BELLOWS_CONTRIBUTE (R254, R257): a release; a bred's buffer is read, and an error sends an abort mark. -/
def execBellowsContribute (cn op : Nat) (s : State) : Host.Outcome State Fault Refusal :=
  .next (match s.bellow op with
    | none => s
    | some b =>
      match b.members.find? (fun m => m.core == cn) with
      | none => s
      | some m =>
        if m.sent.isSome || (s.core cn).launch != b.launch || !forked s cn m.hv m.id then s
        else
          let (s, v) : State × Except Cause (List Byte) :=
            if m.bar then (s, .ok []) else engineLocalRead s cn b.launch m.buf 64
          (clearTags s cn .dev).modMember op cn (fun m => { m with sent := some v }))

/-! ### The nodes (R250, R256) -/

/-- Bytes of a lane. -/
def redBytes (t : RedType) : Nat :=
  match t with
  | .f32 | .i32 => 4
  | .i64 => 8

/-- Comb of one lane (R256); `cn` is the lowest core among y's members. -/
def combLane (o : RedOp) (t : RedType) (cn x y : Nat) : Nat :=
  match o, t with
  | .add, .f32 => (addFP32 (BitVec.ofNat 32 x) (BitVec.ofNat 32 y) cn 127).toNat
  | .add, .i32 => (x + y) % 2 ^ 32
  | .add, .i64 => (x + y) % 2 ^ 64
  | .min, .f32 => (laneMinMax false .f32 x y cn).bits
  | .max, .f32 => (laneMinMax true .f32 x y cn).bits
  | .min, .i32 => if sgn 32 y < sgn 32 x then y else x
  | .max, .i32 => if sgn 32 x < sgn 32 y then y else x
  | .min, .i64 => if sgn 64 y < sgn 64 x then y else x
  | .max, .i64 => if sgn 64 x < sgn 64 y then y else x

/-- Comb (R256): lane by lane over `n` lanes. -/
def comb (o : RedOp) (t : RedType) (cn : Nat) (x y : List Byte) : List Byte :=
  let w := redBytes t
  (List.range (x.length / w)).flatMap (fun i =>
    natLe w (combLane o t cn (leNat ((x.drop (i * w)).take w)) (leNat ((y.drop (i * w)).take w))))

/-- A value on its way up, and the lowest core among its members. -/
abbrev Part := Option (List Byte) × Nat

/-- Fold (R256); an abort mark in place of any value makes the result an abort mark. -/
def foldParts (o : RedOp) (t : RedType) : List Part → Option Part
  | [] => none
  | p :: rest => some (rest.foldl (fun (a : Part) y =>
      (match a.1, y.1 with
       | some v, some u => some (comb o t y.2 v u)
       | _, _ => none, Nat.min a.2 y.2)) p)

/-- The nodes below a node that hold members, in order (R250). -/
def nodesBelow (cores : List Nat) (n : BellowsNode) : List BellowsNode :=
  let has (sl : Nat) : Bool := cores.any (fun c => sliceOf c == sl)
  let rowSlices (l sy : Nat) : List Nat := (natRange ((l / 4 * 8 + sy) * 32 + l % 4 * 8) 8).filter has
  match n with
  | .slice _ => []
  | .srow l sy => (rowSlices l sy).map .slice
  | .loaf l => ((List.range 8).filter (fun sy => !(rowSlices l sy).isEmpty)).map (.srow l)
  | .root => ((List.range 8).filter (fun l => cores.any (fun c => loafOf c == l))).map .loaf

/-- Members that a node still counts: those not retired, and those that have contributed (R251). -/
def Bellows.waitsFor (b : Bellows) (s : State) : List Nat :=
  b.cores.filter (fun c => !(s.core c).retired || b.members.any (fun m => m.core == c && m.sent.isSome))

/-- The values of a node's children in order, once all are there. -/
def childParts (s : State) (b : Bellows) (n : BellowsNode) : Option (List Part) :=
  let cores := b.waitsFor s
  match n with
  | .slice sl =>
    (cores.filter (fun c => sliceOf c == sl)).mapM (fun c =>
      match b.members.find? (fun m => m.core == c) with
      | some m => m.sent.map (fun v => ((match v with
          | .ok bs => some bs
          | .error _ => none), c))
      | none => none)
  | .srow .. | .loaf _ | .root =>
    (nodesBelow cores n).mapM (fun k => (b.nodes.find? (fun v => v.node == k)).map (fun v => (v.val, v.low)))

/-- The selector and MOD of an operation, as its first member gave them. -/
def Bellows.kind (b : Bellows) : RedOp × RedType :=
  match b.members with
  | m :: _ => (m.op, m.ty)
  | [] => (.add, .f32)

/-- Matched operations differ in selector or MOD (R252). -/
def Bellows.mismatch (b : Bellows) : Bool :=
  match b.members with
  | [] => false
  | m :: rest => rest.any (fun x => x.bar != m.bar || x.op != m.op || x.ty != m.ty)

/-- BELLOWS_NODE_COMBINE (R252, R256): a node combines its children once every member below it has contributed. -/
def execBellowsNodeCombine (op : Nat) (node : BellowsNode) (s : State) : Host.Outcome State Fault Refusal :=
  .next (match s.bellow op with
    | none => s
    | some b =>
      if b.nodes.any (fun v => v.node == node) then s
      else
        match (childParts s b node).bind (foldParts b.kind.1 b.kind.2) with
        | none => s
        | some (v, low) => s.modBellow op (fun x => { x with nodes := x.nodes ++ [⟨node, v, low⟩] }))

/-! ### Results (R252, R255, R257) -/

/-- An operation of which every member has its result is gone. -/
def sweepBellows (s : State) (op : Nat) : State :=
  { s with bellows := s.bellows.filter (fun b => b.op != op || b.members.any (fun m => !m.done)) }

/-- A member's object is written, its scoreboard entry is freed, and it is done. -/
def endMember (s : State) (b : Bellows) (m : Member) (status cause count : Nat) : State :=
  let s := engineObj s m.core m.hv b.launch m.obj status cause count
    (if status == 1 && !m.bar then (granules m.buf 64).map (fun g => (.door m.core, g)) else [])
  let s := s.modCore m.core (fun c => { c with board := c.board.filter (fun r => r.op != m.id) })
  let s := if status == 2 then asyncFault s m.core m.hv ⟨b.launch, .copyFault, 0, BitVec.ofNat 64 m.obj⟩ else s
  sweepBellows (s.modMember b.op m.core (fun m => { m with done := true })) b.op

/-- BELLOWS_RESULT (R252, R255, R257): the root's result reaches a member whose launch is on its core. -/
def execBellowsResult (op cn : Nat) (s : State) : Host.Outcome State Fault Refusal :=
  .next (match s.bellow op with
    | none => s
    | some b =>
      match b.nodes.find? (fun v => v.node == .root), b.members.find? (fun m => m.core == cn && !m.done) with
      | some r, some m =>
        if (s.core cn).launch != b.launch then s
        else if b.mismatch then endMember s b m 3 0 0
        else match m.sent, r.val with
          | some (.error e), _ => endMember s b m 2 e.num 0
          | _, none => endMember s b m 3 0 0
          | _, some v =>
            if m.bar then endMember s b m 1 0 0
            else match engineLocalWrite s cn b.launch m.buf v with
              | (s, .ok _) => endMember s b m 1 0 64
              | (s, .error e) => endMember s b m 2 e.num 0
      | _, _ => s)

/-- A teardown aborts a launch's operations: members without a result receive STATUS 3 (R255). -/
def abortBellows (s : State) (launch : Nat) : State :=
  (s.bellows.filter (fun b => b.launch == launch)).foldl (fun s b =>
    let s := (b.members.filter (fun m => !m.done)).foldl (fun s m => endMember s b m 3 0 0) s
    { s with bellows := s.bellows.filter (fun x => x.op != b.op) }) s

end Sys2Proof.Machine
end

