-- ==== Sys2Proof/Machine/Stream.lean ====
section
/-! DEFINITION. Streams: sopen, ssend and sclose at issue (R245, R248, R249), the set-up along the path, the transfers into the
rings of the destinations, the close marker (R246), and what becomes of streams at a teardown (R247). -/

namespace Sys2Proof.Machine

open Sys2Proof

/-! ### Ports and streams -/

/-- Index of a port (R245). -/
def portIdx (p : Bool) : Fin 2 := if p then 1 else 0

/-- A stream port of a launch at a core, in the save frame where the launch is switched out (R247). -/
def State.portOf (s : State) (cn launch : Nat) (p : Fin 2) : Port :=
  let c := s.core cn
  if c.launch == launch then c.ports[p]
  else match c.frames.find? (fun f => f.launch == launch) with
    | some f => f.ports[p]
    | none => Port.reset

/-- A change of a stream port of a launch. -/
def State.modPort (s : State) (cn launch : Nat) (p : Fin 2) (f : Port → Port) : State :=
  if (s.core cn).launch == launch then s.modCore cn (fun c => { c with ports := c.ports.set p (f c.ports[p]) })
  else s.modFrame cn launch (fun x => { x with ports := x.ports.set p (f x.ports[p]) })

/-- The port of a stream. -/
def Stream.fin (x : Stream) : Fin 2 := Fin.ofNat 2 x.port

/-- A stream is gone: its links are free, and its port has no stream of it. -/
def dropStream (s : State) (x : Stream) : State :=
  let s := { s with streams := s.streams.filter (fun y => y.id != x.id) }
  s.modPort x.core x.launch x.fin (fun p =>
    { p with opened := if p.opened == some x.id then none else p.opened,
             closing := if p.closing == some x.id then none else p.closing })

/-! ### Paths (R245) -/

/-- Links of `n` steps from a core. -/
def linksFrom (cn : Nat) (r : Dir) : Nat → List Nat
  | 0 => []
  | n + 1 => outNo cn (dirNum r) :: linksFrom ((nbr cn r).getD cn) r n

/-- Steps from a to b along one axis, and the way. -/
def axis (a b : Nat) (up down : Dir) : Dir × Nat := if a ≤ b then (up, b - a) else (down, a - b)

/-- X, then Y, between two cores. -/
def pathXY (src dst : Nat) : List Nat :=
  let (rx, nx) := axis (xOf src) (xOf dst) .e .w
  let (ry, ny) := axis (yOf src) (yOf dst) .n .s
  linksFrom src rx nx ++ linksFrom (yOf src * 256 + xOf dst) ry ny

/-- The destinations of a shape, in order; none where one lies off the grid or off the row or column. -/
def streamDests (src dst : Nat) (sh : StreamShape) (count : Nat) : Option (List Nat) :=
  let line (ok : Bool) (a z lim step : Nat) : Option (List Nat) :=
    if ok && (if a ≤ z then decide (z + count ≤ lim) else decide (count ≤ z + 1)) then
      some ((List.range count).map (fun k => if a ≤ z then dst + step * k else dst - step * k))
    else none
  match sh with
  | .one => some [dst]
  | .row => line (yOf dst == yOf src) (xOf src) (xOf dst) 256 1
  | .col => line (xOf dst == xOf src) (yOf src) (yOf dst) 128 256

/-- The core at which a link begins. -/
def linkCore (l : Nat) : Nat := l / 8

/-- ARG of a set-up: SHAPE, COUNT − 1 and HND (R234). -/
def sopnArg (sh : StreamShape) (count : Nat) (h : HandleNo) : Nat :=
  shapeCode sh * 2 ^ 24 + (count - 1) % 2 ^ 8 * 2 ^ 16 + h.val * 2 ^ 13

/-- The set-up of a stream. -/
def Body.opens (b : Body) (n : Nat) : Bool :=
  match b with
  | .sopn m _ => m == n
  | _ => false

/-! ### Issue (R248, R249) -/

/-- sopen (R248). -/
def openStream (d a : SReg) (sh : StreamShape) (count : Nat) (h : HandleNo) (p : Bool) (w : Word) (s : State) : Act := do
  ownerOnly s w
  let cn := s.cur.core
  let i := portIdx p
  need s.me.ports[i].opened.isNone .illegalOp w
  waitFor s.me.ports[i].closing.isNone none
  let t ← readReg s a
  need (decide (t.toNat < 32768)) .peerDenied t
  match (if isSvc cn then none else streamDests cn t.toNat sh count) with
  | none => .error (.trap .peerDenied t)
  | some ds => do
    need (ds.all (fun k => s.placed s.myLaunch k)) .peerDenied t
    destFree s d
    let last := ds.getLastD t.toNat
    let (s, sid) := s.newId
    let (s, id) := send s
      { who := .ctx false, src := cn, dst := last, vn := 3, launch := s.myLaunch, ord := false, rel := false, req := none,
        body := .sopn sid (sopnArg sh count h) }
    let x : Stream :=
      { id := sid, core := cn, port := i.val, launch := s.myLaunch, dests := ds, path := pathXY cn last, hnd := h,
        state := .setup, reserved := 0, released := 0, waited := 0, since := none, prods := [], slots := [], arrived := [], done := [],
        failed := none, out := id }
    let s := { s with streams := s.streams ++ [x] }
    let s := s.modPort cn x.launch i (fun q => { q with opened := some sid })
    let s := s.modCtx (fun c =>
      { c with out := c.out ++ [{ id := id, tag := none, dest := .reg d .d, load := false, store := false, acq := false,
                                  home := .door last, epc := c.pc, addr := t, handler := c.inh, serial := false }] })
    .ok ((s.clearReg d).advance 3)

/-- sopen (R248). -/
def execSopen (d a : SReg) (sh : StreamShape) (count1 : BitVec 8) (h : HandleNo) (p : Bool) (s : State) :
    Host.Outcome State Fault Refusal :=
  finish s (openStream d a sh (count1.toNat + 1) h p (firstWord (.sopen d a sh count1 h p)) s)

/-- A port is open, with room in its queue (R249). -/
def portReady (s : State) (p : Bool) (w : Word) : Except Stop Unit := do
  ownerOnly s w
  need s.me.ports[portIdx p].opened.isSome .illegalOp w

/-- The port's queue has room; the stall does not count (R249). -/
def portRoom (s : State) (p : Bool) : Except Stop Unit :=
  waitFor (decide (s.me.ports[portIdx p].queue.length < 2)) none

/-- A command joins the queue of the issuing core's port. -/
def pushPort (s : State) (p : Bool) (f : Port → Port) : State :=
  s.modMe (fun c => { c with ports := c.ports.set (portIdx p) (f c.ports[portIdx p]) })

/-- ssend (R249): an engine operation that forks at issue. -/
def sendOn (d a b : SReg) (p : Bool) (w : Word) (s : State) : Act := do
  portReady s p w
  let n ← readReg s b
  let off ← readReg s a
  let obj ← readReg s d
  need (obj.toNat % 8 == 0) .align obj
  need (off.toNat % 32 == 0 && n.toNat % 32 == 0) .align off
  need (areaOk s obj.toNat 8 && n != 0 && decide (n.toNat ≤ 4096) && areaOk s off.toNat n.toNat) .localRange off
  portRoom s p
  let s ← startObj s obj.toNat
  let pc := s.ctx.pc
  let (s, id) := s.newId
  .ok ((pushPort s p (fun q =>
    { q with queue := q.queue ++ [.send off.toNat n.toNat obj.toNat id false pc] })).advance 1)

/-- ssend (R249). -/
def execSsend (d a b : SReg) (p : Bool) (s : State) : Host.Outcome State Fault Refusal :=
  finish s (sendOn d a b p (firstWord (.ssend d a b p)) s)

/-- sclose (R249): the port is closed at once, and the marker follows its ssends. -/
def execSclose (p : Bool) (s : State) : Host.Outcome State Fault Refusal :=
  finish s (do
    portReady s p (firstWord (.sclose p))
    portRoom s p
    .ok ((pushPort s p (fun q =>
      { q with queue := q.queue ++ [.close], closing := q.opened, opened := none })).advance 1))

/-! ### Set-up (R245, R248) -/

/-- The handle of a launch's owner context at a core, live or saved. -/
def ownerHandle (s : State) (cn launch : Nat) (h : HandleNo) : Handle :=
  let c := s.core cn
  if c.launch == launch then c.owner.handles[h]
  else match c.frames.find? (fun f => f.launch == launch) with
    | some f => f.handles[h]
    | none => .unbound

/-- The descriptor's offset of a destination; none where its handle is not bound as consumer. -/
def streamRing (s : State) (x : Stream) (k : Nat) : Option Nat :=
  match ownerHandle s (x.dests.getD k 0) x.launch x.hnd with
  | .consumer desc .. => some (peerOff desc)
  | .unbound | .binding _ | .producer .. => none

/-- The result of a set-up whose links are all reserved (R248). -/
def openResult (s : State) (x : Stream) : Word :=
  match (List.range x.dests.length).find? (fun k => (streamRing s x k).isNone) with
  | some k => BitVec.ofNat 64 (1 + k)
  | none => 0

/-- The result goes back to the source as SRES on VN0 (R248). -/
def sendSres (s : State) (x : Stream) (src : Nat) (r : Word) : State :=
  (send s { who := .ctx false, src := src, dst := x.core, vn := 0, launch := x.launch, ord := false, rel := false,
            req := some x.out, body := .sres x.id r }).1

/-- A set-up arrives at the last destination, with every link of its path reserved (R245, R248). -/
def execSopn (k : Nat) (s : State) : Host.Outcome State Fault Refusal :=
  .next (match s.got k with
    | none => s
    | some p =>
      match p.body with
      | .sopn n _ =>
        (match s.stream n with
         | none => s.take k
         | some x => sendSres (s.take k) x p.dst (openResult s x))
      | _ => s)

/-- Cycles that a set-up waits at most for reserved links (R248). -/
def setupLimit : Nat := 65536

/-- SOPEN_SETUP_TIMEOUT (R248). -/
def execSopenSetupTimeout (stream : Nat) (s : State) : Host.Outcome State Fault Refusal :=
  .next (match s.stream stream with
    | none => s
    | some x =>
      match x.since, x.path[x.reserved]? with
      | some t, some l =>
        if x.state == .setup && decide (setupLimit ≤ x.waited + (s.now - t)) then
          let s := { s with net := s.net.filter (fun p => !p.body.opens stream) }
          sendSres s x (linkCore l) all1
        else s
      | _, _ => s)

/-- Queued commands of a port leave it unsent: an ssend's object receives STATUS 3 (R248). -/
def dropQueue (s : State) (x : Stream) : State :=
  let q := (s.portOf x.core x.launch x.fin).queue
  let s := s.modPort x.core x.launch x.fin (fun p => { p with queue := [] })
  q.foldl (fun s c => match c with
    | .send _ _ obj _ hv _ => engineObj s x.core hv x.launch obj 3 0 0 []
    | .close => s) s

/-- SRES arrives (R248): the register has its result, and a failed set-up closes the port. -/
def execSres (k : Nat) (s : State) : Host.Outcome State Fault Refusal :=
  .next (match s.got k with
    | none => s
    | some p =>
      match p.body with
      | .sres n r =>
        let s := ctxReply (s.take k) p.dst false p.req (.val r)
        (match s.stream n with
         | none => s
         | some x =>
           if r == 0 then s.modStream n (fun x => { x with state := .opened })
           else dropStream (dropQueue s x) x)
      | _ => s)

/-! ### Transfers (R246, R249) -/

/-- A port's transfer ends with a fault: the issuer takes COPY_FAULT (R98, R249). -/
def failSend (s : State) (cn launch obj : Nat) (hv : Bool) (cause count : Nat) : State :=
  asyncFault (engineObj s cn hv launch obj 2 cause count []) cn hv ⟨launch, .copyFault, 0, BitVec.ofNat 64 obj⟩

/-- The stream that a port serves. -/
def portStream (s : State) (q : Port) : Option Stream :=
  (q.opened.orElse (fun _ => q.closing)).bind s.stream

/-- Bytes that one packet carries at most (R232). -/
def packetMax : Nat := 256

/-- An ssend's data leaves in packets of up to 256 bytes (R232, R234), which go from destination to destination (R245); `n` bounds their
number. -/
def sendData (s : State) (x : Stream) (total : Nat) : Nat → Nat → List Byte → State
  | 0, _, _ => s
  | n + 1, off, data =>
    if data.isEmpty then s
    else
      let (s, _) := send s
        { who := .ctx false, src := x.core, dst := x.dests.getD 0 x.core, vn := 3, launch := x.launch, ord := false,
          rel := false, req := none, body := .sdat x.id 0 total off (data.take packetMax) }
      sendData s x total n (off + packetMax) (data.drop packetMax)

/-- SSEND_SERVE: the port takes its next command. An ssend's bytes are all read and checked first (R249). -/
def execSsendServe (cn : Nat) (p : Bool) (s : State) : Host.Outcome State Fault Refusal :=
  let l := (s.core cn).launch
  let i := portIdx p
  let q := s.portOf cn l i
  .next (match q.queue, q.serving, portStream s q with
    | c :: rest, none, some x =>
      if x.state != .opened then s
      else
        match c with
        | .close =>
          let s := (s.modPort cn l i (fun q => { q with queue := rest })).modStream x.id
            (fun x => { x with state := .closing })
          (send s { who := .ctx false, src := cn, dst := x.dests.getD 0 cn, vn := 3, launch := l, ord := false, rel := false,
                    req := none, body := .smrk x.id 0 }).1
        | .send off n obj id hv _ =>
          if !forked s cn hv id then s
          else
            let s := s.modPort cn l i (fun q => { q with queue := rest })
            match engineLocalRead s cn l off n with
            | (s, .error e) => failSend s cn l obj hv e.num 0
            | (s, .ok data) =>
              let s := s.modPort cn l i (fun q => { q with serving := some c })
              let s := s.modStream x.id (fun x => { x with slots := [], arrived := [], done := [], failed := none })
              sendData s x n (n / packetMax + 1) 0 data
    | _, _, _ => s)

/-- A destination is done with an ssend; `bad` where it has discarded the data (R249). -/
def destDone (s : State) (n k : Nat) (bad : Bool) : State :=
  s.modStream n (fun x =>
    { x with done := addNew x.done k, slots := x.slots.filter (fun a => a.1 != k), arrived := x.arrived.filter (fun a => a.1 != k),
             failed := if bad then some (Nat.min k (x.failed.getD k)) else x.failed })

/-- What the door of a destination finds: it waits, discards, or has the descriptor and the stream's producer (R106, R246). -/
inductive DestRing where
  | wait (s : State)
  | refuse (s : State)
  | ring (s : State) (off n p : Nat)

/-- The ring of destination k, where the stream's producer is registered at the first packet (R246). -/
def destRing (s : State) (x : Stream) (k : Nat) : DestRing :=
  let cn := x.dests.getD k 0
  match streamRing s x k with
  | none => .refuse s
  | some off =>
    match doorView s cn x.launch false 0 off 32 with
    | .hold => .wait s
    | .deny => .refuse s
    | .serve =>
      if (lmBadIn s cn off 32).isSome then .refuse (reportEcc s (loafOf cn) cn x.launch off)
      else
        let (s, n) := objRead s cn off x.launch
        match x.prods.find? (fun q => q.1 == k) with
        | some (_, some p) => .ring s off n p
        | some (_, none) => .refuse s
        | none =>
          match ringStep cn off n .bindP with
          | .res (some n') (.bound _ p _ _ _) =>
            .ring ((objWrite s cn off x.launch n').modStream x.id (fun x => { x with prods := x.prods ++ [(k, some p)] }))
              off n' p
          | _ => .refuse (s.modStream x.id (fun x => { x with prods := x.prods ++ [(k, none)] }))

/-- A packet of a stream goes on from destination k to the next, or has come to its end (R245). -/
def passOn (s : State) (p : Packet) (x : Stream) (k : Nat) : State :=
  let on (d : Nat) (b : Body) : State :=
    let cn := x.dests.getD k 0
    s.move { p with dst := d, body := b, at_ := .router cn (outNo cn 7) }
  match p.body, x.dests[k + 1]? with
  | .sdat n _ total off data, some d => on d (.sdat n (k + 1) total off data)
  | .smrk n _, some d => on d (.smrk n (k + 1))
  | _, _ => s.take p.id

/-- Bytes of an ssend enter the slot reserved at destination k; with the last of them the slot awaits its publication (R246). -/
def fillSlot (s : State) (p : Packet) (x : Stream) (k total off : Nat) (v : Word) (data : List Byte) : State :=
  let cn := x.dests.getD k 0
  let lo := v.toNat % 65536 + off
  if doorView s cn x.launch false 0 lo data.length != .serve then destDone (passOn s p x k) x.id k true
  else if (lmBadPart s cn lo data.length).isSome then destDone (passOn (reportEcc s (loafOf cn) cn x.launch lo) p x k) x.id k true
  else
    let s := passOn (lmWrite s cn lo x.launch data) p x k
    if total ≤ off + data.length then
      s.modStream x.id (fun x => { x with slots := x.slots.filter (fun a => a.1 != k),
                                          arrived := x.arrived ++ [(k, bitsOf v.toNat 32 32)] })
    else s

/-- Data at destination k (R246): its first packet reserves a slot, and waits without room, which holds the wormhole. -/
def takeData (s : State) (p : Packet) (x : Stream) (k total off : Nat) (data : List Byte) : State :=
  let cn := x.dests.getD k 0
  let refuse (s : State) : State := destDone (passOn s p x k) x.id k true
  if x.done.contains k then passOn s p x k
  else match x.slots.find? (fun a => a.1 == k) with
    | some (_, v) => fillSlot s p x k total off v data
    | none =>
      match destRing s x k with
      | .wait s => s
      | .refuse s => refuse s
      | .ring s o n q =>
        if 2 ^ fld n 20 4 < total then refuse s
        else match ringStep cn o n (.qres q) with
          | .res (some n') (.val v) =>
            let s := objWrite s cn o x.launch n'
            fillSlot (s.modStream x.id (fun x => { x with slots := x.slots ++ [(k, v)] })) p x k total off v data
          | .res none (.val _) => s
          | _ => refuse s

/-- SDAT arrives (R246). -/
def execSdat (k : Nat) (s : State) : Host.Outcome State Fault Refusal :=
  .next (match s.got k with
    | none => s
    | some p =>
      match p.body with
      | .sdat n d total off data =>
        (match s.stream n with
         | none => s.take k
         | some x => takeData s p x d total off data)
      | _ => s)

/-- STREAM_SLOT_PUBLISH (R246): a release at scope .dev by the source core. -/
def execStreamSlotPublish (cn stream : Nat) (s : State) : Host.Outcome State Fault Refusal :=
  .next (match s.stream stream with
    | none => s
    | some x =>
      match x.arrived.find? (fun a => x.dests.getD a.1 0 == cn) with
      | none => s
      | some (k, i) =>
        match destRing s x k with
        | .wait s => s
        | .refuse s => destDone s x.id k true
        | .ring s off n p =>
          let s := match ringStep cn off n (.qpub p (BitVec.ofNat 64 (i * 2 ^ 32))) with
            | .res (some n') _ => objWrite s cn off x.launch n'
            | _ => s
          destDone (retryQwaits (clearTags s x.core .dev) cn 0) x.id k false)

/-- Data of a stream. -/
def Body.carries (b : Body) (n : Nat) : Bool :=
  match b with
  | .sdat m .. => m == n
  | _ => false

/-- A stream's ssend is through: every destination has published or discarded, and none of its packets travels any more. -/
def Stream.through (x : Stream) (s : State) : Bool :=
  x.done.length == x.dests.length && !s.net.any (fun p => p.body.carries x.id)

/-- The transfer that a core's port serves and that is through, of the launch on the core or of one switched out. -/
def servingOf (s : State) (cn : Nat) (i : Fin 2) : Option (Nat × PortCmd × Stream) :=
  let c := s.core cn
  ((c.launch, c.ports[i]) :: c.frames.map (fun f => (f.launch, f.ports[i]))).findSome? (fun q =>
    match q.2.serving, portStream s q.2 with
    | some cmd, some x => if x.through s then some (q.1, cmd, x) else none
    | _, _ => none)

/-- SSEND_COMPLETE (R249): every destination has published or discarded. The object's release clears the tags of what the operation wrote,
which is nothing that carries one (R279, R280). -/
def execSsendComplete (cn : Nat) (p : Bool) (s : State) : Host.Outcome State Fault Refusal :=
  .next (match servingOf s cn (portIdx p) with
    | some (l, .send _ n obj _ hv _, x) =>
      let s := s.modPort cn l (portIdx p) (fun q => { q with serving := none })
      (match x.failed with
       | some k => failSend s cn l obj hv Cause.peerDenied.num k
       | none => engineObj s cn hv l obj 1 0 n [])
    | _ => s)

/-! ### The close marker (R245, R246) -/

/-- The marker ends the stream's producer at a destination it passes; none where it waits. -/
def markDest (s : State) (x : Stream) (k : Nat) : Option State :=
  let cn := x.dests.getD k 0
  match destRing s x k with
  | .wait _ => none
  | .refuse s => some s
  | .ring s off n p =>
    match ringStep cn off n (.qeos p) with
    | .res (some n') _ => some (retryQwaits (objWrite s cn off x.launch n') cn 0)
    | _ => some s

/-- SMRK arrives at a destination: the marker ends the stream's producer there and goes on; at the last destination, with every link
released, it ends the stream (R245, R246). -/
def execSmrk (k : Nat) (s : State) : Host.Outcome State Fault Refusal :=
  .next (match s.got k with
    | none => s
    | some p =>
      match p.body with
      | .smrk n d =>
        (match s.stream n with
         | none => s.take k
         | some x =>
           match markDest s x d with
           | none => s
           | some t =>
             if x.dests.length ≤ d + 1 then dropStream (t.take k) x else passOn t p x d)
      | _ => s)

/-! ### The end of a launch (R247) -/

/-- Packets of a stream leave the fabric with it. -/
def Body.ofStream (b : Body) (n : Nat) : Bool :=
  match b with
  | .sopn m _ => m == n
  | .sres m _ => m == n
  | .sdat m .. => m == n
  | .smrk m _ => m == n
  | _ => false

/-- The streams of a launch end, and their paths are released. -/
def endStreams (s : State) (launch : Nat) : State :=
  (s.streams.filter (fun x => x.launch == launch)).foldl (fun s x =>
    dropStream { s with net := s.net.filter (fun p => !p.body.ofStream x.id) } x) s

end Sys2Proof.Machine
end

