-- ==== Sys2Proof/Machine/Fabric.lean ====
section
/-! DEFINITION. The fabric: trimming and holes (R236..R238), links (R239, R240), retransmission and acknowledgement in mode E (R241,
R242), unassigned kinds (R234), and the neighbour lanes (R123, R124). -/

namespace Sys2Proof.Machine

open Sys2Proof

/-- A change of a core's fabric state. -/
def State.modFab (s : State) (cn : Nat) (f : Fab → Fab) : State := s.modCore cn (fun c => { c with fab := f c.fab })

/-! ### Trimming (R236, R238) -/

/-- TRIMC counts one more trimmed header received (R238). -/
def countHole (c : Core) : Core :=
  { c with trimc := BitVec.ofNat 64 (putBits c.trimc.toNat 32 32 (bitsOf c.trimc.toNat 32 32 + 1)) }

/-- TRIMC counts one more packet retransmitted (R238). -/
def countResent (c : Core) : Core :=
  { c with trimc := BitVec.ofNat 64 (putBits c.trimc.toNat 0 32 (bitsOf c.trimc.toNat 0 32 + 1)) }

/-- A hole of a flow (R237); one that is trimmed again is asked for again. -/
def addHole (f : Fab) (h : Hole) : Fab :=
  let same (x : Hole) : Bool := x.src == h.src && x.vn == h.vn && x.seq == h.seq
  if f.executed h.src h.vn h.seq then f else { f with holes := f.holes.filter (fun x => !same x) ++ [h] }

/-- A trimmed header arrives (R237). -/
def execTrimmedHeader (k : Nat) (s : State) : Host.Outcome State Fault Refusal :=
  .next (match s.got k with
    | none => s
    | some p =>
      if p.trim then
        ((s.take k).modCore p.dst countHole).modFab p.dst (fun f => addHole f ⟨p.src, p.flowVn, p.seq, false, p.launch⟩)
      else s)

/-! ### Re-requests (R237) -/

/-- The hole of a source that comes first in SEQ order (R232: modulo 2^16) and has not been asked for. -/
def nextHole (f : Fab) (src : Nat) : Option Hole :=
  (f.holes.filter (fun h => h.src == src && !h.asked)).foldl (fun (m : Option Hole) h =>
    match m with
    | some x => if 32768 ≤ seqAbove h.seq x.seq then some h else m
    | none => some h) none

/-- A bucket's tokens at a cycle: one for each 64 cycles that have passed, at most 4; what a full bucket would gain is lost (R237). -/
def Bucket.filled (b : Bucket) (now : Nat) : Bucket :=
  let k := (now - b.at_) / 64
  { b with tokens := Nat.min 4 (b.tokens + k), at_ := b.at_ + 64 * k }

/-- A bucket serves no hole and is full again. -/
def Fab.spare (f : Fab) (b : Bucket) : Bool := b.tokens == 4 && !f.holes.any (fun h => h.src == b.src)

/-- The bucket of a source: its own, or a full new one while at most 32 are in use. -/
def takeBucket (f : Fab) (src now : Nat) : Option (Fab × Bucket) :=
  let f := { f with buckets := f.buckets.map (·.filled now) }
  match f.buckets.find? (fun b => b.src == src) with
  | some b => some (f, b)
  | none =>
    let kept := f.buckets.filter (fun b => !f.spare b)
    if kept.length < 32 then
      let b : Bucket := ⟨src, 4, now⟩
      some ({ f with buckets := kept ++ [b] }, b)
    else none

/-- RREQ_SEND (R237): a token is spent, and the source is asked for the hole's packet. -/
def execRreqSend (cn src : Nat) (s : State) : Host.Outcome State Fault Refusal :=
  .next (
    let f := (s.core cn).fab
    match nextHole f src, takeBucket f src s.now with
    | some h, some (f, b) =>
      if b.tokens == 0 then s
      else
        let f := { f with buckets := updWhere (fun x => x.src == src) (fun x => { x with tokens := x.tokens - 1 }) f.buckets,
                          holes := updWhere (fun x => x == h) (fun x => { x with asked := true }) f.holes }
        (send (s.modFab cn (fun _ => f))
          { who := .ctx false, src := cn, dst := src, vn := 1, launch := h.launch, ord := false, rel := false, req := none,
            body := .rreq h.seq h.vn }).1
    | _, _ => s)

/-- TOKEN_REFILL (R237): one token every 64 cycles, at most 4. -/
def execTokenRefill (cn src : Nat) (s : State) : Host.Outcome State Fault Refusal :=
  .next (s.modFab cn (fun f => { f with buckets := updWhere (fun b => b.src == src) (·.filled s.now) f.buckets }))

/-! ### Retransmission and acknowledgement (R237, R241, R242) -/

/-- A kept copy is sent again with RETX and its SEQ; its timer restarts (R241). -/
def resend (s : State) (cn : Nat) (x : Kept) : State :=
  let (s, id) := s.newId
  let s := { s with net := s.net ++ [{ x.pkt with id := id, retx := true, at_ := entryAt x.pkt.src x.pkt.dst }] }
  (s.modCore cn countResent).modFab cn (fun f =>
    { f with kept := updWhere (fun y => y.pkt.id == x.pkt.id) (fun y => { y with sent := s.now }) f.kept })

/-- RREQ arrives (R237): the source sends its kept copy, if it still has it. -/
def execRreq (k : Nat) (s : State) : Host.Outcome State Fault Refusal :=
  .next (match s.got k with
    | none => s
    | some p =>
      match p.body with
      | .rreq seq vn =>
        let s := executed s p
        (match (s.core p.dst).fab.kept.find? (fun x => x.pkt.dst == p.src && x.pkt.vn == vn && x.pkt.seq == seq) with
         | some x => resend s p.dst x
         | none => s)
      | _ => s)

/-- RETRANSMIT_TIMEOUT (R241): RTO·1,024 cycles after a kept packet was last sent. -/
def execRetransmitTimeout (cn k : Nat) (s : State) : Host.Outcome State Fault Refusal :=
  .next (match (s.core cn).fab.kept.find? (fun x => x.pkt.id == k) with
    | none => s
    | some x => if x.sent + (s.loaf (loafOf cn)).rto * 1024 ≤ s.now then resend s cn x else s)

/-- EACK arrives (R241, R242): the kept reply is dropped, and the result cache frees its entry. -/
def execEack (k : Nat) (s : State) : Host.Outcome State Fault Refusal :=
  .next (match s.got k with
    | none => s
    | some p =>
      match p.body with
      | .eack seq vn =>
        let mine (x : Kept) : Bool := x.pkt.dst == p.src && x.pkt.vn == vn && x.pkt.seq == seq
        let s := s.take k
        (match (s.core p.dst).fab.kept.find? mine with
         | none => s
         | some x => s.modFab p.dst (fun f =>
             { f with kept := f.kept.filter (fun y => !mine y),
                      cache := f.cache.filter (fun y => !(y.src == p.src && y.req == x.pkt.req)) }))
      | _ => s)

/-! ### Links and kinds (R234, R239, R240) -/

/-- A kind of R234. -/
def kindKnown (k : Nat) : Bool :=
  (1 ≤ k && k ≤ 0x0A) || (0x10 ≤ k && k ≤ 0x12) || (0x20 ≤ k && k ≤ 0x23) || (0x30 ≤ k && k ≤ 0x32)

/-- A router or door that receives a packet of an unassigned kind discards it and reports a fabric error (R234). -/
def execUnassignedKind (cn : Nat) (kind : BitVec 6) (s : State) : Host.Outcome State Fault Refusal :=
  .next (if kindKnown kind.toNat then s
    else report { s with net := s.net.filter (fun p => !(p.dst == cn && p.body == .unknown kind)) } (loafOf cn) 3 cn false 0 0 0 0 0 0)

/-! ### Lanes (R123, R124) -/

/-- The link from the neighbour of a direction waits for a retrain: the lanes that ride it wait too (R240). -/
def laneHeld (s : State) (cn : Nat) (r : Dir) : Bool := (nbr cn r).any (fun m => (s.link m (dirBack r)).due)

/-- LANE_WORD_ARRIVAL: the oldest word on the link enters the buffer, if it is the owner launch's and the buffer has room. -/
def execLaneWordArrival (cn : Nat) (r : Dir) (s : State) : Host.Outcome State Fault Refusal :=
  .next (
    let c := s.core cn
    let l := c.lane r
    match l.link with
    | [] => s
    | w :: rest =>
      if w.launch != c.launch || 4 ≤ l.buf.length || laneHeld s cn r then s
      else
        let s := s.modLane cn r (fun l => { l with link := rest, buf := l.buf ++ [w] })
        let s := match nbr cn r with
          | some m => settleRels s m false
          | none => s
        matchLane s cn r)

/-- A credit of a launch joins its count, in the save frame where the launch is switched out. -/
def giveCredit (s : State) (cn launch : Nat) (r : Dir) : State :=
  let up (l : Lane) : Lane := { l with credits := l.credits + 1 }
  if (s.core cn).launch == launch then s.modLane cn r up
  else
    let i : Fin 4 := Fin.ofNat 4 (dirNum r)
    s.modFrame cn launch (fun f => { f with lanes := f.lanes.set i (up f.lanes[i]) })

/-- LANE_CREDIT_RETURN: the oldest credit on its way back arrives. -/
def execLaneCreditReturn (cn : Nat) (r : Dir) (s : State) : Host.Outcome State Fault Refusal :=
  .next (match ((s.core cn).lane r).back with
    | [] => s
    | k :: rest =>
      if laneHeld s cn r then s else giveCredit (s.modLane cn r (fun l => { l with back := rest })) cn k r)

end Sys2Proof.Machine
end

