-- ==== Sys2Proof/Machine/Flags.lean ====
section
/-! DEFINITION. The flags: VFLAG's sticky events (R155, R211), LaneWrite (R214), and the stochastic state SRSEED (R143,
R144). Scalar arithmetic has no flags (R111). -/

namespace Sys2Proof.Machine

open Sys2Proof

/-- Events are ORed into the issuing context's VFLAG (R155). -/
def State.raise (s : State) (ev : BitVec 6) : State := s.modCtx (fun c => { c with vflag := c.vflag ||| ev })

/-- Events are ORed into the VFLAG of a core's owner context (R155, R174). -/
def State.raiseOwner (s : State) (cn : Nat) (ev : BitVec 6) : State :=
  s.modCtxOf cn false (fun c => { c with vflag := c.vflag ||| ev })

/-- The joined events of a list. -/
def joinEv (l : List (BitVec 6)) : BitVec 6 := l.foldl (· ||| ·) 0

/-- LaneWrite of computed lanes into a row of a tile type (R214): the row's lanes and the events. -/
def writeLanes (dnz : Bool) (ty : TileType) (ls : List Conv) : List Nat × BitVec 6 :=
  let ws := ls.map (fun c => flushDnz dnz ty c.bits)
  (ws.map (·.1), joinEv (ls.map (·.ev)) ||| joinEv (ws.map (·.2)))

/-- A mode is stochastic: code 4 (R27). -/
def isSR (code : Nat) : Bool := code == 4

/-- The words of Step for `n` result elements, and the state after them; none is taken unless the mode is SR (R144). -/
def srWords (rnd : Nat) (x : BitVec 32) : Nat → List (BitVec 32) × BitVec 32
  | 0 => ([], x)
  | n + 1 =>
    if isSR rnd then
      let y := srStep x
      let (ws, z) := srWords rnd y n
      (y :: ws, z)
    else
      let (ws, z) := srWords rnd x n
      (0 :: ws, z)

end Sys2Proof.Machine
end

