-- ==== Sys2Proof/Machine/Local.lean ====
section
/-! DEFINITION. A core's own local memory: ldl, stl, ldl.v and stl.v (R90, R91). -/

namespace Sys2Proof.Machine

open Sys2Proof

/-- An uncorrectable error that a read meets is precise, with EVAL the access's offset (R82). -/
def localEcc (s : State) (off n : Nat) : Except Stop Unit :=
  need (lmBadIn s s.cur.core off n).isNone .eccUncorr (BitVec.ofNat 64 off)

/-- A plain store of the issuing core: bytes, then race tags (R83, R279). -/
def localStore (s : State) (off : Nat) (bs : List Byte) : State :=
  let s := lmWrite s s.cur.core off s.myLaunch bs
  lmMark s s.cur.core off bs.length s.cur.core s.myLaunch

/-- ldl (R90). -/
def execLdl (d a : SReg) (sz : LoadSize) (off : BitVec 13) (s : State) : Host.Outcome State Fault Refusal :=
  finish s (do
    let base ← readReg s a
    let n := szBytes sz
    let o ← localOff s (offSum base off) n n
    destFree s d
    orderOk s false
    ownDoor s o n
    waitBoard s o n
    localRace s o n o
    localEcc s o n
    let (s, bs) := lmRead s s.cur.core o s.myLaunch n
    .ok ((s.setReg d (extendSz sz (leNat bs))).advance 1))

/-- stl (R90). -/
def execStl (d a : SReg) (sz : StoreSize) (off : BitVec 13) (s : State) : Host.Outcome State Fault Refusal :=
  finish s (do
    let base ← readReg s a
    let n := stBytes sz
    let o ← localOff s (offSum base off) n n
    let v ← readReg s d
    orderOk s true
    ownDoor s o n
    waitBoard s o n
    localRace s o n o
    need (lmBadPart s s.cur.core o n).isNone .eccUncorr (BitVec.ofNat 64 o)
    .ok ((localStore s o (natLe n v.toNat)).advance 1))

/-- A row access of the issuing context at unit `m.done`: the context stays at the instruction (R83, R91). -/
def State.rowAt (s : State) (m : RowMove) : State := s.modCtx (fun c => { c with units := some m })

/-- A row access ends: the context moves past its instruction. -/
def State.rowEnd (s : State) (len : Nat) : State := (s.modCtx (fun c => { c with units := none })).advance len

/-- The next 16-byte unit of an ldl.v; the fourth writes the row (R83, R91). -/
def loadUnit (v : VReg) (len : Nat) (m : RowMove) (s : State) : Act := do
  let at_ := m.off + 16 * m.done
  localRace s at_ 16 m.off
  need (lmBadIn s s.cur.core at_ 16).isNone .eccUncorr (BitVec.ofNat 64 m.off)
  let (s, bs) := lmRead s s.cur.core at_ s.myLaunch 16
  let m : RowMove := ⟨m.off, m.done + 1, m.bytes ++ bs⟩
  if m.done == 4 then .ok ((s.setRow v (rowOfBytes m.bytes)).rowEnd len) else .ok (s.rowAt m)

/-- The next 16-byte unit of an stl.v (R83, R91). -/
def storeUnit (len : Nat) (m : RowMove) (s : State) : Act := do
  let at_ := m.off + 16 * m.done
  localRace s at_ 16 m.off
  let s := localStore s at_ ((m.bytes.drop (16 * m.done)).take 16)
  let m : RowMove := ⟨m.off, m.done + 1, m.bytes⟩
  if m.done == 4 then .ok (s.rowEnd len) else .ok (s.rowAt m)

/-- ldl.v at `base + add` (R91): the checks, then one unit at each turn of the context, in ascending order; other agents' accesses may
fall between the units (R83, R268). DESIGN CHOICE (log 165): a row that a loan bars is tested after ALIGN and the offset's LOCAL_RANGE, to which
R91 and R319 give its fault no rank. -/
def loadRow (v : VReg) (a : SReg) (add : Nat) (len : Nat) (s : State) : Act :=
  match s.ctx.units with
  | some m => loadUnit v len m s
  | none => do
    let base ← readReg s a
    let o ← localOff s (base.toNat + add : Nat) 64 64
    rowAllowed s v
    rowFree s v
    orderOk s false
    ownDoor s o 64
    waitBoard s o 64
    loadUnit v len ⟨o, 0, []⟩ s

/-- stl.v at `base + add` (R91): the row is read at issue, and one unit is written at each turn of the context, in ascending order; a
fault in one unit leaves the earlier ones written (R83, R268). A barred row is tested as in `loadRow` (log 165). -/
def storeRow (v : VReg) (a : SReg) (add : Nat) (len : Nat) (s : State) : Act :=
  match s.ctx.units with
  | some m => storeUnit len m s
  | none => do
    let base ← readReg s a
    let o ← localOff s (base.toNat + add : Nat) 64 64
    rowAllowed s v
    let bits ← readRow s v
    orderOk s true
    ownDoor s o 64
    waitBoard s o 64
    storeUnit len ⟨o, 0, rowBytes bits⟩ s

/-- ldl.v (R91). -/
def execLdlV (v : VReg) (a : SReg) (n : Fin 64) (s : State) : Host.Outcome State Fault Refusal :=
  finish s (loadRow v a (n.val * 64) 1 s)

/-- ldl.v, literal form (R91, R24): the literal is an unsigned byte offset. -/
def execLdlVLit (v : VReg) (a : SReg) (lit : Word) (s : State) : Host.Outcome State Fault Refusal :=
  finish s (loadRow v a lit.toNat 3 s)

/-- stl.v (R91). -/
def execStlV (v : VReg) (a : SReg) (n : Fin 64) (s : State) : Host.Outcome State Fault Refusal :=
  finish s (storeRow v a (n.val * 64) 1 s)

/-- stl.v, literal form (R91, R24). -/
def execStlVLit (v : VReg) (a : SReg) (lit : Word) (s : State) : Host.Outcome State Fault Refusal :=
  finish s (storeRow v a lit.toNat 3 s)

end Sys2Proof.Machine
end

