-- ==== Sys2Proof/Machine/Chanter.lean ====
section
/-! DEFINITION. The chanter: pattern programs, their legality and their sets (R189..R198, R204), and pload and pnnz (R205,
R206). A set is the list of its columns, each in ascending order of row. -/

namespace Sys2Proof.Machine

open Sys2Proof

/-! ### Decoding (R191, R192, R195, R196) -/

/-- A 16-bit field as two's complement. -/
def s16 (x : Nat) : Int := sgn 16 x

/-- Which fields a pattern opcode uses: PA, PB, and the bits of IMM (R192). DEDUCED (log 134): the bitmap form of `stor` uses FORM alone, as its
PB, MC, N and TT are zero (R192), so that one of them raises reason 2, though the row of the table names all of IMM[14:8]. -/
def patFields (po w : Nat) : Bool × Bool × Nat :=
  match po with
  | 1 | 3 | 4 | 5 | 12 => (true, false, 0)
  | 2 | 13 => (true, true, 0)
  | 6 => if w.testBit 14 then (true, w.testBit 8, 0x7F00) else (true, false, 0x4000)
  | 11 => (true, true, 0x3F)
  | 14 => (false, false, 0x1FF)
  | _ => (false, false, 0)

/-- Every field that the instruction does not use is zero (R191 item 2). -/
def patClean (po w : Nat) : Bool :=
  let (a, b, m) := patFields po w
  (a || bitsOf w 23 4 == 0) && (b || bitsOf w 19 4 == 0) && (List.range 19).all (fun i => m.testBit i || !w.testBit i)

/-- The M of a numbered form (R192). -/
def nmM (mc : Nat) : Nat := 4 * 2 ^ mc

/-- The pairs of R196. -/
def nmPair (n mc : Nat) : Bool :=
  match mc with
  | 0 => n == 1 || n == 2
  | 1 | 2 => decide (1 ≤ n) && decide (n ≤ 4)
  | _ => false

/-- A kron's mask rows lie within p and q (R192). -/
def kronRows (a b : Nat) : List (BitVec 8) :=
  (List.range 4).map (fun r => BitVec.ofNat 8 (bitsOf a (8 * r) 8)) ++
    (List.range 4).map (fun r => BitVec.ofNat 8 (bitsOf b (8 * r) 8))

/-- A decoded word: none for `end`; its parameters within their limits, or reason 5 (R191, R192, R196). -/
def patOperands (po w a b nrow : Nat) : Except Nat (Option Pat) :=
  let ok (t : Bool) (p : Pat) : Except Nat (Option Pat) := if t then .ok (some p) else .error 5
  let lo (x : Nat) : Nat := bitsOf x 0 16
  let hi (x : Nat) : Nat := bitsOf x 16 16
  match po with
  | 0 => .ok none
  | 1 => .ok (some (.band (s16 (lo a)) (s16 (hi a))))
  | 2 => ok (decide (1 ≤ hi a) && decide (1 ≤ lo b) && hi b == 0) (.dil (s16 (lo a)) (hi a) (lo b))
  | 3 => ok (decide (1 ≤ lo a) && decide (1 ≤ hi a)) (.bdiag (lo a) (hi a))
  | 4 => .ok (some (.hash a))
  | 5 => ok (decide (1 ≤ bitsOf a 0 8) && bitsOf a 8 24 == 0) (.walk (bitsOf a 0 8))
  | 6 =>
    if w.testBit 14 then
      let n := bitsOf w 9 3
      let mc := bitsOf w 12 2
      let tt := w.testBit 8
      ok (hi a == 0 && nmPair n mc && nrow % nmM mc == 0 && (!tt || lo b % 8 == 0))
        (.storNm n (nmM mc) (lo a) (if tt then some (lo b) else none))
    else ok (hi a == 0 && lo a % 16 == 0) (.storBm (lo a))
  | 7 => .ok (some .full)
  | 8 => .ok (some .uni)
  | 9 => .ok (some .isect)
  | 10 => .ok (some .diff)
  | 11 =>
    let p := bitsOf w 3 3 + 1
    let q := bitsOf w 0 3 + 1
    let rows := kronRows a b
    ok ((List.range 8).all (fun r => let m := (rows.getD r 0).toNat
      (decide (r < p) || m == 0) && m / 2 ^ q == 0)) (.kron p q rows)
  | 12 => .ok (some (.shft (s16 (lo a)) (s16 (hi a))))
  | 13 => .ok (some (.clip (lo a) (hi a) (lo b) (hi b)))
  | 14 => ok (decide (1 ≤ bitsOf w 0 9)) (.lim (bitsOf w 0 9))
  | 15 => .ok (some .swap)
  | _ => .error 1

/-- One word against its parameters: reasons 1, 2 and 5 in that order (R191). -/
def patWord (par : List Word32) (nrow : Nat) (w : Word32) : Except Nat (Option Pat) :=
  let n := w.toNat
  let po := bitsOf n 27 5
  if 16 ≤ po then .error 1
  else if !patClean po n then .error 2
  else patOperands po n (par.getD (bitsOf n 23 4) 0).toNat (par.getD (bitsOf n 19 4) 0).toNat nrow

/-- Sets that an instruction pops; each pushes one (R192). -/
def Pat.pops : Pat → Nat
  | .uni | .isect | .diff => 2
  | .kron .. | .shft .. | .clip .. | .lim _ | .swap => 1
  | .band .. | .dil .. | .bdiag .. | .hash _ | .walk _ | .storBm _ | .storNm .. | .full => 0

/-- The words of a program from word `k` on a stack of `depth` sets: the instructions with their word numbers, or a reason and
the word (R191). -/
def patProgram (par : List Word32) (nrow : Nat) : Nat → Nat → List Word32 → Except (Nat × Nat) (List (Nat × Pat))
  | _, _, [] => .error (4, 0)
  | k, depth, w :: rest =>
    match patWord par nrow w with
    | .error r => .error (r, k)
    | .ok none => if depth == 1 then .ok [] else .error (4, k)
    | .ok (some p) =>
      if depth < p.pops || 4 < depth - p.pops + 1 then .error (3, k)
      else match patProgram par nrow (k + 1) (depth - p.pops + 1) rest with
        | .error e => .error e
        | .ok l => .ok ((k, p) :: l)

/-- A word that makes a program non-invertible (R197). -/
def Pat.oneWay : Pat → Bool
  | .walk _ | .lim _ => true
  | .storNm _ _ _ tt => tt.isNone
  | .band .. | .dil .. | .bdiag .. | .hash _ | .storBm _ | .full | .uni | .isect | .diff | .kron .. | .shft ..
  | .clip .. | .swap => false

/-! ### Sets (R192..R196) -/

/-- A set of positions by column. -/
abbrev PatSet := List (List Nat)

/-- Membership. -/
def PatSet.mem (x : PatSet) (i j : Nat) : Bool := (x.getD j []).contains i

/-- The members of U that satisfy a test. -/
def patSetOf (nrow ncol : Nat) (p : Nat → Nat → Bool) : PatSet :=
  (List.range ncol).map (fun j => (List.range nrow).filter (fun i => p i j))

/-- Mix (R193). -/
def mix (i j s : BitVec 32) : BitVec 32 :=
  let x := s ^^^ (i * 0x9E3779B1#32) ^^^ (j * 0x85EBCA6B#32)
  let x := (x ^^^ (x >>> 16)) * 0x7FEB352D#32
  let x := (x ^^^ (x >>> 15)) * 0x846CA68B#32
  x ^^^ (x >>> 16)

/-- WalkColumn from row `i` (R194); `n` bounds the members. -/
def walkColumn (j g : Nat) (seed : BitVec 32) (nrow : Nat) : Nat → Nat → List Nat
  | 0, _ => []
  | n + 1, i =>
    if nrow ≤ i then []
    else i :: walkColumn j g seed nrow n (i + 1 + (mix (BitVec.ofNat 32 i) (BitVec.ofNat 32 j) seed).toNat % g)

/-- Unrank (R196): positions of the n-th subset of `k` of the numbers p..m − 1. -/
def unrank (m : Nat) : Nat → Nat → Nat → Nat → List Nat
  | 0, _, _, _ => []
  | fuel + 1, p, k, n =>
    if k == 0 || m ≤ p then []
    else
      let c := Nat.choose (m - p - 1) (k - 1)
      if c ≤ n then unrank m fuel (p + 1) k (n - c) else p :: unrank m fuel (p + 1) (k - 1) n

/-- Width of a number of C(M, N) values (R196). -/
def rankBits (m n : Nat) : Nat := ((List.range 12).find? (fun w => Nat.choose m n ≤ 2 ^ w)).getD 0

/-- A little-endian field of copied metadata. -/
def mdNat (md : List Host.Cell) (off n : Nat) : Nat := leNat (cellRead md off n)

/-- `w` bits at bit `t` of a stream that starts at `off` (R196). -/
def mdBits (md : List Host.Cell) (off t w : Nat) : Nat := bitsOf (mdNat md (off + t / 8) 3) (t % 8) w

/-- Chunks per column of a bitmap form (R195). -/
def bmChunks (nrow : Nat) : Nat := (nrow + 127) / 128

/-- The bitmap of column j, 128 bits a chunk (R195). -/
def bmColumn (md : List Host.Cell) (mo nrow j : Nat) : Nat := mdNat md (mo + j * bmChunks nrow * 16) (bmChunks nrow * 16)

/-- The number of column j, group g (R196). -/
def nmNumber (md : List Host.Cell) (mo n m nrow j g : Nat) : Nat :=
  let w := rankBits m n
  mdBits md mo ((j * (nrow / m) + g) * w) w

/-- Column j of a numbered form. -/
def nmColumn (md : List Host.Cell) (mo n m nrow j : Nat) : List Nat :=
  (List.range (nrow / m)).flatMap (fun g => (unrank m m 0 n (nmNumber md mo n m nrow j g)).map (g * m + ·))

/-- One instruction on the stack, top first (R192). -/
def patEval (nrow ncol : Nat) (seed : BitVec 32) (md : List Host.Cell) (p : Pat) (st : List PatSet) : List PatSet :=
  let u := patSetOf nrow ncol
  let zi (x : Nat) : Int := x
  let one (f : PatSet → PatSet) : List PatSet := match st with
    | a :: rest => f a :: rest
    | [] => []
  let two (f : PatSet → PatSet → Nat → Nat → Bool) : List PatSet := match st with
    | b :: a :: rest => u (f a b) :: rest
    | _ => st
  match p with
  | .band lo hi => u (fun i j => decide (lo ≤ zi i - zi j) && decide (zi i - zi j ≤ hi)) :: st
  | .dil off d n =>
    u (fun i j => let x := zi i - zi j - off
      decide (0 ≤ x) && x % (d : Int) == 0 && decide (x / (d : Int) < n)) :: st
  | .bdiag bh bw => u (fun i j => i / bh == j / bw) :: st
  | .hash t => u (fun i j => decide ((mix (BitVec.ofNat 32 i) (BitVec.ofNat 32 j) seed).toNat < t)) :: st
  | .walk g =>
    (List.range ncol).map (fun j =>
      walkColumn j g seed nrow nrow ((mix 0xFFFFFFFF#32 (BitVec.ofNat 32 j) seed).toNat % g)) :: st
  | .storBm mo =>
    (List.range ncol).map (fun j => (List.range nrow).filter (fun i => (bmColumn md mo nrow j).testBit i)) :: st
  | .storNm n m mo _ => (List.range ncol).map (fun j => nmColumn md mo n m nrow j) :: st
  | .full => u (fun _ _ => true) :: st
  | .uni => two (fun a b i j => a.mem i j || b.mem i j)
  | .isect => two (fun a b i j => a.mem i j && b.mem i j)
  | .diff => two (fun a b i j => a.mem i j && !b.mem i j)
  | .kron p q rows => one (fun a => u (fun i j => a.mem (i / p) (j / q) && (rows.getD (i % p) 0).getLsbD (j % q)))
  | .shft di dj =>
    one (fun a => u (fun i j => let x := zi i - di
      let y := zi j - dj
      decide (0 ≤ x) && decide (0 ≤ y) && a.mem x.toNat y.toNat))
  | .clip r0 r1 c0 c1 =>
    one (fun a => u (fun i j => a.mem i j && decide (r0 ≤ i) && decide (i ≤ r1) && decide (c0 ≤ j) && decide (j ≤ c1)))
  | .lim n => one (fun a => a.map (·.take n))
  | .swap => one (fun a => u (fun i j => a.mem j i))

/-! ### Bindings (R189, R197, R198) -/

/-- Members of a set. -/
def Binding.total (b : Binding) : Nat := b.cols.foldl (fun n c => n + c.length) 0

/-- The value index of a member (R198). -/
def Binding.q (b : Binding) (i j : Nat) : Nat :=
  (b.cols.take j).foldl (fun n c => n + c.length) 0 + ((b.cols.getD j []).filter (· < i)).length

/-- Row i in ascending order of column (R198). -/
def Binding.rowOf (b : Binding) (i : Nat) : List Nat := (List.range b.ncol).filter (fun j => (b.cols.getD j []).contains i)

/-- A reed's binding of one side. -/
def Reed.binding (r : Reed) (east : Bool) : Option Binding := if east then r.be else r.bw

/-- EVAL of a pattern fault (R204). -/
def patVal (reason word col reed : Nat) : Word :=
  BitVec.ofNat 64 (reason * 2 ^ 56 + word % 16 * 2 ^ 52 + col % 64 * 2 ^ 46 + reed % 65536)

/-- Bytes that a stored form takes from local memory, as offset and length (R195, R196). -/
def Pat.areas (nrow ncol : Nat) : Pat → List (Nat × Nat)
  | .storBm mo => [(mo, ncol * bmChunks nrow * 18)]
  | .storNm n m mo tt =>
    (mo, (ncol * (nrow / m) * rankBits m n + 7) / 8) ::
      (match tt with
       | some t => [(t, 8 * nrow)]
       | none => [])
  | _ => []

/-- The metadata of a stored form is consistent (R195, R196). -/
def Pat.consistent (nrow ncol : Nat) (md : List Host.Cell) : Pat → Bool
  | .storBm mo =>
    let h := bmChunks nrow
    let chunk (k : Nat) : Nat := mdNat md (mo + k * 16) 16
    (List.range ncol).all (fun j => bmColumn md mo nrow j / 2 ^ nrow == 0) &&
      (List.range (ncol * h)).all (fun k => mdNat md (mo + ncol * h * 16 + 2 * k) 2 ==
        (List.range k).foldl (fun n x => n + popc 128 (chunk x)) 0)
  | .storNm n m mo tt =>
    (List.range ncol).all (fun j => (List.range (nrow / m)).all (fun g =>
      decide (nmNumber md mo n m nrow j g < Nat.choose m n))) &&
    (match tt with
     | none => true
     | some t =>
       let cols := (List.range ncol).map (fun j => nmColumn md mo n m nrow j)
       (List.range nrow).all (fun i => (List.range 64).all (fun j =>
         (mdNat md (t + 8 * i) 8).testBit j == (decide (j < ncol) && (cols.getD j []).contains i))))
  | _ => true

/-- An area of local memory read as an ldl reads it (R205): the context's own requests, the scoreboard, the race check and the ECC check. DESIGN
CHOICE (log 167): EVAL of MM_RACE and ECC_UNCORR is the area's first offset, since R205 gives pload's reads no width. -/
def patRead (s : State) (off n : Nat) : Except Stop (State × List Byte) := do
  ownDoor s off n
  waitBoard s off n
  localRace s off n off
  localEcc s off n
  .ok (lmRead s s.cur.core off s.myLaunch n)

/-- The areas of a stored form are checked (R205). -/
def patInside (s : State) : List (Nat × Nat) → Except Stop Unit
  | [] => .ok ()
  | (off, n) :: rest => do
    need (areaOk s off n) .localRange (BitVec.ofNat 64 off)
    patInside s rest

/-- Metadata copied area by area. -/
def patAreas (s : State) : List (Nat × Nat) → List Host.Cell → Except Stop (State × List Host.Cell)
  | [], md => .ok (s, md)
  | (off, n) :: rest, md => do
    let (s, bs) ← patRead s off n
    patAreas s rest (cellWrite md off bs)

/-- Each stored form of a program in turn: its areas are checked, waited for and copied (R205). -/
def patCopy (s : State) (nrow ncol : Nat) : List (Nat × Pat) → List Host.Cell → Except Stop (State × List Host.Cell)
  | [], md => .ok (s, md)
  | (_, p) :: rest, md => do
    let as := p.areas nrow ncol
    patInside s as
    let (s, md) ← patAreas s as md
    patCopy s nrow ncol rest md

/-- The copied metadata is consistent, form by form (R189, R195, R196). Every form's areas count toward 6 KiB, also where two forms name the
same bytes, and the form whose areas pass 6 KiB is the word at fault: DESIGN CHOICE, the specification says neither (log 133). -/
def patSound (nrow ncol reed : Nat) (md : List Host.Cell) : List (Nat × Pat) → Nat → Except Stop Unit
  | [], _ => .ok ()
  | (k, p) :: rest, size => do
    let size := (p.areas nrow ncol).foldl (fun n a => n + a.2) size
    need (decide (size ≤ 6144) && p.consistent nrow ncol md) .patternIllegal (patVal 6 k 0 reed)
    patSound nrow ncol reed md rest size

/-- The stored forms of a program: all are copied before any is checked for reason 6 (R205). -/
def patStored (s : State) (nrow ncol reed : Nat) (ps : List (Nat × Pat)) : Except Stop (State × List Host.Cell) := do
  let (s, md) ← patCopy s nrow ncol ps []
  patSound nrow ncol reed md ps 0
  .ok (s, md)

/-- The reed and side of a direction, for an instruction of the owner context (R16, R160). -/
def reedSide (s : State) (r : Dir) (w : Word) : Except Stop (Nat × Bool) := do
  ownerOnly s w
  match reedOf s.cur.core r with
  | none => .error (.trap .illegalOp w)
  | some x => .ok x

/-- pload (R205). -/
def execPload (d a b : SReg) (r : Dir) (s : State) : Host.Outcome State Fault Refusal :=
  finish s (do
    let (reed, east) ← reedSide s r (firstWord (.pload d a b r))
    let sa ← readReg s a
    let sb ← readReg s b
    need (sa.toNat % 64 == 0) .align sa
    need (sb.toNat % 64 == 0) .align sb
    need (areaOk s sa.toNat 64) .localRange sa
    need (areaOk s sb.toNat 64) .localRange sb
    destFree s d
    orderOk s false
    waitBoard s sa.toNat 64
    waitBoard s sb.toNat 64
    let (s, bp) ← patRead s sa.toNat 64
    let (s, bq) ← patRead s sb.toNat 64
    let prog := wordsOfBytes bp
    let par := wordsOfBytes bq
    let p0 := (par.getD 0 0).toNat
    let nrow := bitsOf p0 0 10
    let ncol := bitsOf p0 16 6 + 1
    need (bitsOf p0 22 10 == 0 && bitsOf p0 10 6 == 0 && decide (1 ≤ nrow) && decide (nrow ≤ 512)) .patternIllegal
      (patVal 11 0 0 reed)
    match patProgram par nrow 0 0 prog with
    | .error (reason, k) => .error (.trap .patternIllegal (patVal reason k 0 reed))
    | .ok ps => do
      let (s, md) ← patStored s nrow ncol reed ps
      let seed := par.getD 1 0
      let st := ps.foldl (fun st p => patEval nrow ncol seed md p.2 st) []
      let bd : Binding :=
        { prog := prog, par := par, md := md, nrow := nrow, ncol := ncol, inv := !ps.any (fun p => p.2.oneWay),
          cols := st.headD [], launch := s.myLaunch }
      let s := s.modReed reed (fun x => if east then { x with be := some bd } else { x with bw := some bd })
      .ok ((s.setReg d (BitVec.ofNat 64 bd.total)).advance 1))

/-- pnnz (R206). -/
def execPnnz (d a : SReg) (r : Dir) (s : State) : Host.Outcome State Fault Refusal :=
  finish s (do
    let (reed, east) ← reedSide s r (firstWord (.pnnz d a r))
    let x ← readReg s a
    destFree s d
    let v : Word := match (s.reed reed).binding east with
      | none => all1
      | some b =>
        if x.toNat < b.ncol then BitVec.ofNat 64 (b.cols.getD x.toNat []).length
        else if x.toNat == 0xFFFF then BitVec.ofNat 64 b.total
        else if b.inv && decide (0x10000 ≤ x.toNat) && decide (x.toNat < 0x10000 + b.nrow) then
          BitVec.ofNat 64 (b.rowOf (x.toNat - 0x10000)).length
        else all1
    .ok ((s.setReg d v).advance 1))

end Sys2Proof.Machine
end

