-- ==== Sys2Proof/Machine/Power.lean ====
section
/-! DEFINITION. Power: the module's windows and the charges of launches (R350, R351, R356, R357), the throttle step (R352, R353)
and the ramp limiter (R354, R355). -/

namespace Sys2Proof.Machine

open Sys2Proof

/-! ### The throttle -/

/-- The cycle of a loaf's counter. -/
def loafCycle (s : State) (l : Nat) : Nat := s.now + Config.loafPhase l

/-- An allowed cycle of step `n` (R353). -/
def allowedAt (n c : Nat) : Bool := (c % 16) * (16 - n) / 16 < (c % 16 + 1) * (16 - n) / 16

/-- Allowed cycles of step `n` below cycle `c` (R353): 16 − n in every 16. -/
def allowedBelow (n c : Nat) : Nat := c / 16 * (16 - n) + (c % 16) * (16 - n) / 16

/-- Allowed cycles of a loaf below a cycle `c` that its present step reaches back to: those under earlier steps, and those of the step in
force (R352, R353). -/
def Loaf.allowedBy (l : Loaf) (c : Nat) : Nat := l.allowed + allowedBelow l.step c - allowedBelow l.step l.stepAt

/-- Allowed cycles of a loaf up to and with the present one. -/
def allowedNow (s : State) (l : Nat) : Nat := (s.loaf l).allowedBy (loafCycle s l + 1)

/-- The throttle grants a row start of a reed `i` cycles from now, at the step in force (R353): in an allowed cycle, once 8 allowed cycles have
passed since the reed's previous row start. -/
def throttleAt (s : State) (l : Nat) (r : Reed) (i : Nat) : Bool :=
  let c := loafCycle s l + i
  allowedAt (s.loaf l).step c && (r.last.isNone || decide (r.allow + 8 ≤ (s.loaf l).allowedBy (c + 1)))

/-- The throttle grants a row start of a reed now (R353). -/
def throttleOk (s : State) (l : Nat) (r : Reed) : Bool := throttleAt s l r 0

/-- Rows of its sink that a product delivers to. -/
def Product.targets (p : Product) (sparse : Bool) (v : VReg) : Bool :=
  (sparse || v.val / 16 == p.feed.tile.val) && decide (p.feed.row0 ≤ v.val % 16) && decide (v.val % 16 < p.feed.row0 + p.feed.m)

/-! ### The ramp limiter -/

/-- Row starts of the current aligned period of 8 cycles (R355). -/
def octetStarts (s : State) (l : Nat) : Nat := if (s.loaf l).octet == s.now / 8 then (s.loaf l).starts else 0

/-- Row starts that the level still grants in this period (R355); with EN = 0 the level stands at 16. -/
def rampRoom (s : State) (l : Nat) : Nat := 256 * (if (s.loaf l).rampEn then (s.loaf l).g else 16) - octetStarts s l

/-- Filler rows ran in a period of `starts` row starts (R355). -/
def Loaf.fills (x : Loaf) (starts : Nat) : Bool := x.rampEn && decide (2 ≤ x.g) && decide (starts < 256 * (x.g - 1))

/-- The periods that are over are closed: their filler rows are noted for RAMPING (R351, R355). -/
def closeOctets (s : State) (l : Nat) : State :=
  let o := s.now / 8
  s.modLoaf l (fun x =>
    if x.octet == o then x
    else { x with heldWin := x.heldWin || x.fills x.starts || (decide (x.octet + 1 < o) && x.fills 0),
                  octet := o, starts := 0, prevReed := x.lastReed })

/-- A row start is counted (R355). -/
def countStart (s : State) (l reed : Nat) : State :=
  (closeOctets s l).modLoaf l (fun x =>
    { x with starts := x.starts + 1, most := Nat.max x.most (x.starts + 1), lastReed := reed })

/-- The last reed granted before the present period (R355). -/
def lastGranted (s : State) (l : Nat) : Nat := if (s.loaf l).octet == s.now / 8 then (s.loaf l).prevReed else (s.loaf l).lastReed

/-- A row start is withheld by the level (R355). -/
def withhold (s : State) (l : Nat) : State := s.modLoaf l (fun x => { x with held := true, heldWin := true })

/-- RAMP_PERIOD: the end of a PERIOD of a loaf (R355); the next one begins now. -/
def execRampPeriod (loaf : Nat) (s : State) : Host.Outcome State Fault Refusal :=
  let x := s.loaf loaf
  .next (if loaf < 8 && decide (x.perStart + x.period ≤ s.now) then
    let target := (x.most + 255) / 256
    let g := if !x.rampEn then 16 else if x.held then Nat.min (x.g + 1) 16 else Nat.max (x.g - 1) target
    (closeOctets s loaf).modLoaf loaf (fun x => { x with perStart := s.now, g := g, held := false, most := 0 })
  else s)

/-- THROTTLE_STEP_CHANGE: a loaf takes its new step in a cycle whose count is a multiple of 16 (R352). -/
def execThrottleStepChange (loaf : Nat) (s : State) : Host.Outcome State Fault Refusal :=
  .next (if loaf < 8 && loafCycle s loaf % 16 == 0 then
    let c := loafCycle s loaf
    s.modLoaf loaf (fun x => { x with allowed := x.allowedBy c, stepAt := c, step := Nat.max x.floor s.crust.cstep })
  else s)

/-! ### The module's windows -/

/-- The controller at the end of a window whose average is `avg` W and `mw` mW, of which POWER shows the whole watts (R350, R351). -/
def powerStep (c : Crust) (avg mw now : Nat) : Crust :=
  let above := decide (1000 * c.limit < 1000 * avg + mw % 1000)
  let below := decide ((1000 * avg + mw % 1000) * 100 < 1000 * c.limit * 95)
  let run := if c.cstep == 15 && above then c.overRun + 1 else 0
  { c with power := avg, above := above, overRun := run,
           cstep := if above then Nat.min (c.cstep + 1) 15 else if below then c.cstep - 1 else c.cstep,
           cap := if below then false else c.cap || decide (50 ≤ run),
           limit := c.nextLim, windowAt := now }

/-- RAMPING of a loaf at the end of a window: the limiter withheld or filled a row start in it (R351). A period that the window's end cuts
belongs to the next one (log 85). -/
def closeWindow (s : State) (l : Nat) : State :=
  (closeOctets s l).modLoaf l (fun x => { x with ramping := x.heldWin, heldWin := false })

/-- POWER_WINDOW: the end of a 2 µs window and its average (R350); the next one begins now. -/
def execPowerWindow (avg mw : Nat) (s : State) : Host.Outcome State Fault Refusal :=
  .next (if s.crust.windowAt + 2000 ≤ s.now then
    ((List.range 8).foldl closeWindow s).modCrust (fun c => powerStep c avg mw s.now)
  else s)

/-! ### Energy (R356, R357) -/

/-- An event's energy is charged to a launch; where that changes whether it is over budget, its queues follow (R304, R357). -/
def charge (s : State) (launch amount : Nat) : State :=
  let t := s.modLaunch launch (fun l => { l with energy := l.energy + amount })
  if (s.launch launch).map Launch.over == (t.launch launch).map Launch.over then t else refreshLaunch t launch

end Sys2Proof.Machine
end

