-- ==== Sys2Proof/Machine/Reed.lean ====
section
/-! DEFINITION. Reeds and sinks (spec/07), with what a sparse latch changes (R199..R203): commands, side queues and generations,
row starts and pass partials, deliveries, arms and their summation order, faults and aborts. -/

namespace Sys2Proof.Machine

open Sys2Proof

/-! ### Formats and operands (R161..R163, R199) -/

/-- Native pass depth of a format (R161). -/
def passDepth (fmt : Nat) : Nat :=
  match fmt with
  | 0 | 1 => 128
  | 2 | 3 | 7 => 256
  | 4 | 5 => 320
  | 6 | 8 => 512
  | _ => 1024

/-- An integer format of a reed. -/
def intFmt (fmt : Nat) : Bool := fmt == 7 || fmt == 8

/-- Pass depth of a pair, or none where it is refused (R161, R162). -/
def pairDepth (h f : Nat) : Option Nat :=
  if intFmt h == intFmt f then some (Nat.min (passDepth h) (passDepth f)) else none

/-- Value bytes of K elements (R162). -/
def usedBytes (fmt k : Nat) : Nat := if fmt == 9 then k / 4 else k * codeBits fmt / 8

/-- Bytes of the packed values of a sparse operand (R199). -/
def sparseBytes (fmt : Nat) (b : Binding) : Nat := (b.total * codeBits fmt + 7) / 8

/-- COLS and SCL of a command, with the checks of R163 over areas of `nv` and `ns` bytes (R163, R199). -/
def operandAreas (s : State) (x : Word) (nv ns : Nat) : Except Stop (Nat × Nat) := do
  let cols := bitsOf x.toNat 0 16
  let scl := bitsOf x.toNat 16 16
  need (bitsOf x.toNat 32 32 == 0) .localRange x
  need (cols % 32 == 0) .align (BitVec.ofNat 64 cols)
  need (scl % 32 == 0) .align (BitVec.ofNat 64 scl)
  need (areaOk s cols nv) .localRange (BitVec.ofNat 64 cols)
  need (areaOk s scl ns) .localRange (BitVec.ofNat 64 scl)
  .ok (cols, scl)

/-- Serial order of generations (R166). -/
def ahead (x y : BitVec 16) : Bool := let d := (x - y).toNat; 1 ≤ d && d ≤ 32767

/-- EVAL of an asynchronous reed fault (R178). -/
def reedVal (reason kb row tile gen reed : Nat) : Word :=
  BitVec.ofNat 64 (reason * 2 ^ 56 + kb % 4096 * 2 ^ 44 + row % 16 * 2 ^ 40 + tile % 4 * 2 ^ 38 + gen % 65536 * 2 ^ 16
    + reed % 65536)

/-! ### Queues, parties and waits (R159, R175, R180, R181) -/

/-- One side's queue. -/
def Reed.queue (r : Reed) (east : Bool) : List RCmd := if east then r.qe else r.qw

/-- A reed with one side's queue replaced. -/
def Reed.setQueue (r : Reed) (east : Bool) (q : List RCmd) : Reed := if east then { r with qe := q } else { r with qw := q }

/-- The side of a reed on which a core sits. -/
def reedSideOf (reed core : Nat) : Bool := reedEnd reed true == core

/-- The launch of a party is switched out of its core (R180). -/
def switchedOut (s : State) (core launch : Nat) : Bool := (s.core core).launch != launch

/-- The product or latch of a reed is parked: a party's launch is switched out (R180). -/
def reedParked (s : State) (r : Reed) : Bool :=
  (r.latch.state != .empty && r.latch.state != .spent && switchedOut s r.latch.core r.latch.launch) ||
    (match r.run with
     | some p =>
       (match p.cmd.body with
        | .inr f => switchedOut s p.cmd.core p.cmd.launch || switchedOut s f.sink p.cmd.launch
        | .inl _ => false)
     | none => false)

/-- The reed serves another launch (R181). -/
def reedForeign (r : Reed) (launch : Nat) : Bool :=
  (r.latch.state != .empty && r.latch.launch != launch) || r.run.any (fun p => p.cmd.launch != launch)

/-- The command at the head of a side is under way: it is loading the latch, or it is the running feed. -/
def Reed.going (r : Reed) (east : Bool) : Bool :=
  match r.queue east with
  | [] => false
  | c :: _ =>
    (match c.body with
     | .inl l => r.latch.state == .loading && r.latch.side == east && r.latch.core == c.core && r.latch.launch == c.launch
         && r.latch.cmd == l
     | .inr _ => false) || r.run.any (fun p => p.cmd.id == c.id)

/-- A wait's clock runs, or keeps what it has counted (R175). -/
def clock (now : Nat) (runs : Bool) (waited : Nat) (since : Option Nat) : Nat × Option Nat :=
  match since, runs with
  | some t, false => (waited + (now - t), none)
  | none, true => (waited, some now)
  | x, _ => (waited, x)

/-- A head's wait counts: its launch is not switched out, and it is no party of a product that is parked for another party (R175, R180); a
command of another launch behind a parked product counts (R181). -/
def headCounts (s : State) (r : Reed) (c : RCmd) : Bool :=
  !switchedOut s c.core c.launch && (!reedParked s r || reedForeign r c.launch)

/-- The clocks of a reed's heads and deferred deliveries follow what is parked (R175, R180). -/
def retime (s : State) (reed : Nat) : State :=
  let r := s.reed reed
  let parked := reedParked s r
  let head (q : List RCmd) : List RCmd := match q with
    | [] => []
    | c :: rest =>
      let (w, t) := clock s.now (headCounts s r c) c.waited c.since
      { c with waited := w, since := t } :: rest
  let slot (o : OSlot) : OSlot :=
    let (w, t) := clock s.now (o.defer.isSome && !parked && !switchedOut s o.del.sink o.del.launch) o.waited o.since
    { o with waited := w, since := t }
  s.modReed reed (fun r => { r with qw := head r.qw, qe := head r.qe, obuf := r.obuf.map slot })

/-- Cycles that a wait has lasted. -/
def waitedFor (now waited : Nat) (since : Option Nat) : Nat := waited + (match since with
  | some t => now - t
  | none => 0)

/-- The object of a party's command, written by the reed (R97). -/
def reedObj (s : State) (core launch obj status cause count : Nat) : State :=
  engineObj s core false launch obj status cause count []

/-- An asynchronous fault of a party (R178). -/
def reedFault (s : State) (core launch : Nat) (c : Cause) (val : Word) : State := asyncFault s core false ⟨launch, c, 0, val⟩

/-! ### Instructions at issue (R183..R186) -/

/-- The places of an rset with a binding (R199, R200). -/
def sparseChecks (s : State) (x : Word) (fmt ncol1 : Nat) (tr : Bool) (reed : Nat) (b : Option Binding) :
    Except Stop (Nat × Nat) :=
  match b with
  | none => .error (.trap .patternIllegal (patVal 7 0 0 reed))
  | some b => do
    need (ncol1 + 1 == b.ncol) .patternIllegal (patVal 8 0 0 reed)
    let p ← operandAreas s x (sparseBytes fmt b) ((b.nrow + 31) / 32)
    need (!tr || b.inv) .patternNoninv (patVal 0 0 0 reed)
    need (decide (b.nrow ≤ passDepth fmt)) .patternIllegal (patVal 9 0 0 reed)
    (match (List.range b.ncol).find? (fun j => passDepth fmt / 4 < (b.cols.getD j []).length) with
     | some j => .error (.trap .patternIllegal (patVal 9 0 j reed))
     | none => .ok ())
    need (!tr || decide (b.nrow ≤ 64)) .patternIllegal (patVal 10 0 0 reed)
    .ok p

/-- A command joins its side's queue (R159). -/
def pushCmd (s : State) (reed : Nat) (east : Bool) (body : LoadCmd ⊕ FeedCmd) : State :=
  let (s, id) := s.newId
  let c : RCmd := { core := s.cur.core, launch := s.myLaunch, id := id, body := body, waited := 0, since := none }
  retime (s.modReed reed (fun r => r.setQueue east (r.queue east ++ [c]))) reed

/-- rset (R183). -/
def execRset (d a : SReg) (gen : BitVec 16) (fmt : Fin 16) (r : Dir) (sp tr : Bool) (uses : BitVec 8) (ncol1 : Fin 64)
    (s : State) : Host.Outcome State Fault Refusal :=
  finish s (do
    let (reed, east) ← reedSide s r (firstWord (.rset d a gen fmt r sp tr uses ncol1))
    need (decide (fmt.val < 9)) .reedFormat (BitVec.ofNat 64 fmt.val)
    let obj ← readReg s d
    let x ← readReg s a
    let o ← objOk s obj
    let bind := if sp then (s.reed reed).binding east else none
    let (cols, scl) ← if sp then sparseChecks s x fmt.val ncol1.val tr reed bind
      else operandAreas s x (256 * (ncol1.val + 1)) (32 * (ncol1.val + 1))
    waitFor (decide (((s.reed reed).queue east).length < 2)) none
    let s ← startObj s o
    .ok ((pushCmd s reed east (.inl
      { gen := gen, fmt := fmt.val, uses := uses.toNat, ncol := ncol1.val + 1, sp := sp, tr := tr, cols := cols, scl := scl,
        obj := o, bind := bind })).advance 3))

/-- rfeed (R184). -/
def execRfeed (d a b : SReg) (gen : BitVec 16) (fmt : Fin 16) (r : Dir) (kb : BitVec 12) (t : TileNo) (row0 m1 : Fin 16)
    (s : State) : Host.Outcome State Fault Refusal :=
  finish s (do
    let (reed, east) ← reedSide s r (firstWord (.rfeed d a b gen fmt r kb t row0 m1))
    need (decide (fmt.val < 10)) .reedFormat (BitVec.ofNat 64 fmt.val)
    let obj ← readReg s d
    let x ← readReg s a
    let k ← readReg s b
    need (decide (k.toNat < 32768) && loafOf k.toNat == loafOf s.cur.core && s.placed s.myLaunch k.toNat) .peerDenied k
    let o ← objOk s obj
    let m := m1.val + 1
    let (cols, scl) ← operandAreas s x (256 * m) (32 * m)
    waitFor (decide (((s.reed reed).queue east).length < 2)) none
    let s ← startObj s o
    .ok ((pushCmd s reed east (.inr
      { gen := gen, fmt := fmt.val, kb := kb.toNat, sink := k.toNat, tile := t, row0 := row0.val, m := m, cols := cols,
        scl := scl, obj := o })).advance 3))

/-- Tiles that an arm covers. -/
def armTiles (wide : Bool) (t : TileNo) : List TileNo := if wide then [0, 1, 2, 3] else [t]

/-- A row of a tile. -/
def tileRow (t : TileNo) (i : Nat) : VReg := ⟨t.val * 16 + i % 16, by omega⟩

/-- Rows that an arm covers: row by row, and tile by tile within a row. -/
def armRows (wide : Bool) (t : TileNo) (row0 m : Nat) : List VReg :=
  (natRange row0 m).flatMap (fun i => (armTiles wide t).map (fun x => tileRow x i))

/-- Every row of a list is present, or the instruction waits for the first that is not (R109, R170). -/
def rowsFree (s : State) : List VReg → Except Stop Unit
  | [] => .ok ()
  | v :: rest => do
    rowFree s v
    rowsFree s rest

/-- tarm (R170, R185). -/
def execTarm (d : SReg) (wide : Bool) (kbn1 : BitVec 12) (t : TileNo) (row0 m1 : Fin 16) (ovw : Bool) (s : State) :
    Host.Outcome State Fault Refusal :=
  finish s (do
    ownerOnly s (firstWord (.tarm d wide kbn1 t row0 m1 ovw))
    let obj ← readReg s d
    let o ← objOk s obj
    let ts := armTiles wide t
    if ts.any (fun x => rowBarred s (tileRow0 x)) then tileAllowed s 3
    let ty := s.me.tiles[t].ty
    need ((ty == .f32 || ty == .i32) && ts.all (fun x => s.me.tiles[x].ty == ty)) .tileType 0
    (match s.me.arms with
     | x :: _ => waitFor (decide (s.me.arms.length < 8)) (rowCode (tileRow x.tile x.row0))
     | [] => .ok ())
    let m := m1.val + 1
    let rows := armRows wide t row0.val m
    rowsFree s rows
    let s ← startObj s o
    let s := rows.foldl (fun s v => s.clearRow v) s
    let (s, id) := s.newId
    let arm : Arm :=
      { id := id, wide := wide, tile := t, row0 := row0.val, m := m, kbn := kbn1.toNat + 1, ovw := ovw, ty := ty,
        next := List.replicate m 0, obj := o, made := 0, launch := s.myLaunch }
    .ok ((s.modMe (fun c => { c with arms := c.arms ++ [arm] })).advance 3))

/-- Number of a latch state (R186). -/
def LState.num : LState → Nat
  | .empty => 0
  | .loading => 1
  | .ready => 2
  | .ending => 3
  | .spent => 4

/-- The word of rstat (R186): what describes another launch's product reads as zero. -/
def rstatWord (s : State) (reed : Nat) (east : Bool) (launch : Nat) : Word :=
  let r := s.reed reed
  let foreign := reedForeign r launch
  let b (x : Bool) (i : Nat) : Nat := if x then 2 ^ i else 0
  let mine (q : List RCmd) : Nat := (q.filter (fun c => c.launch == launch)).length
  let q := mine (r.queue east) * 2 ^ 24 + mine (r.queue (!east)) * 2 ^ 22
  if foreign then BitVec.ofNat 64 (q + 2 ^ 16)
  else
    let l := r.latch
    let loaded := l.state != .empty
    BitVec.ofNat 64 ((if loaded then l.cmd.gen.toNat * 2 ^ 48 + l.left % 256 * 2 ^ 40 + l.state.num * 2 ^ 37
        + b (l.side == east) 36 + l.cmd.fmt % 16 * 2 ^ 32 + b l.cmd.sp 31 + b l.cmd.tr 30 else 0)
      + b (reedParked s r) 29 + r.obuf.length % 8 * 2 ^ 26 + q
      + (match r.run with
         | some p => p.started % 32 * 2 ^ 17
         | none => 0))

/-- rstat (R186). -/
def execRstat (d : SReg) (r : Dir) (s : State) : Host.Outcome State Fault Refusal :=
  finish s (do
    let (reed, east) ← reedSide s r (firstWord (.rstat d r))
    destFree s d
    .ok ((s.setReg d (rstatWord s reed east s.myLaunch)).advance 1))

/-! ### Ends and aborts (R166, R170, R179) -/

/-- A generation that has ended every use is spent, and its rset's object is written (R166, R168). An abort gives it STATUS 3 here, at the
generation's end, and not at the abort itself: DEDUCED, since R179 names the parties' objects and R166 the moment of this one (log 123). -/
def genEnd (s : State) (reed : Nat) : State :=
  let l := (s.reed reed).latch
  if l.state == .ending && l.ended == l.cmd.uses then
    reedObj (s.modReed reed (fun r => { r with latch := { r.latch with state := .spent } }))
      l.core l.launch l.cmd.obj (if l.abort then 3 else 1) 0 l.normal
  else s

/-- A use ends, normally or aborted (R166). -/
def useEnd (s : State) (reed : Nat) (normal : Bool) : State :=
  genEnd (s.modReed reed (fun r => { r with latch := { r.latch with
    ended := r.latch.ended + 1, normal := if normal then r.latch.normal + 1 else r.latch.normal,
    abort := r.latch.abort || !normal } })) reed

/-- A command leaves what a core's save frames keep of a reed's queues (R180). -/
def dropSaved (s : State) (cn id : Nat) : State :=
  s.modCore cn (fun c => { c with frames := c.frames.map (fun f =>
    { f with queues := f.queues.map (fun q => (q.1, q.2.1, q.2.2.filter (fun x => x.id != id))) }) })

/-- The command with a number leaves its queue (R159). -/
def dropCmd (s : State) (reed id : Nat) : State :=
  let s := dropSaved (dropSaved s (reedEnd reed false) id) (reedEnd reed true) id
  retime (s.modReed reed (fun r =>
    { r with qw := r.qw.filter (fun c => c.id != id), qe := r.qe.filter (fun c => c.id != id) })) reed

/-- Rows of a core's tiles become present with their bits as they stand. -/
def freeRows (tiles : Vector Tile 4) (rows : List VReg) : Vector Tile 4 :=
  rows.foldl (fun (ts : Vector Tile 4) v =>
    let (t, i) := rowIdx v
    ts.set t { ts[t] with rows := ts[t].rows.set i { ts[t].rows[i] with present := true } }) tiles

/-- Rows of an arm that are not complete become present with their bits as they stand, its record and stored deliveries go, and
its object is written (R170, R179); the arm of a launch that is switched out stands in its save frame (R180). -/
def armEnd (s : State) (cn : Nat) (a : Arm) (status cause count : Nat) : State :=
  let open_ := ((List.range a.m).filter (fun i => decide (a.next.getD i 0 < a.kbn))).flatMap (fun i =>
    (armTiles a.wide a.tile).map (fun x => tileRow x (a.row0 + i)))
  let s :=
    if switchedOut s cn a.launch then s.modFrame cn a.launch (fun f =>
      { f with tiles := freeRows f.tiles open_, arms := f.arms.filter (fun x => x.id != a.id),
               store := f.store.filter (fun x => x.arm != a.id) })
    else s.modCore cn (fun c =>
      { c with tiles := freeRows c.tiles open_, arms := c.arms.filter (fun x => x.id != a.id),
               store := c.store.filter (fun x => x.arm != a.id) })
  reedObj s cn a.launch a.obj status cause count

/-- The arms of a launch at a core, in its save frame where it is switched out. -/
def Core.armsOf (c : Core) (launch : Nat) : List Arm :=
  c.arms.filter (fun a => a.launch == launch) ++ c.frames.flatMap (fun f => if f.launch == launch then f.arms else [])

/-- Deliveries of a reed still in flight are discarded with its rows. -/
def dropRows (s : State) (reed : Nat) : State :=
  let gone (b : Body) : Bool := match b with
    | .rdl d => d.reed == reed
    | .rack r _ | .rdef r _ => r == reed
    | _ => false
  let s := { s with net := s.net.filter (fun p => !gone p.body) }
  { s with cores := s.cores.map (fun c => (c.1, { c.2 with fab := { c.2.fab with
      kept := c.2.fab.kept.filter (fun k => !gone k.pkt.body) } })) }

/-- The arms of a launch at a sink that meet a feed's rows. An abort frees every one of them with STATUS 3, also one that is not the arm
that a delivery hit, or is of the other width: DESIGN CHOICE, since R179 does not say which arms of the sink are the product's (log 124). -/
def armsMeeting (c : Core) (launch : Nat) (wide : Bool) (f : FeedCmd) : List Arm :=
  (c.armsOf launch).filter (fun a => (wide || a.wide || a.tile == f.tile)
    && decide (a.row0 < f.row0 + f.m) && decide (f.row0 < a.row0 + a.m))

/-- A product is aborted: its rows are discarded, the feed's object takes `status`, the sink's arms STATUS 3, and the use
ends (R179). -/
def abortProduct (s : State) (reed status cause : Nat) : State :=
  let r := s.reed reed
  match r.run with
  | none => s
  | some p =>
    let s := dropRows (s.modReed reed (fun r => { r with run := none, obuf := [] })) reed
    let s := dropCmd s reed p.cmd.id
    let s := reedObj s p.cmd.core p.cmd.launch p.feed.obj status cause p.accepted
    let s := (armsMeeting (s.core p.feed.sink) p.cmd.launch r.latch.cmd.sp p.feed).foldl
      (fun s a => armEnd s p.feed.sink a 3 0 a.made) s
    useEnd s reed false

/-- The latch becomes EMPTY; an rset whose generation has not ended has its object written with STATUS 3 (R168, R180, R187). -/
def emptyLatch (s : State) (reed : Nat) : State :=
  let l := (s.reed reed).latch
  let s := s.modReed reed (fun r => { r with latch := Latch.reset })
  match l.state with
  | .empty | .spent => s
  | .loading | .ready | .ending => reedObj s l.core l.launch l.cmd.obj 3 0 l.normal

/-! ### The heads of the side queues (R168, R169) -/

/-- How a feed meets the latch (R169, R201). -/
inductive Meet where
  | wait | mismatch (reason : Nat) | format | start
  deriving DecidableEq, Repr

/-- The table of R169 in its order. -/
def meet (l : Latch) (side : Bool) (f : FeedCmd) : Meet :=
  let g := f.gen
  let lg := l.cmd.gen
  if l.state == .empty then .wait
  else if l.state == .loading && (g == lg || ahead g lg) then .wait
  else if g != lg && !ahead g lg then .mismatch 1
  else if g != lg then .wait
  else if l.state == .ending || l.state == .spent then .mismatch 2
  else if l.side == side then .mismatch 3
  else match pairDepth l.cmd.fmt f.fmt with
    | none => .format
    | some k =>
      let depth := match l.cmd.bind with
        | some b => if l.cmd.tr then b.ncol else b.nrow
        | none => 0
      if l.cmd.sp && decide (k < depth) then .format else .start

/-- A feed that the latch refuses (R169, R177), or that times out at the head. DESIGN CHOICE (log 166): the sink's arm stays armed, since no
product has begun that R179 would abort with it. -/
def refuseFeed (s : State) (reed : Nat) (c : RCmd) (f : FeedCmd) (cause : Cause) (reason : Nat) : State :=
  let s := reedObj (dropCmd s reed c.id) c.core c.launch f.obj 2 cause.num 0
  reedFault s c.core c.launch cause (reedVal reason f.kb 0 0 f.gen.toNat reed)

/-- A use starts (R168). -/
def startUse (s : State) (reed : Nat) (c : RCmd) (f : FeedCmd) : State :=
  s.modReed reed (fun r =>
    let left := r.latch.left - 1
    { r with latch := { r.latch with left := left, state := if left == 0 then .ending else .ready },
             run := some { cmd := c, feed := f, started := 0, computed := 0, accepted := 0, row := none } })

/-- The command at a head goes on, if it can (R168, R169, R181). -/
def headStep (s : State) (reed : Nat) (east : Bool) (c : RCmd) : State :=
  let r := s.reed reed
  if reedForeign r c.launch || switchedOut s c.core c.launch then s
  else match c.body with
    | .inl l =>
      if r.latch.state == .empty || r.latch.state == .spent then
        s.modReed reed (fun r => { r with latch :=
          { state := .loading, side := east, core := c.core, launch := c.launch, cmd := l, left := l.uses, ended := 0,
            normal := 0, abort := false, vals := [], scales := [] } })
      else s
    | .inr f =>
      match meet r.latch east f with
      | .wait => s
      | .mismatch n => refuseFeed s reed c f .reedMismatch n
      | .format => refuseFeed s reed c f .reedFormat 4
      | .start => if r.run.isSome then s else startUse s reed c f

/-- SIDE_QUEUE_HEAD (R168, R169). -/
def execSideQueueHead (reed : Nat) (north : Bool) (s : State) : Host.Outcome State Fault Refusal :=
  .next (let r := s.reed reed
    match r.queue north with
    | [] => s
    | c :: _ => if r.going north || reedParked s r then s else headStep s reed north c)

/-! ### Loading (R163, R168, R199) -/

/-- Consecutive areas read by an engine: the bytes of all, or the first fault (R281, R82). -/
def readAreas (s : State) (cn launch : Nat) : List (Nat × Nat) → State × Except Cause (List Byte)
  | [] => (s, .ok [])
  | (off, n) :: rest =>
    match engineLocalRead s cn launch off n with
    | (s, .error c) => (s, .error c)
    | (s, .ok bs) =>
      match readAreas s cn launch rest with
      | (s, .error c) => (s, .error c)
      | (s, .ok cs) => (s, .ok (bs ++ cs))

/-- The value areas and the scale areas of a load: the used bytes of every column, or the packed operand (R163, R199). The feeder's format
is not known when the latch loads, so the bytes of the holder's native depth are read, also where a later pair uses fewer: DEDUCED (log 126). -/
def loadAreas (l : LoadCmd) : List (Nat × Nat) × List (Nat × Nat) :=
  match l.bind with
  | some b =>
    (if b.total == 0 then [] else [(l.cols, sparseBytes l.fmt b)], [(l.scl, (b.nrow + 31) / 32)])
  | none =>
    let k := passDepth l.fmt
    ((List.range l.ncol).map (fun i => (l.cols + 256 * i, usedBytes l.fmt k)),
     (List.range l.ncol).map (fun i => (l.scl + 32 * i, k / 32)))

/-- LATCH_LOADED (R168): the last byte is latched, or the holder takes a fault and the latch is EMPTY. -/
def execLatchLoaded (reed : Nat) (s : State) : Host.Outcome State Fault Refusal :=
  .next (
    let r := s.reed reed
    let l := r.latch
    match r.queue l.side with
    | [] => s
    | c :: _ =>
      if l.state != .loading || !r.going l.side || reedParked s r || !forked s c.core false c.id then s
      else
        let (va, sa) := loadAreas l.cmd
        let (s, v) := readAreas s l.core l.launch va
        let (s, x) := match v with
          | .ok vs =>
            (match readAreas s l.core l.launch sa with
             | (s, .ok ss) => (s, Except.ok (vs, ss))
             | (s, .error e) => (s, .error e))
          | .error e => (s, .error e)
        match x with
        | .ok (vs, ss) =>
          dropCmd (s.modReed reed (fun r => { r with latch := { r.latch with state := .ready, vals := vs, scales := ss } }))
            reed c.id
        | .error e =>
          let s := dropCmd (s.modReed reed (fun r => { r with latch := Latch.reset })) reed c.id
          let s := reedObj s l.core l.launch l.cmd.obj 2 e.num 0
          reedFault s l.core l.launch e (reedVal 0 0 0 0 l.cmd.gen.toNat reed))

/-! ### Rows (R164, R173, R202) -/

/-- A streamed or latched element: its value, with the code of a NaN (R130, R131, R139). -/
def reedElem (fmt bytes k : Nat) : FV :=
  if fmt == 9 then
    let x := bitsOf bytes (16 * (k / 8)) 16
    let m : Q := if x.testBit (8 + k % 8) then ⟨3, 2⟩ else ⟨1, 2⟩
    if x.testBit (k % 8) then .fin true m.neg else .fin false m
  else elemVal fmt (elemOf fmt bytes k)

/-- The FP32 NaN that a NaN operand contributes (R145, R148). -/
def reedNan (fmt code cn kb : Nat) : BitVec 32 := if fmt ≤ 1 then widenNan fmt code cn else provNaN cn (kb % 128)

/-- A term's product, or the NaNs it contributes (R145). -/
def termNans (hf ff cn kb : Nat) (t : FV × FV) : List (BitVec 32) :=
  let one (fmt : Nat) (x : FV) : List (BitVec 32) := match x with
    | .nan c => [reedNan fmt c cn kb]
    | _ => []
  match one hf t.1 ++ one ff t.2 with
  | [] =>
    (match t with
     | (.fin _ q, .inf _) | (.inf _, .fin _ q) => if q.isZero then [provNaN cn (kb % 128)] else []
     | _ => [])
  | l => l

/-- Value and sign of a product of two values that are no NaN; none for an infinity. -/
def termProd (t : FV × FV) : Option Q × Bool :=
  match t with
  | (.fin a p, .fin b q) => (some (p.mul q), a != b)
  | (.inf a, .inf b) => (none, a != b)
  | (.fin a _, .inf b) => (none, a != b)
  | (.inf a, .fin b _) => (none, a != b)
  | _ => (some (Q.ofInt 0), false)

/-- ExactSum (R145). -/
def exactSum (hf ff : Nat) (terms : List (FV × FV)) (sa sb cn kb : Nat) : BitVec 32 :=
  if sa == 0xFF || sb == 0xFF then provNaN cn (kb % 128)
  else match terms.flatMap (termNans hf ff cn kb) with
    | x :: xs => xs.foldl nanPick x
    | [] =>
      let ps := terms.map termProd
      let infs := ps.filter (fun p => p.1.isNone)
      if infs.any (·.2) && infs.any (fun p => !p.2) then provNaN cn (kb % 128)
      else match infs with
        | p :: _ => BitVec.ofNat 32 (fp32.infinity p.2)
        | [] =>
          let sum := ps.foldl (fun (x : Q) p => x.add (p.1.getD (Q.ofInt 0))) (Q.ofInt 0)
          let zneg := ps.all (fun p => p.2 && (p.1.getD (Q.ofInt 0)).isZero)
          roundNE32 ((sum.mul (Q.pow2 ((sa : Int) - 127))).mul (Q.pow2 ((sb : Int) - 127))) zneg

/-- The exact integer block sum (R146). -/
def intSum (terms : List (FV × FV)) : Int :=
  terms.foldl (fun (x : Int) t => match t with
    | (.fin _ p, .fin _ q) => x + p.n * q.n
    | _ => x) 0

/-- Blocks folded in ascending order: the lane and whether it saturated (R146, R173, R202). -/
def foldBlocks (hf ff cn kb : Nat) (blocks : List (List (FV × FV) × Nat × Nat)) : BitVec 32 × Bool :=
  if intFmt hf then
    match blocks.map (fun b => intSum b.1) with
    | [] => (0, false)
    | x :: xs =>
      let (v, sat) := xs.foldl (fun (p : Int × Bool) y =>
        let (z, e) := satI32 (p.1 + y)
        (z, p.2 || e)) (x, false)
      (BitVec.ofInt 32 v, sat)
  else
    match blocks.map (fun b => exactSum hf ff b.1 b.2.1 b.2.2 cn kb) with
    | [] => (0, false)
    | x :: xs => (xs.foldl (fun a p => addFP32 a p cn kb) x, false)

/-- PassPartial of column c (R173). -/
def densePartial (l : Latch) (ff cn kb : Nat) (row scales : List Byte) (c : Nat) : BitVec 32 × Bool :=
  let hf := l.cmd.fmt
  let k := Nat.min (passDepth hf) (passDepth ff)
  let w := usedBytes hf (passDepth hf)
  let sw := passDepth hf / 32
  let col := leNat ((l.vals.drop (c * w)).take w)
  let r := leNat row
  if l.cmd.ncol ≤ c then (0, false)
  else foldBlocks hf ff cn kb ((List.range (k / 32)).map (fun j =>
    ((natRange (32 * j) 32).map (fun e => (reedElem hf col e, reedElem ff r e)),
     (l.scales.getD (c * sw + j) 0).toNat, (scales.getD j 0).toNat)))

/-- SparsePartial of lane ℓ (R202). -/
def sparsePartial (l : Latch) (b : Binding) (ff cn kb : Nat) (row scales : List Byte) (lane : Nat) : BitVec 32 × Bool :=
  let hf := l.cmd.fmt
  let vals := leNat l.vals
  let r := leNat row
  let ts : List (Nat × Nat) :=
    if l.cmd.tr then (if b.nrow ≤ lane then [] else (b.rowOf lane).map (fun j => (j, b.q lane j)))
    else (if b.ncol ≤ lane then [] else (b.cols.getD lane []).map (fun i => (i, b.q i lane)))
  foldBlocks hf ff cn kb ((List.range 16).filterMap (fun k =>
    match ts.filter (fun t => t.1 / 32 == k) with
    | [] => none
    | us => some (us.map (fun t => (reedElem hf vals t.2, reedElem ff r t.1)),
        (l.scales.getD (if l.cmd.tr then lane / 32 else k) 0).toNat, (scales.getD k 0).toNat)))

/-- Every lane of a row's delivery: 16, or 64 against a sparse latch. -/
def rowLanes (l : Latch) (ff cn kb : Nat) (row scales : List Byte) : List (BitVec 32 × Bool) :=
  match l.cmd.bind with
  | some b => (List.range 64).map (sparsePartial l b ff cn kb row scales)
  | none => (List.range 16).map (densePartial l ff cn kb row scales)

/-- Everything but the throttle and the ramp limiter lets the next row of a reed start `i` cycles from now (R164, R269). -/
def rowAlmost (s : State) (r : Reed) (i : Nat) : Bool :=
  match r.run with
  | none => false
  | some p =>
    decide (p.started < p.feed.m) && p.row.isNone && decide (r.obuf.length < 4) && !reedParked s r
      && (p.started == 0 || (match r.last with
        | some t => decide (t + 8 ≤ s.now + i)
        | none => true))
      && forked s p.cmd.core false p.cmd.id

/-- Everything but the ramp limiter lets the next row of a reed start (R164, R269, R353). -/
def rowReady (s : State) (reed : Nat) : Bool :=
  rowAlmost s (s.reed reed) 0 && throttleOk s (loafOf (reed / 2)) (s.reed reed)

/-- The throttle holds a product's row start `i` cycles from now, and core `cn` waits, as R110 codes it, on a row of that product (R353). -/
def throttleHolds (s : State) (cn code i : Nat) : Bool :=
  decide (0x40 ≤ code) && decide (code < 0x80) && s.reeds.any (fun e => match e.2.run with
    | some p => p.feed.sink == cn && p.targets e.2.latch.cmd.sp (Fin.ofNat 64 (code - 0x40)) && rowAlmost s e.2 i
        && !throttleAt s (loafOf (e.1 / 2)) e.2 i
    | none => false)

/-- Of the next `n` cycles, those in which the throttle holds what a stall waits on do not count in it (R110, R353). -/
def Stall.unthrottled (s : State) (cn n : Nat) (x : Stall) : Stall :=
  match x.code with
  | some k => { x with since := x.since + ((List.range n).filter (throttleHolds s cn k)).length }
  | none => x

/-- The stalls of the owner contexts, whose rows the reeds write, as `n` cycles pass. -/
def holdStalls (s : State) (n : Nat) : State :=
  { s with cores := s.cores.map (fun p =>
      (p.1, { p.2 with owner := { p.2.owner with stall := p.2.owner.stall.map (Stall.unthrottled s p.1 n) } })) }

/-- Reeds of a loaf whose next row may start. -/
def readyReeds (s : State) (l : Nat) : List Nat :=
  (s.reeds.map (·.1)).filter (fun r => loafOf (r / 2) == l && rowReady s r)

/-- Distance of a reed after the last one granted, in ascending index (R355). -/
def turnOf (last reed : Nat) : Nat := (reed + 65536 - last - 1) % 65536

/-- The ramp limiter grants a row start of a reed (R355). -/
def rampGrants (s : State) (l reed : Nat) : Bool :=
  let last := lastGranted s l
  decide (((readyReeds s l).filter (fun r => turnOf last r < turnOf last reed)).length < rampRoom s l)

/-- A row starts: its used bytes are read through the stream port, or the feeder takes a fault (R164, R177). -/
def startRow (s : State) (reed : Nat) (p : Product) : State :=
  let hf := (s.reed reed).latch.cmd.fmt
  let k := Nat.min (passDepth hf) (passDepth p.feed.fmt)
  let (s, v) := readAreas s p.cmd.core p.cmd.launch [(p.feed.cols + 256 * p.started, usedBytes p.feed.fmt k)]
  let (s, x) := match v with
    | .ok vs =>
      (match readAreas s p.cmd.core p.cmd.launch [(p.feed.scl + 32 * p.started, k / 32)] with
       | (s, .ok ss) => (s, Except.ok (vs, ss))
       | (s, .error e) => (s, .error e))
    | .error e => (s, .error e)
  match x with
  | .ok row =>
    s.modReed reed (fun r => { r with run := some { p with started := p.started + 1, row := some row }, last := some s.now,
                                      allow := allowedNow s (loafOf (reed / 2)) })
  | .error e =>
    reedFault (abortProduct s reed 2 e.num) p.cmd.core p.cmd.launch e (reedVal 0 p.feed.kb 0 0 p.feed.gen.toNat reed)

/-- ROW_START (R164): granted, or withheld by the ramp limiter. -/
def execRowStart (reed : Nat) (s : State) : Host.Outcome State Fault Refusal :=
  let l := loafOf (reed / 2)
  .next (match (s.reed reed).run with
    | none => s
    | some p =>
      if !rowReady s reed then s
      else if rampGrants s l reed then startRow (countStart s l reed) reed p
      else withhold s l)

/-- A delivery is sent to its sink on VN1 (R165, R243). -/
def sendRow (s : State) (reed slot : Nat) : State :=
  match (s.reed reed).run, (s.reed reed).obuf.find? (fun o => o.del.slot == slot) with
  | some p, some o =>
    if o.flying || !canSend s p.cmd.core o.del.sink 1 then s
    else
      let s := (send s { who := .engine p.cmd.id, src := p.cmd.core, dst := o.del.sink, vn := 1, launch := p.cmd.launch,
                         ord := false, rel := false, req := none, body := .rdl o.del }).1
      s.modReed reed (fun r => { r with obuf := updWhere (fun x => x.del.slot == slot) (fun x => { x with flying := true }) r.obuf })
  | _, _ => s

/-- ROW_COMPUTED (R165): eight cycles after its start the row enters the output buffer and is sent. A feed that names a tile other than 0
against a sparse latch, which R184 gives no fault for, is delivered as tile 0: DESIGN CHOICE (log 127). -/
def execRowComputed (reed : Nat) (s : State) : Host.Outcome State Fault Refusal :=
  let r := s.reed reed
  .next (match r.run with
    | none => s
    | some p =>
      match p.row, r.last with
      | some (vs, ss), some t =>
        if s.now < t + 8 then s
        else
          let f := p.feed
          let sp := r.latch.cmd.sp
          let ls := rowLanes r.latch f.fmt p.cmd.core f.kb vs ss
          let d : Delivery :=
            { reed := reed, slot := r.slot, sink := f.sink, tile := if sp then 0 else f.tile, row := f.row0 + p.computed,
              kb := f.kb, wide := sp, sat := ls.any (·.2), int := intFmt r.latch.cmd.fmt, lanes := ls.map (·.1),
              launch := p.cmd.launch }
          let s := s.modReed reed (fun r =>
            { r with run := some { p with computed := p.computed + 1, row := none }, slot := r.slot + 1,
                     obuf := r.obuf ++ [{ del := d, flying := false, defer := none, waited := 0, since := none }] })
          sendRow s reed d.slot
      | _, _ => s)

/-- DELIVERY_RESEND (R165): 32 cycles after a deferral, or as soon as a first sending has room. -/
def execDeliveryResend (reed slot : Nat) (s : State) : Host.Outcome State Fault Refusal :=
  .next (match (s.reed reed).obuf.find? (fun o => o.del.slot == slot) with
    | none => s
    | some o => if o.flying || o.defer.any (fun t => decide (s.now < t + 32)) then s else sendRow s reed slot)

/-! ### The sink (R170..R174) -/

/-- What a sink does with a delivery (R171): it defers it, with R171's first row or not, accepts it, or faults. -/
inductive SinkRes where
  | defer (gap : Bool) | add (a : Arm) | store (a : Arm) | fault (reason : Nat) (a : Arm)
  deriving DecidableEq, Repr

/-- Entries of the reorder store in use (R171). -/
def storeUsed (c : Core) : Nat := c.store.foldl (fun n x => n + if x.del.wide then 4 else 1) 0

/-- R171. A k-block that is stored already faults before the rows that store or defer it are looked at: DEDUCED, since in the table's order
that case could never arise (log 125). -/
def sinkTest (c : Core) (d : Delivery) : SinkRes :=
  if c.launch != d.launch then .defer false
  else match c.arms.find? (fun a => a.launch == d.launch && (a.wide || d.wide || a.tile == d.tile)
      && decide (a.row0 ≤ d.row) && decide (d.row < a.row0 + a.m) && decide (a.next.getD (d.row - a.row0) 0 < a.kbn)) with
    | none => .defer true
    | some a =>
      let j := a.next.getD (d.row - a.row0) 0
      if a.wide != d.wide then .defer true
      else if a.ty != (if d.int then .i32 else .f32) then .fault 6 a
      else if d.kb == j then .add a
      else if a.kbn ≤ d.kb then .fault 8 a
      else if d.kb < j || c.store.any (fun x => x.arm == a.id && x.row == d.row && x.del.kb == d.kb) then .fault 9 a
      else if d.kb ≤ j + 8 && storeUsed c + (if d.wide then 4 else 1) ≤ 8 then .store a
      else .defer false

/-- SinkAdd of one lane (R174): the lane and its events. -/
def sinkLane (a : Arm) (dnz : Bool) (cn kb : Nat) (old d : BitVec 32) : BitVec 32 × BitVec 6 :=
  if a.ty == .i32 then
    if a.ovw && kb == 0 then (d, 0)
    else
      let (v, sat) := satI32 (old.toInt + d.toInt)
      (BitVec.ofInt 32 v, if sat then evSAT else 0)
  else
    let v := if a.ovw && kb == 0 then d else addFP32 old d cn 127
    let (w, ev) := flushDnz dnz .f32 v.toNat
    (BitVec.ofNat 32 w, ev)

/-- SinkAdd (R174): the lanes of every tile that the arm covers, then NEXT; a row that has added its last k-block is
present. -/
def sinkAdd (s : State) (cn : Nat) (a : Arm) (d : Delivery) : State :=
  let i := d.row - a.row0
  let j := a.next.getD i 0 + 1
  let parts := (armTiles a.wide a.tile).zipIdx
  let s := parts.foldl (fun (s : State) p =>
    let v := tileRow p.1 d.row
    let c := s.core cn
    let dnz := c.tiles[p.1].dnz
    let old := (c.row v).bits
    let ls := (List.range 16).map (fun l =>
      sinkLane a dnz cn d.kb (BitVec.ofNat 32 (laneOf .f32 old l)) (d.lanes.getD (16 * p.2 + l) 0))
    let s := s.modCore cn (fun c => c.setRow v ⟨mkRow .f32 (ls.map (fun x => x.1.toNat)), decide (a.kbn ≤ j)⟩)
    s.raiseOwner cn (joinEv (ls.map (·.2)))) s
  let s := if d.sat then s.raiseOwner cn evSAT else s
  let step (x : Arm) : Arm := { x with next := x.next.set i j, made := x.made + 1 }
  s.modCore cn (fun c => { c with arms := updWhere (fun x => x.id == a.id) step c.arms })

/-- Stored deliveries of a row whose turn has come are added in turn; `n` bounds them (R171). -/
def drainStore (s : State) (cn arm row : Nat) : Nat → State
  | 0 => s
  | n + 1 =>
    match (s.core cn).arms.find? (fun a => a.id == arm) with
    | none => s
    | some a =>
      match (s.core cn).store.find? (fun x => x.arm == arm && x.row == row && x.del.kb == a.next.getD (row - a.row0) 0) with
      | none => s
      | some x =>
        let s := s.modCore cn (fun c => { c with store := c.store.erase x })
        drainStore (sinkAdd s cn a x.del) cn arm row n

/-- An arm all of whose rows are complete: its object receives STATUS 1 (R170). -/
def armDone (s : State) (cn arm : Nat) : State :=
  match (s.core cn).arms.find? (fun a => a.id == arm) with
  | none => s
  | some a => if a.next.all (fun j => decide (a.kbn ≤ j)) then armEnd s cn a 1 0 (a.m * a.kbn) else s

/-- A fault of the sink: its own arm takes STATUS 2, and the product is aborted (R171, R175, R179). -/
def sinkFault (s : State) (d : Delivery) (reason : Nat) (a : Option Arm) : State :=
  let s := match a with
    | some a => armEnd s d.sink a 2 Cause.tileType.num a.made
    | none => s
  let s := reedFault s d.sink d.launch .tileType (reedVal reason d.kb d.row d.tile.val 0 d.reed)
  abortProduct s d.reed 3 0

/-- The sink's notice goes back on VN0 (R165, R243). -/
def notice (s : State) (p : Packet) (b : Body) : State :=
  (send s { who := p.who, src := p.dst, dst := p.src, vn := 0, launch := p.launch, ord := false, rel := false, req := none,
            body := b }).1

/-- A delivery arrives at its sink (R171). -/
def takeRow (s : State) (p : Packet) (d : Delivery) : State :=
  let cn := d.sink
  match sinkTest (s.core cn) d with
  | .defer _ =>
    let s := if p.e then s.modCore cn (fun c => { c with fab := { c.fab with deferred := c.fab.deferred ++ [(p.src, p.seq)] } }) else s
    notice s p (.rdef d.reed d.slot)
  | .add a =>
    let s := drainStore (sinkAdd s cn a d) cn a.id d.row 8
    notice (armDone s cn a.id) p (.rack d.reed d.slot)
  | .store a =>
    notice (s.modCore cn (fun c => { c with store := c.store ++ [⟨a.id, d.row, d⟩] })) p (.rack d.reed d.slot)
  | .fault r a => sinkFault s d r (some a)

/-- A row of a parked product waits on its way, so that no object of it fires; a parked sink defers it (R180). -/
def rowHeld (s : State) (d : Delivery) : Bool := reedParked s (s.reed d.reed) && !switchedOut s d.sink d.launch

/-- A delivery of mode E was deferred: its RDEF has answered it, and the reed sends the row anew (R165). -/
def Fab.wasDeferred (f : Fab) (p : Packet) : Bool := f.deferred.contains (p.src, p.seq)

/-- RDL arrives (R171); a duplicate of mode E has its RACK sent again (R242), and one of a deferred delivery nothing (log 122). -/
def execRdl (k : Nat) (s : State) : Host.Outcome State Fault Refusal :=
  .next (match s.got k with
    | none => s
    | some p =>
      match p.body with
      | .rdl d =>
        if rowHeld s d then s
        else if p.e && (s.core p.dst).fab.executed p.src p.vn p.seq then
          if (s.core p.dst).fab.wasDeferred p then s.take p.id else notice (s.take p.id) p (.rack d.reed d.slot)
        else takeRow (executed s p) p d
      | _ => s)

/-- The last row of a feed is accepted (R165, R166). -/
def feedEnd (s : State) (reed : Nat) (p : Product) : State :=
  let s := dropCmd (s.modReed reed (fun r => { r with run := none })) reed p.cmd.id
  let s := reedObj s p.cmd.core p.cmd.launch p.feed.obj 1 0 p.feed.m
  useEnd s reed true

/-- A notice acknowledges the kept copy of its delivery (R241, R242). -/
def dropRowCopy (s : State) (cn reed slot : Nat) : State :=
  let mine (b : Body) : Bool := match b with
    | .rdl d => d.reed == reed && d.slot == slot
    | _ => false
  s.modCore cn (fun c => { c with fab := { c.fab with kept := c.fab.kept.filter (fun x => !mine x.pkt.body) } })

/-- RACK: an accepted delivery frees its slot (R165); a parked product waits with it (R180). -/
def execRack (k : Nat) (s : State) : Host.Outcome State Fault Refusal :=
  .next (match s.got k with
    | none => s
    | some p =>
      match p.body with
      | .rack reed slot =>
        if reedParked s (s.reed reed) then s
        else
        let s := dropRowCopy (s.take k) p.dst reed slot
        (match (s.reed reed).run, (s.reed reed).obuf.any (fun o => o.del.slot == slot) with
         | some q, true =>
           let q := { q with accepted := q.accepted + 1 }
           let s := s.modReed reed (fun r =>
             { r with run := some q, obuf := r.obuf.filter (fun o => o.del.slot != slot) })
           if q.accepted == q.feed.m then feedEnd s reed q else s
         | _, _ => s)
      | _ => s)

/-- RDEF: a deferred delivery stays in its slot (R165); its wait is counted from the first deferral (R175). -/
def execRdef (k : Nat) (s : State) : Host.Outcome State Fault Refusal :=
  .next (match s.got k with
    | none => s
    | some p =>
      match p.body with
      | .rdef reed slot =>
        let s := dropRowCopy (s.take k) p.dst reed slot
        let back (o : OSlot) : OSlot := { o with flying := false, defer := some s.now }
        retime (s.modReed reed (fun r => { r with obuf := updWhere (fun o => o.del.slot == slot) back r.obuf })) reed
      | _ => s)

/-! ### Timeouts (R175) -/

/-- A command waits at a head and cannot go on. -/
def headWaits (s : State) (reed : Nat) (east : Bool) (c : RCmd) : Bool :=
  let r := s.reed reed
  !r.going east && headCounts s r c &&
    (reedForeign r c.launch || (match c.body with
      | .inl _ => r.latch.state != .empty && r.latch.state != .spent
      | .inr f => meet r.latch east f == .wait || r.run.isSome))

/-- A head that has waited too long is removed (R175). -/
def headTimeout (s : State) (reed : Nat) (c : RCmd) : State :=
  let (obj, kb, gen) : Nat × Nat × Nat := match c.body with
    | .inl l => (l.obj, 0, l.gen.toNat)
    | .inr f => (f.obj, f.kb, f.gen.toNat)
  let s := reedObj (dropCmd s reed c.id) c.core c.launch obj 2 Cause.reedTimeout.num 0
  reedFault s c.core c.launch .reedTimeout (reedVal 5 kb 0 0 gen reed)

/-- RDVTO_TIMEOUT (R175). -/
def execRdvtoTimeout (reed : Nat) (w : ReedWait) (s : State) : Host.Outcome State Fault Refusal :=
  let r := s.reed reed
  .next (match w with
    | .side north =>
      (match r.queue north with
       | [] => s
       | c :: _ =>
         if headWaits s reed north c && decide ((s.core c.core).rdvto.toNat < waitedFor s.now c.waited c.since) then
           headTimeout s reed c
         else s)
    | .delivery slot =>
      (match r.obuf.find? (fun o => o.del.slot == slot) with
       | none => s
       | some o =>
         let c := s.core o.del.sink
         if !o.flying && o.defer.isSome && !reedParked s r && decide (c.rdvto.toNat < waitedFor s.now o.waited o.since) then
           (match sinkTest c o.del with
            | .defer true => sinkFault s o.del 10 none
            | .defer false => sinkFault s o.del 7 (c.arms.find? (fun a => a.launch == o.del.launch
                && (a.wide || a.tile == o.del.tile) && decide (a.row0 ≤ o.del.row) && decide (o.del.row < a.row0 + a.m)
                && decide (a.next.getD (o.del.row - a.row0) 0 < a.kbn)))
            | .add _ | .store _ | .fault .. => s)
         else s))

/-! ### rcancel (R187) -/

/-- The waiting commands of one side are removed with STATUS 3. -/
def cancelQueue (s : State) (reed : Nat) (east : Bool) (p : RCmd → Bool) : State :=
  let r := s.reed reed
  let waiting := (r.queue east).zipIdx.filterMap (fun x => if (x.2 == 0 && r.going east) || !p x.1 then none else some x.1)
  waiting.foldl (fun s c => reedObj (dropCmd s reed c.id) c.core c.launch (match c.body with
    | .inl l => l.obj
    | .inr f => f.obj) 3 0 0) s

/-- The reed form of rcancel (R187). -/
def cancelReed (s : State) (reed : Nat) (east : Bool) (launch : Nat) : State :=
  let r := s.reed reed
  let s := cancelQueue s reed east (fun _ => true)
  let holder := r.latch.state != .empty && r.latch.side == east && r.latch.launch == launch
  let feeder := r.run.any (fun p => reedSideOf reed p.cmd.core == east && p.cmd.launch == launch)
  let s := if (holder && r.run.isSome) || feeder then abortProduct s reed 3 0 else s
  if holder then
    let loading := r.latch.state == .loading
    let s := emptyLatch s reed
    let s := if loading then s.modReed reed (fun x => x.setQueue east ((x.queue east).drop 1)) else s
    let waits (c : RCmd) : Bool := match c.body with
      | .inr f => f.gen == r.latch.cmd.gen && c.launch == launch
      | .inl _ => false
    retime (match (s.reed reed).queue (!east) with
      | c :: _ => if waits c then cancelQueue s reed (!east) (fun x => x.id == c.id) else s
      | [] => s) reed
  else s

/-- rcancel, reed form (R187). -/
def execRcancel (r : Dir) (s : State) : Host.Outcome State Fault Refusal :=
  finish s (do
    let (reed, east) ← reedSide s r (firstWord (.rcancel r))
    .ok ((cancelReed s reed east s.myLaunch).advance 1))

/-- rcancel, arm form (R187). -/
def execRcancelArm (t : TileNo) (s : State) : Host.Outcome State Fault Refusal :=
  finish s (do
    ownerOnly s (firstWord (.rcancelArm t))
    let cn := s.cur.core
    let arms := s.me.arms.filter (fun a => a.launch == s.myLaunch && (a.wide || a.tile == t))
    .ok ((arms.foldl (fun s a => armEnd s cn a 3 0 a.made) s).advance 1))

/-! ### Launches (R168, R180, R189) -/

/-- Reeds with an end at a core. -/
def reedsOf (cn : Nat) : List (Nat × Bool) := [Dir.e, .w, .n, .s].filterMap (reedOf cn)

/-- The latches that a launch loaded become EMPTY. -/
def dropLatches (s : State) (launch : Nat) : State :=
  { s with reeds := s.reeds.map (fun e =>
      if e.2.latch.launch == launch then (e.1, { e.2 with latch := Latch.reset }) else e) }

/-- The end or teardown of a launch: its commands, products, arms and bindings go, and at a teardown its latches (R180, R189). A
latch stays as it is after a launch's end (the end states of spec/08, spec/11 and spec/15). -/
def abortReeds (s : State) (launch : Nat) (torn : Bool) : State :=
  let s := s.reeds.foldl (fun (s : State) e =>
    let reed := e.1
    let s := cancelQueue s reed false (fun c => c.launch == launch)
    let s := cancelQueue s reed true (fun c => c.launch == launch)
    let r := s.reed reed
    let mine := r.latch.state != .empty && r.latch.launch == launch
    let s := if r.run.any (fun p => p.cmd.launch == launch) then abortProduct s reed 3 0 else s
    let s := if mine && torn then emptyLatch s reed else s
    s.modReed reed (fun r =>
      { r with qw := r.qw.filter (fun c => c.launch != launch), qe := r.qe.filter (fun c => c.launch != launch),
               bw := r.bw.filter (fun b => b.launch != launch), be := r.be.filter (fun b => b.launch != launch) })) s
  s.cores.foldl (fun (s : State) e =>
    ((s.core e.1).arms.filter (fun a => a.launch == launch)).foldl (fun s a => armEnd s e.1 a 3 0 a.made) s) s

/-- A launch start leaves the latches and bindings of its cores empty (R168, R189), but for what a live launch has parked
(R180). -/
def clearReeds (s : State) (cn : Nat) : State :=
  (reedsOf cn).foldl (fun s p => s.modReed p.1 (fun r =>
    let gone (l : Nat) : Bool := (s.launch l).isNone
    { r with latch := if gone r.latch.launch then Latch.reset else r.latch,
             bw := if p.2 then r.bw else r.bw.filter (fun b => !gone b.launch),
             be := if p.2 then r.be.filter (fun b => !gone b.launch) else r.be })) s

/-- Every reed's clocks follow a switch (R175, R180). -/
def retimeAll (s : State) : State := s.reeds.foldl (fun s p => retime s p.1) s

end Sys2Proof.Machine
end

