-- ==== Sys2Proof/Machine/Vector.lean ====
section
/-! DEFINITION. Tiles and the vector unit: tcfg and tzero (R212, R213), lane operations (R214, R215), comparison and reduction
(R216, R217), scalar exchange and counting (R218). -/

namespace Sys2Proof.Machine

open Sys2Proof

/-! ### Tiles (R212, R213) -/

/-- A tile of the issuing core. -/
def State.tile (s : State) (t : TileNo) : Tile := s.me.tiles[t]

/-- The tile of a row, whose type the lanes take (R209). -/
def State.tileOf (s : State) (v : VReg) : Tile := s.tile (rowIdx v).1

/-- A tile of the issuing core replaced. -/
def State.setTile (s : State) (t : TileNo) (x : Tile) : State := s.modMe (fun c => { c with tiles := c.tiles.set t x })

/-- Sixteen present rows of zero bits. -/
def zeroRows : Vector Row 16 := Vector.replicate 16 ⟨0, true⟩

/-- tcfg (R212). -/
def execTcfg (t : TileNo) (ty : TileType) (dnz : Bool) (s : State) : Host.Outcome State Fault Refusal :=
  finish s (do
    tileAllowed s t
    waitTile s t
    let x := s.tile t
    let rows := if x.ty == ty then x.rows else zeroRows
    .ok ((s.setTile t ⟨ty, dnz, rows⟩).advance 1))

/-- tzero (R213). -/
def execTzero (t : TileNo) (s : State) : Host.Outcome State Fault Refusal :=
  finish s (do
    tileAllowed s t
    waitTile s t
    .ok ((s.setTile t { s.tile t with rows := zeroRows }).advance 1))

/-! ### Operands of lane operations (R209, R210) -/

/-- The vb operand: a row, or a literal repeated eight times (R24). -/
abbrev VSrc := VReg ⊕ Word

/-- A literal as a row. -/
def litRow (w : Word) : RowBits := BitVec.ofNat 512 (rowOfLanes 64 (List.replicate 8 w.toNat))

/-- The harvest fault of the vb operand. -/
def srcAllowed (s : State) : VSrc → Except Stop Unit
  | .inl v => rowAllowed s v
  | .inr _ => .ok ()

/-- The vb operand, read at issue. -/
def readSrc (s : State) : VSrc → Except Stop RowBits
  | .inl v => readRow s v
  | .inr w => .ok (litRow w)

/-- What the lanes of an operation are made of: the executing core, the lane type, the rows of va, the vb operand and vd. -/
structure LaneIn where
  cn : Nat
  ty : TileType
  a  : RowBits
  b  : RowBits
  d  : RowBits

/-- Lane k of va. -/
def LaneIn.la (x : LaneIn) (k : Nat) : Nat := laneOf x.ty x.a k

/-- Lane k of the vb operand. -/
def LaneIn.lb (x : LaneIn) (k : Nat) : Nat := laneOf x.ty x.b k

/-- Lane k of vd as read at issue. -/
def LaneIn.ld (x : LaneIn) (k : Nat) : Nat := laneOf x.ty x.d k

/-- The row of raw lanes. -/
def rawLanes (ty : TileType) (f : Nat → Nat) : RowBits := mkRow ty ((List.range (tyLanes ty)).map f)

/-- The row of lanes written through LaneWrite, and the events (R214). -/
def writtenLanes (dnz : Bool) (ty : TileType) (f : Nat → Conv) : RowBits × BitVec 6 :=
  let (ls, ev) := writeLanes dnz ty ((List.range (tyLanes ty)).map f)
  (mkRow ty ls, ev)

/-- A vector instruction with two sources and the lane type of vd's tile: `f` gives the row and the events. DESIGN CHOICE (log 165): of several
rows that a loan bars, EVAL names vd, then the first source, then the second; R319 gives no order. -/
def vecOp (v : VReg) (a : Option VReg) (b : VSrc) (len : Nat) (f : Bool → LaneIn → RowBits × BitVec 6) (s : State) :
    Act := do
  rowAllowed s v
  srcAllowed s ((a.map Sum.inl).getD (.inr 0))
  srcAllowed s b
  let ra ← readSrc s ((a.map Sum.inl).getD (.inr 0))
  let rb ← readSrc s b
  rowFree s v
  let t := s.tileOf v
  let (row, ev) := f t.dnz ⟨s.cur.core, t.ty, ra, rb, (s.me.row v).bits⟩
  .ok (((s.setRow v row).raise ev).advance len)

/-- An operation on computed lanes (R214, R215). -/
def laneOp (v a : VReg) (b : VSrc) (len : Nat) (f : LaneIn → Nat → Conv) (s : State) : Act :=
  vecOp v (some a) b len (fun dnz x => writtenLanes dnz x.ty (f x)) s

/-- An operation on raw lane bits: no event and no flush (R214). -/
def bitOp (v : VReg) (a : Option VReg) (b : VSrc) (len : Nat) (f : LaneIn → Nat → Nat) (s : State) : Act :=
  vecOp v a b len (fun _ x => (rawLanes x.ty (f x), 0)) s

/-! ### The lanes of R215 -/

/-- vadd. -/
def laneVadd (x : LaneIn) (k : Nat) : Conv := laneAdd x.ty (x.la k) (x.lb k) x.cn

/-- vsub. -/
def laneVsub (x : LaneIn) (k : Nat) : Conv :=
  let a := x.la k
  let b := x.lb k
  if x.ty.isFloat then
    floatLane x.ty [a, b] (exAdd ((tyFmt x.ty).decode a) ((tyFmt x.ty).decode b).negate) x.cn
  else ⟨(a + 2 ^ tyW x.ty - b) % 2 ^ tyW x.ty, 0⟩

/-- vmul. -/
def laneVmul (x : LaneIn) (k : Nat) : Conv :=
  let a := x.la k
  let b := x.lb k
  if x.ty.isFloat then floatLane x.ty [a, b] (exMul ((tyFmt x.ty).decode a) ((tyFmt x.ty).decode b)) x.cn
  else ⟨a * b % 2 ^ tyW x.ty, 0⟩

/-- vfma: one rounding. -/
def laneVfma (x : LaneIn) (k : Nat) : Conv :=
  let a := x.la k
  let b := x.lb k
  let d := x.ld k
  let f := tyFmt x.ty
  if x.ty.isFloat then floatLane x.ty [a, b, d] (exFma (f.decode a) (f.decode b) (f.decode d)) x.cn
  else ⟨(a * b + d) % 2 ^ tyW x.ty, 0⟩

/-- vmin and vmax. -/
def laneVminmax (mx : Bool) (x : LaneIn) (k : Nat) : Conv := laneMinMax mx x.ty (x.la k) (x.lb k) x.cn

/-- Sign bit of a lane. -/
def laneNeg (ty : TileType) (a : Nat) : Bool := a.testBit (tyW ty - 1)

/-- (−a) mod 2^w. -/
def laneMinus (ty : TileType) (a : Nat) : Nat := (2 ^ tyW ty - a) % 2 ^ tyW ty

/-- vabs. -/
def laneVabs (x : LaneIn) (k : Nat) : Conv :=
  let a := x.la k
  if x.ty.isFloat then ⟨a % 2 ^ (tyW x.ty - 1), 0⟩
  else ⟨if laneNeg x.ty a then laneMinus x.ty a else a, 0⟩

/-- vneg. -/
def laneVneg (x : LaneIn) (k : Nat) : Conv :=
  let a := x.la k
  if x.ty.isFloat then ⟨a ^^^ 2 ^ (tyW x.ty - 1), 0⟩ else ⟨laneMinus x.ty a, 0⟩

/-- vshl: 0 for a count of the width or more. -/
def laneVshl (x : LaneIn) (k : Nat) : Nat :=
  if tyW x.ty ≤ x.lb k then 0 else x.la k * 2 ^ x.lb k % 2 ^ tyW x.ty

/-- vshr: arithmetic, by at most w − 1. -/
def laneVshr (x : LaneIn) (k : Nat) : Nat :=
  let w := tyW x.ty
  ((sgn w (x.la k) >>> min (x.lb k) (w - 1)).emod (2 ^ w : Nat)).toNat

/-- vshuf: lane U(b) of va. -/
def laneVshuf (x : LaneIn) (k : Nat) : Nat := if x.lb k < tyLanes x.ty then x.la (x.lb k) else 0

/-- vadd (R215). -/
def execVadd (v a n : VReg) (s : State) : Host.Outcome State Fault Refusal := finish s (laneOp v a (.inl n) 1 laneVadd s)

/-- vadd, literal form. -/
def execVaddLit (v a : VReg) (lit : Word) (s : State) : Host.Outcome State Fault Refusal :=
  finish s (laneOp v a (.inr lit) 3 laneVadd s)

/-- vsub (R215). -/
def execVsub (v a n : VReg) (s : State) : Host.Outcome State Fault Refusal := finish s (laneOp v a (.inl n) 1 laneVsub s)

/-- vsub, literal form. -/
def execVsubLit (v a : VReg) (lit : Word) (s : State) : Host.Outcome State Fault Refusal :=
  finish s (laneOp v a (.inr lit) 3 laneVsub s)

/-- vmul (R215). -/
def execVmul (v a n : VReg) (s : State) : Host.Outcome State Fault Refusal := finish s (laneOp v a (.inl n) 1 laneVmul s)

/-- vmul, literal form. -/
def execVmulLit (v a : VReg) (lit : Word) (s : State) : Host.Outcome State Fault Refusal :=
  finish s (laneOp v a (.inr lit) 3 laneVmul s)

/-- vfma (R215). -/
def execVfma (v a n : VReg) (s : State) : Host.Outcome State Fault Refusal := finish s (laneOp v a (.inl n) 1 laneVfma s)

/-- vfma, literal form. -/
def execVfmaLit (v a : VReg) (lit : Word) (s : State) : Host.Outcome State Fault Refusal :=
  finish s (laneOp v a (.inr lit) 3 laneVfma s)

/-- vmin (R215). -/
def execVmin (v a n : VReg) (s : State) : Host.Outcome State Fault Refusal :=
  finish s (laneOp v a (.inl n) 1 (laneVminmax false) s)

/-- vmin, literal form. -/
def execVminLit (v a : VReg) (lit : Word) (s : State) : Host.Outcome State Fault Refusal :=
  finish s (laneOp v a (.inr lit) 3 (laneVminmax false) s)

/-- vmax (R215). -/
def execVmax (v a n : VReg) (s : State) : Host.Outcome State Fault Refusal :=
  finish s (laneOp v a (.inl n) 1 (laneVminmax true) s)

/-- vmax, literal form. -/
def execVmaxLit (v a : VReg) (lit : Word) (s : State) : Host.Outcome State Fault Refusal :=
  finish s (laneOp v a (.inr lit) 3 (laneVminmax true) s)

/-- vabs (R215). -/
def execVabs (v a : VReg) (s : State) : Host.Outcome State Fault Refusal := finish s (laneOp v a (.inr 0) 1 laneVabs s)

/-- vneg (R215). -/
def execVneg (v a : VReg) (s : State) : Host.Outcome State Fault Refusal := finish s (laneOp v a (.inr 0) 1 laneVneg s)

/-- vand (R215). -/
def execVand (v a n : VReg) (s : State) : Host.Outcome State Fault Refusal :=
  finish s (bitOp v (some a) (.inl n) 1 (fun x k => x.la k &&& x.lb k) s)

/-- vand, literal form. -/
def execVandLit (v a : VReg) (lit : Word) (s : State) : Host.Outcome State Fault Refusal :=
  finish s (bitOp v (some a) (.inr lit) 3 (fun x k => x.la k &&& x.lb k) s)

/-- vor (R215). -/
def execVor (v a n : VReg) (s : State) : Host.Outcome State Fault Refusal :=
  finish s (bitOp v (some a) (.inl n) 1 (fun x k => x.la k ||| x.lb k) s)

/-- vor, literal form. -/
def execVorLit (v a : VReg) (lit : Word) (s : State) : Host.Outcome State Fault Refusal :=
  finish s (bitOp v (some a) (.inr lit) 3 (fun x k => x.la k ||| x.lb k) s)

/-- vxor (R215). -/
def execVxor (v a n : VReg) (s : State) : Host.Outcome State Fault Refusal :=
  finish s (bitOp v (some a) (.inl n) 1 (fun x k => x.la k ^^^ x.lb k) s)

/-- vxor, literal form. -/
def execVxorLit (v a : VReg) (lit : Word) (s : State) : Host.Outcome State Fault Refusal :=
  finish s (bitOp v (some a) (.inr lit) 3 (fun x k => x.la k ^^^ x.lb k) s)

/-- vshl (R215). -/
def execVshl (v a n : VReg) (s : State) : Host.Outcome State Fault Refusal :=
  finish s (bitOp v (some a) (.inl n) 1 laneVshl s)

/-- vshl, literal form. -/
def execVshlLit (v a : VReg) (lit : Word) (s : State) : Host.Outcome State Fault Refusal :=
  finish s (bitOp v (some a) (.inr lit) 3 laneVshl s)

/-- vshr (R215). -/
def execVshr (v a n : VReg) (s : State) : Host.Outcome State Fault Refusal :=
  finish s (bitOp v (some a) (.inl n) 1 laneVshr s)

/-- vshr, literal form. -/
def execVshrLit (v a : VReg) (lit : Word) (s : State) : Host.Outcome State Fault Refusal :=
  finish s (bitOp v (some a) (.inr lit) 3 laneVshr s)

/-- vmov (R215). -/
def execVmov (v n : VReg) (s : State) : Host.Outcome State Fault Refusal :=
  finish s (bitOp v none (.inl n) 1 (fun x k => x.lb k) s)

/-- vmov, literal form. -/
def execVmovLit (v : VReg) (lit : Word) (s : State) : Host.Outcome State Fault Refusal :=
  finish s (bitOp v none (.inr lit) 3 (fun x k => x.lb k) s)

/-- vsel (R215): the old value of vd is the mask. -/
def execVsel (v a n : VReg) (s : State) : Host.Outcome State Fault Refusal :=
  finish s (bitOp v (some a) (.inl n) 1 (fun x k => if x.ld k != 0 then x.la k else x.lb k) s)

/-- vsel, literal form. -/
def execVselLit (v a : VReg) (lit : Word) (s : State) : Host.Outcome State Fault Refusal :=
  finish s (bitOp v (some a) (.inr lit) 3 (fun x k => if x.ld k != 0 then x.la k else x.lb k) s)

/-- vshuf (R215). -/
def execVshuf (v a n : VReg) (s : State) : Host.Outcome State Fault Refusal :=
  finish s (bitOp v (some a) (.inl n) 1 laneVshuf s)

/-- vshuf, literal form. -/
def execVshufLit (v a : VReg) (lit : Word) (s : State) : Host.Outcome State Fault Refusal :=
  finish s (bitOp v (some a) (.inr lit) 3 laneVshuf s)

/-! ### Comparison and reduction (R216, R217) -/

/-- The relations of vcmp. -/
inductive CmpRel where
  | eq | ne | lt | le | gt | ge | un
  deriving DecidableEq, Repr

/-- a < b in IEEE 754 order, in which the zeros are equal; false with a NaN. -/
def fvLt (x y : FV) : Bool :=
  match x, y with
  | .nan _, _ | _, .nan _ => false
  | .inf a, .inf b => a && !b
  | .inf a, .fin _ _ => a
  | .fin _ _, .inf b => !b
  | .fin _ p, .fin _ q => p.lt q

/-- A NaN. -/
def FV.isNan : FV → Bool
  | .nan _ => true
  | .inf _ | .fin _ _ => false

/-- A relation from "less", "greater" and "unordered". -/
def CmpRel.holds (r : CmpRel) (lt gt un : Bool) : Bool :=
  match r with
  | .eq => !un && !lt && !gt
  | .ne => un || lt || gt
  | .lt => lt
  | .le => !un && !gt
  | .gt => gt
  | .ge => !un && !lt
  | .un => un

/-- A relation of two lanes (R216). -/
def laneRel (r : CmpRel) (ty : TileType) (x y : Nat) : Bool :=
  if ty.isFloat then
    let p := (tyFmt ty).decode x
    let q := (tyFmt ty).decode y
    r.holds (fvLt p q) (fvLt q p) (p.isNan || q.isNan)
  else
    let a := sgn (tyW ty) x
    let b := sgn (tyW ty) y
    r.holds (a < b) (b < a) false

/-- A lane of vcmp: all ones or zero bits. -/
def laneCmp (r : CmpRel) (x : LaneIn) (k : Nat) : Nat :=
  if laneRel r x.ty (x.la k) (x.lb k) then 2 ^ tyW x.ty - 1 else 0

/-- vcmp.eq (R216). -/
def execVcmpEq (v a n : VReg) (s : State) : Host.Outcome State Fault Refusal :=
  finish s (bitOp v (some a) (.inl n) 1 (laneCmp .eq) s)

/-- vcmp.eq, literal form. -/
def execVcmpEqLit (v a : VReg) (lit : Word) (s : State) : Host.Outcome State Fault Refusal :=
  finish s (bitOp v (some a) (.inr lit) 3 (laneCmp .eq) s)

/-- vcmp.ne (R216). -/
def execVcmpNe (v a n : VReg) (s : State) : Host.Outcome State Fault Refusal :=
  finish s (bitOp v (some a) (.inl n) 1 (laneCmp .ne) s)

/-- vcmp.ne, literal form. -/
def execVcmpNeLit (v a : VReg) (lit : Word) (s : State) : Host.Outcome State Fault Refusal :=
  finish s (bitOp v (some a) (.inr lit) 3 (laneCmp .ne) s)

/-- vcmp.lt (R216). -/
def execVcmpLt (v a n : VReg) (s : State) : Host.Outcome State Fault Refusal :=
  finish s (bitOp v (some a) (.inl n) 1 (laneCmp .lt) s)

/-- vcmp.lt, literal form. -/
def execVcmpLtLit (v a : VReg) (lit : Word) (s : State) : Host.Outcome State Fault Refusal :=
  finish s (bitOp v (some a) (.inr lit) 3 (laneCmp .lt) s)

/-- vcmp.le (R216). -/
def execVcmpLe (v a n : VReg) (s : State) : Host.Outcome State Fault Refusal :=
  finish s (bitOp v (some a) (.inl n) 1 (laneCmp .le) s)

/-- vcmp.le, literal form. -/
def execVcmpLeLit (v a : VReg) (lit : Word) (s : State) : Host.Outcome State Fault Refusal :=
  finish s (bitOp v (some a) (.inr lit) 3 (laneCmp .le) s)

/-- vcmp.gt (R216). -/
def execVcmpGt (v a n : VReg) (s : State) : Host.Outcome State Fault Refusal :=
  finish s (bitOp v (some a) (.inl n) 1 (laneCmp .gt) s)

/-- vcmp.gt, literal form. -/
def execVcmpGtLit (v a : VReg) (lit : Word) (s : State) : Host.Outcome State Fault Refusal :=
  finish s (bitOp v (some a) (.inr lit) 3 (laneCmp .gt) s)

/-- vcmp.ge (R216). -/
def execVcmpGe (v a n : VReg) (s : State) : Host.Outcome State Fault Refusal :=
  finish s (bitOp v (some a) (.inl n) 1 (laneCmp .ge) s)

/-- vcmp.ge, literal form. -/
def execVcmpGeLit (v a : VReg) (lit : Word) (s : State) : Host.Outcome State Fault Refusal :=
  finish s (bitOp v (some a) (.inr lit) 3 (laneCmp .ge) s)

/-- vcmp.un (R216). -/
def execVcmpUn (v a n : VReg) (s : State) : Host.Outcome State Fault Refusal :=
  finish s (bitOp v (some a) (.inl n) 1 (laneCmp .un) s)

/-- vcmp.un, literal form. -/
def execVcmpUnLit (v a : VReg) (lit : Word) (s : State) : Host.Outcome State Fault Refusal :=
  finish s (bitOp v (some a) (.inr lit) 3 (laneCmp .un) s)

/-- The fold of R217 with its events: the accumulator is the first operand. -/
def foldLanes (op : Nat → Nat → Conv) : List Nat → Conv → Conv
  | [], acc => acc
  | x :: xs, acc =>
    let r := op acc.bits x
    foldLanes op xs ⟨r.bits, acc.ev ||| r.ev⟩

/-- vred: lane 0 through LaneWrite, the others zero bits (R217). -/
def redLanes (op : TileType → Nat → Nat → Nat → Conv) (dnz : Bool) (x : LaneIn) : RowBits × BitVec 6 :=
  let ls := (List.range (tyLanes x.ty)).map x.la
  let r := foldLanes (fun p q => op x.ty p q x.cn) ls.tail ⟨ls.headD 0, 0⟩
  let (ws, ev) := writeLanes dnz x.ty [r]
  (mkRow x.ty ws, ev)

/-- vred.add (R217). -/
def execVredAdd (v a : VReg) (s : State) : Host.Outcome State Fault Refusal :=
  finish s (vecOp v (some a) (.inr 0) 1 (redLanes laneAdd) s)

/-- vred.min (R217). -/
def execVredMin (v a : VReg) (s : State) : Host.Outcome State Fault Refusal :=
  finish s (vecOp v (some a) (.inr 0) 1 (redLanes (laneMinMax false)) s)

/-- vred.max (R217). -/
def execVredMax (v a : VReg) (s : State) : Host.Outcome State Fault Refusal :=
  finish s (vecOp v (some a) (.inr 0) 1 (redLanes (laneMinMax true)) s)

/-! ### Scalar exchange and counting (R218) -/

/-- vsplat (R218). -/
def execVsplat (v : VReg) (a : SReg) (s : State) : Host.Outcome State Fault Refusal :=
  finish s (do
    rowAllowed s v
    let x ← readReg s a
    rowFree s v
    let ty := (s.tileOf v).ty
    .ok ((s.setRow v (rawLanes ty (fun _ => x.toNat))).advance 1))

/-- vext (R218): the lane type is that of va's tile (R209). -/
def execVext (d : SReg) (a : VReg) (l : Fin 64) (s : State) : Host.Outcome State Fault Refusal :=
  finish s (do
    let ty := (s.tileOf a).ty
    need (decide (l.val < tyLanes ty)) .illegalOp (firstWord (.vext d a l))
    rowAllowed s a
    let r ← readRow s a
    destFree s d
    let x := laneOf ty r l.val
    let y : Word := if ty.isFloat then BitVec.ofNat 64 x else signExtend x (tyW ty)
    .ok ((s.setReg d y).advance 1))

/-- vins (R218): the other lanes are unchanged. -/
def execVins (v : VReg) (a : SReg) (l : Fin 64) (s : State) : Host.Outcome State Fault Refusal :=
  finish s (do
    let ty := (s.tileOf v).ty
    need (decide (l.val < tyLanes ty)) .illegalOp (firstWord (.vins v a l))
    rowAllowed s v
    let x ← readReg s a
    rowFree s v
    let row := (s.me.row v).bits.toNat
    .ok ((s.setRow v (BitVec.ofNat 512 (putBits row (l.val * tyW ty) (tyW ty) x.toNat))).advance 1))

/-- vnnz (R218, R140). -/
def execVnnz (d : SReg) (a : VReg) (e : Fin 16) (s : State) : Host.Outcome State Fault Refusal :=
  finish s (do
    rowAllowed s a
    let r ← readRow s a
    destFree s d
    let n := ((List.range (elemCount e.val)).filter (fun k => countsNonzero e.val (elemOf e.val r.toNat k))).length
    .ok ((s.setReg d (BitVec.ofNat 64 n)).advance 1))

end Sys2Proof.Machine
end

