-- ==== Sys2Proof/Machine/Convert.lean ====
section
/-! DEFINITION. Conversion, quantisation with block scales, per-lane scales (R219..R222), and the CORDIC functions of vcord
(R223..R226). -/

namespace Sys2Proof.Machine

open Sys2Proof

/-- A result element as LaneWrite leaves it where the target code is the floating type of vd's tile (R219). -/
def rowElem (t : Tile) (code : Nat) (c : Conv) : Conv :=
  if t.ty.isFloat && tyCode t.ty == code then
    let (x, ev) := flushDnz t.dnz t.ty c.bits
    ⟨x, c.ev ||| ev⟩
  else c

/-- The words of Step for `n` result elements of the issuing context, and the state that holds its new SRSEED (R144). -/
def State.steps (s : State) (rnd n : Nat) : List (BitVec 32) × State :=
  let (ws, x) := srWords rnd s.ctx.srseed n
  (ws, s.modCtx (fun c => { c with srseed := x }))

/-- Elements put into a packed row from index `k` on. -/
def putElems (code k v : Nat) : List Nat → Nat
  | [] => v
  | x :: xs => putElems code (k + 1) (putElem code v k x) xs

/-- vcvt (R220). -/
def execVcvt (v a : VReg) (part : Fin 64) (tfmt sfmt : Fin 16) (rnd : Fin 8) (sat : Bool) (s : State) :
    Host.Outcome State Fault Refusal :=
  finish s (do
    rowAllowed s v
    rowAllowed s a
    let src ← readRow s a
    rowFree s v
    let t := s.tileOf v
    let cs := elemCount sfmt.val
    let ct := elemCount tfmt.val
    let n := min cs ct
    let (ws, s) := s.steps rnd.val n
    let from_ := if cs ≤ ct then 0 else part.val * n
    let dest := if cs ≤ ct then part.val * n else 0
    let one (k : Nat) (w : BitVec 32) : Conv :=
      rowElem t tfmt.val (convert sfmt.val tfmt.val (elemOf sfmt.val src.toNat (from_ + k)) 0 (Rnd.ofCode rnd.val w) sat
        s.cur.core)
    let out := List.zipWith one (List.range n) ws
    let row := putElems tfmt.val dest (s.me.row v).bits.toNat (out.map (·.bits))
    .ok (((s.setRow v (BitVec.ofNat 512 row)).raise (joinEv (out.map (·.ev)))).advance 3))

/-! ### Block scales (R221, R227) -/

/-- A list cut into pieces of 32, the last of which may be shorter; `fuel` bounds the pieces. -/
def blocksOf {α : Type} : Nat → List α → List (List α)
  | 0, _ => []
  | fuel + 1, xs => if xs.isEmpty then [] else xs.take 32 :: blocksOf fuel (xs.drop 32)

/-- One block converted to a floating code at its scale (R221): the scale byte, the elements and the events. `ws` are the words
of Step for its elements. -/
def scaledBlock (src dst rnd : Nat) (sat : Bool) (cn : Nat) (xs : List Nat) (ws : List (BitVec 32)) :
    Nat × List Nat × BitVec 6 :=
  let (sc, ev) := scaleFor (xs.map (elemVal src)) dst
  if sc == 255 then (sc, xs.map (fun _ => 0), ev)
  else
    let out := List.zipWith (fun x w => convert src dst x (127 - (sc : Int)) (Rnd.ofCode rnd w) sat cn) xs ws
    (sc, out.map (·.bits), ev ||| joinEv (out.map (·.ev)))

/-- The sign and the magnitude bit of a VQ2 weight, and its event (R139, R221). -/
def vq2Weight (src x sc : Nat) : Bool × Bool × BitVec 6 :=
  match elemVal src x with
  | .fin neg q =>
    let y := q.mul (Q.pow2 (127 - (sc : Int)))
    let big := !y.abs.lt (Q.ofInt 1)
    let w : Q := ⟨if big then 3 else 1, 2⟩
    (neg, big, if (if neg then w.neg else w).eq y then 0 else evNX)
  | .inf _ | .nan _ => (false, false, 0)

/-- One block converted to VQ2: its scale byte, its 16-bit indexes as bits of a number, and its events. DESIGN CHOICE (log 168): where the scale
is 0xFF, R221's code of +0, which VQ2 does not have (R139), is the index 0. -/
def vq2Block (src : Nat) (xs : List Nat) : Nat × Nat × BitVec 6 :=
  let (sc, ev) := scaleFor (xs.map (elemVal src)) 9
  if sc == 255 then (sc, 0, ev)
  else
    let ws := xs.map (fun x => vq2Weight src x sc)
    let bit (k : Nat) (w : Bool × Bool × BitVec 6) : Nat :=
      (if w.1 then 2 ^ (16 * (k / 8) + k % 8) else 0) + (if w.2.1 then 2 ^ (16 * (k / 8) + 8 + k % 8) else 0)
    (sc, (List.zipWith bit (List.range ws.length) ws).foldl (· + ·) 0, ev ||| joinEv (ws.map (·.2.2)))

/-- The source elements of vq: lane `k mod C_S` of row `va + k / C_S`. -/
def readRows (s : State) (a : Nat) : Nat → Except Stop (List RowBits)
  | 0 => .ok []
  | n + 1 => do
    let r ← readRow s (Fin.ofNat 64 a)
    let rs ← readRows s (a + 1) n
    .ok (r :: rs)

/-- vq (R221). -/
def execVq (v a n : VReg) (tfmt sfmt : Fin 16) (rnd : Fin 8) (sat : Bool) (s : State) :
    Host.Outcome State Fault Refusal :=
  finish s (do
    rowAllowed s v
    rowAllowed s a
    rowAllowed s n
    let cs := elemCount sfmt.val
    let ct := elemCount tfmt.val
    let rows ← readRows s a.val (ct / cs)
    rowFree s v
    rowFree s n
    let xs := rows.flatMap (fun r => (List.range cs).map (elemOf sfmt.val r.toNat))
    let blocks := blocksOf 8 xs
    let old := (s.me.row v).bits.toNat
    let (ws, s) := s.steps rnd.val ct
    let (scs, row, ev) : List Nat × Nat × BitVec 6 :=
      if tfmt.val == 9 then
        let out := blocks.map (vq2Block sfmt.val)
        (out.map (·.1), rowOfLanes 64 (out.map (·.2.1)), joinEv (out.map (·.2.2)))
      else
        let out := List.zipWith (scaledBlock sfmt.val tfmt.val rnd.val sat s.cur.core) blocks (blocksOf 8 ws)
        (out.map (·.1), putElems tfmt.val 0 old (out.flatMap (·.2.1)), joinEv (out.map (·.2.2)))
    let sc := putElems 7 0 (s.me.row n).bits.toNat scs
    .ok ((((s.setRow v (BitVec.ofNat 512 row)).setRow n (BitVec.ofNat 512 sc)).raise ev).advance 3))

/-- A lane of vscale under its scale byte (R222). A NaN lane keeps its sign and payload, with M's top bit set as in every NaN result (R150):
DEDUCED, since R222 says that it keeps its value (log 139). -/
def scaleLane (fmt rnd : Nat) (sat : Bool) (cn x sc : Nat) (w : BitVec 32) : Conv :=
  if sc == 255 then ⟨(convNan 10 fmt (provNaN cn 127).toNat cn).1, evNV⟩
  else match elemVal fmt x with
    | .fin _ _ => convert fmt fmt x ((sc : Int) - 127) (Rnd.ofCode rnd w) sat cn
    | .nan _ => ⟨(convNan fmt fmt x cn).1, 0⟩
    | .inf _ => ⟨x, 0⟩

/-- vscale (R222). -/
def execVscale (v a n : VReg) (fmt : Fin 16) (rnd : Fin 8) (sat : Bool) (s : State) :
    Host.Outcome State Fault Refusal :=
  finish s (do
    rowAllowed s v
    rowAllowed s a
    rowAllowed s n
    let src ← readRow s a
    let scs ← readRow s n
    rowFree s v
    let t := s.tileOf v
    let l := elemCount fmt.val
    let (ws, s) := s.steps rnd.val l
    let one (k : Nat) (w : BitVec 32) : Conv :=
      rowElem t fmt.val (scaleLane fmt.val rnd.val sat s.cur.core (elemOf fmt.val src.toNat k) (elemOf 7 scs.toNat k) w)
    let out := List.zipWith one (List.range l) ws
    let row := putElems fmt.val 0 (s.me.row v).bits.toNat (out.map (·.bits))
    .ok (((s.setRow v (BitVec.ofNat 512 row)).raise (joinEv (out.map (·.ev)))).advance 3))

/-! ### vcord (R223..R226) -/

/-- vcord (R226): the lanes are computed from va at issue; the row waits for VCORD_COMPLETE. -/
def execVcord (v a : VReg) (f : CordFn) (n : Fin 32) (s : State) : Host.Outcome State Fault Refusal :=
  finish s (do
    let t := s.tileOf v
    need t.ty.isFloat .illegalOp (firstWord (.vcord v a f n))
    rowAllowed s v
    rowAllowed s a
    let src ← readRow s a
    rowFree s v
    let (bits, ev) := writtenLanes t.dnz t.ty (fun k => cordLane t.ty f n.val (laneOf t.ty src k) s.cur.core)
    let job : VCord :=
      { row := v, bits := bits, events := ev, hv := s.cur.hv, ready := s.now + n.val + 6, live := true }
    .ok (((s.clearRow v).modMe (fun c => { c with vcords := c.vcords ++ [job] })).advance 3))

/-- VCORD_COMPLETE (R208, R226): n + 6 cycles after issue the row is written and present, and the events join VFLAG, in a
parked context's image too (R316). A reclaim leaves the row unwritten (R316, R320). -/
def execVcordComplete (cn : Nat) (v : VReg) (s : State) : Host.Outcome State Fault Refusal :=
  .next (match (s.core cn).vcords.find? (fun j => j.row == v && decide (j.ready ≤ s.now)) with
    | none => s
    | some j =>
      let s := s.modCore cn (fun c => { c with vcords := c.vcords.erase j })
      if j.live then
        (s.modCore cn (fun c => c.setRow v ⟨j.bits, true⟩)).modCtxOf cn j.hv
          (fun c => { c with vflag := c.vflag ||| j.events, bank := { c.bank with vflag := c.bank.vflag ||| j.events } })
      else s)

end Sys2Proof.Machine
end

