-- ==== Sys2Proof/Machine/Issue.lean ====
section
/-! DEFINITION. What comes before an instruction's meaning: whose turn it is and how much time passes (R11, R302), whether a
context may issue (R310, R314, R337, R350), the faults it takes first (R336), the checks of an arrival (R286, R334), and the
fetch and decoding of its next instruction (R33..R38). -/

namespace Sys2Proof.Machine

open Sys2Proof

/-! ### Turns and time -/

/-- The next turn: the head of the agenda, or a free one. -/
def nextTurn (s : State) : State × Turn :=
  match s.agenda with
  | t :: rest => ({ s with agenda := rest }, t)
  | [] => ({ s with fresh := s.fresh + 1 }, (Config.freeTurn s.fresh).getD Turn.idle)

/-- `n` cycles of 1 ns pass (R11). TIME takes at most 1 ns of a correction in 20,000 ns: 50 ppm (R302). -/
def slew (s : State) (n : Nat) : State :=
  let acc := s.slewAcc + n
  let k := Nat.min s.slewLeft.natAbs (acc / 20000)
  let d : Int := if s.slewLeft < 0 then -(k : Int) else k
  { s with now := s.now + n, time := ((s.time : Int) + n + d).toNat, slewLeft := s.slewLeft - d,
           slewAcc := if s.slewLeft == d then 0 else acc - k * 20000 }

/-! ### Who may issue -/

/-- Cap mode lets a context issue only in even cycles of its loaf's counter (R350). -/
def capHolds (s : State) (cn : Nat) : Bool := s.crust.cap && (s.now + Config.loafPhase (loafOf cn)) % 2 == 1

/-- A context of a core of the part (R9) may issue: it runs a task, or the image of a started service core, it is not stopped, and no park holds it; a
task past its commit point still ends, and a row access with a granted unit completes (R310, R314, R321, R323, R337, R359). -/
def mayIssue (s : State) (cn : Nat) (hv : Bool) : Bool :=
  let c := s.core cn
  let x := c.ctx hv
  decide (cn < Config.cores) && !x.stop && (x.task.isSome || (isSvc cn && !hv && s.crust.step == 10)) && !capHolds s cn
    && (if hv then !c.parked && (c.parking.isNone || x.ending.isSome || x.units.isSome)
        else !c.preempt.any (·.saved) && (c.preempt.isNone || x.ending.isSome || x.units.isSome))

/-! ### Faults that are due (R336) -/

/-- The oldest asynchronous fault of the running task's launch is taken (R178, R336). -/
def takeAsync (s : State) (cn : Nat) (hv : Bool) : Option State :=
  let c := s.ctxOf cn hv
  match c.async.find? (fun p => p.launch == c.launch) with
  | none => none
  | some p =>
    let s := s.modCtxOf cn hv (fun c => { c with async := c.async.erase p })
    some (takeTrap s cn hv p.cause .async c.pc c.pc p.val)

/-- The fault that a context takes at an instruction boundary outside a handler, whatever its next instruction: a held access-precise
one, a further BAR_OVER after an rte, or, where no BAR_OVER is pending, the oldest asynchronous one (R262, R336). -/
def dueFault (s : State) (cn : Nat) (hv : Bool) : Option State :=
  let c := s.ctxOf cn hv
  if c.inh then none
  else match c.held with
    | p :: rest =>
      some (takeTrap (s.modCtxOf cn hv (fun c => { c with held := rest })) cn hv p.cause .access p.epc c.pc p.val)
    | [] => if c.bops.isEmpty then takeAsync s cn hv else if c.further then some (takeBarOver s cn hv) else none

/-- An asynchronous fault is due, and the next instruction may be a point at which a pending BAR_OVER comes before it (R262, R336). -/
def asyncAfter (s : State) (cn : Nat) (hv : Bool) : Option State :=
  let c := s.ctxOf cn hv
  if c.inh || !c.held.isEmpty || c.bops.isEmpty || c.further then none else takeAsync s cn hv

/-! ### Arrival and fetch -/

/-- The arrival of a task entry or a trap vector is checked before the first instruction (R286, R334). -/
def checkArrival (s : State) : Except Stop State :=
  let c := s.ctx
  match c.arrive with
  | .none => .ok s
  | .entry resume => do
    let s ← checkTarget s c.pc (if resume then .start else .target)
    .ok (s.modCtx (fun c => { c with arrive := .none }))
  | .vector => do
    let s ← checkTarget s c.pc .target
    .ok (s.modCtx (fun c => { c with arrive := .none }))

/-- The issuing context's next instruction, in the order of R38: the line's translation, its errors, and the decoding, whose failure is ILLEGAL_OP with EVAL the first word (R34, R35, R41). -/
def fetchInstr (s : State) : Except Stop (State × Instr) := do
  let s ← checkArrival s
  let c := s.ctx
  let (s, l) ← fetchLine s c.pc c.pc
  lineSound l l.addr
  need (l.state == .ok) .lineMalformed l.addr
  let ws := l.words.drop (wordIdx c.pc)
  match decode ws with
  | .error _ => .error (illegal (ws.headD 0))
  | .ok i => .ok (s.modCtx (fun c => { c with further := c.further && c.inh }), i)

/-- What an issue turn comes to: a state, an instruction to execute, or an instruction before which an asynchronous fault is taken, in
state `u`, unless it is a point at which a BAR_OVER is taken first. -/
inductive Fetched where
  | stop (s : State)
  | run (s : State) (i : Instr)
  | due (u s : State) (i : Instr)
  deriving DecidableEq, Repr

/-- The fetched instruction is a point of R262: it took the oldest pending BAR_OVER of `s` instead of executing, or else the
asynchronous fault is taken (R336). -/
def pickDue (u s : State) (r : Host.Outcome State Fault Refusal) : Host.Outcome State Fault Refusal :=
  match r with
  | .next v => .next (if v == takeBarOver s s.cur.core s.cur.hv then v else u)
  | .fault f => .fault f
  | .refused x => .refused x

/-- A fetch that ends without an instruction: a wait goes on, and of a fault an asynchronous one comes first (R336). -/
def fetchStop (s : State) (u : Option State) (e : Stop) : State :=
  match e, u with
  | .trap .., some u | .trapAt .., some u | .ecc .., some u | .barOver, some u => u
  | _, _ => settle s (.error e)

/-- The issuing context's turn before its instruction. -/
def issueFetch (s : State) : Fetched :=
  let cn := s.cur.core
  let hv := s.cur.hv
  if !mayIssue s cn hv then .stop s
  else match if s.ctx.units.isSome then none else (fallen s cn hv).or (dueFault s cn hv) with
    | some t => .stop t
    | none =>
      let c := s.ctx
      let u := if c.units.isSome then none else asyncAfter s cn hv
      if c.ending.isSome then .stop (tryEnd s cn hv)
      else match c.pflt with
        | some pte => .stop (parkSwapped s cn hv pte)
        | none =>
          if c.moving.isSome then .stop s
          else match fetchInstr s with
            | .ok (t, i) =>
              (match u with
               | some u => .due u t i
               | none => .run t i)
            | .error e => .stop (fetchStop s u e)

/-- A row of the table that names one register of csrw or csrr: its words are those of that instruction (R44), and no agent
other than a context makes it. -/
def isCsrRow : Instr → Bool
  | .srseedWrite .. | .rdvtoWrite .. | .hvctlWrite .. | .ebudWrite .. | .pwrstatWrite .. | .pstepWrite ..
  | .rampWrite .. | .fabmodeWrite .. | .bconfWrite .. | .trimcWrite .. | .statusWrite .. | .vflagRead .. => true
  | _ => false

/-- A step of the table that has no word: an event of another agent. -/
def isEvent (i : Instr) : Bool := (encode i).isEmpty && !isCsrRow i

/-! ### A program's line placed by hand -/

/-- Line address used by `State.withFetchWord`. -/
def handLine : Word := 0x10000#64

/-- A well-formed line that holds one instruction at word 2. -/
def lineOf (ws : List Word32) : Line :=
  { addr := handLine, state := .ok,
    words := 0x40000001#32 :: 0#32 :: (ws.take 30 ++ List.replicate (30 - ws.length) 0#32) }

/-- The execute right of the page that holds `handLine`, for launch 1. -/
def handPage : TlbEntry :=
  { base := 0x10000, lvl := 0, launch := 1, pte := 0, frame := 0, key := 1, mig := false, rchk := false, rd := true,
    wr := false, ex := true, dirty := false }

/-- A launch of core 0 alone. -/
def handLaunch : Launch :=
  { num := 1, by_ := .host, obj := 0, parent := 0, root := 0, qarea := 0, ttab := 0, lq := 6, cls := 2, place := [0],
    entry := 0x10008, ebud := 0, energy := 0, live := true, bells := [] }

/-- A task of launch 1 on core 0. -/
def handTask : Task := { launch := 1, chan := 2, akind := 0, aid := 0, frame := 0, excl := false, loanLost := false }

/-- Core 0's owner context about to fetch the instruction of a line. -/
def handCtx (c : Ctx) (l : Line) : Ctx :=
  { c with pc := handLine + 8, closedFrom := none, task := some handTask, stop := false, async := [], held := [],
           bops := [], units := none, further := false, ending := none, moving := none, pflt := none, arrive := .none, icache := [l] }

/-- A state in which the very next step fetches and runs the instruction `ws`. -/
def placeWords (s : State) (ws : List Word32) : State :=
  let s := s.modCore 0 (fun c =>
    { c with owner := handCtx c.owner (lineOf ws), launch := 1, preempt := none, itlb := tlbAdd 16 handPage c.itlb })
  let ls := if (s.launch 1).isSome then s.launches else s.launches ++ [handLaunch]
  { s with agenda := ⟨1, .issue 0 false⟩ :: s.agenda, launches := ls, crust := { s.crust with cap := false } }

end Sys2Proof.Machine
end

