-- ==== Sys2Proof/Machine/System.lean ====
section
/-! DEFINITION. System instructions: traps and their return (R344, R345), control registers (R44, R346 and the register maps of
the chapters they name), TLB invalidation (R347), halt (R348), svc (R349), fences (R283), and the events that take a due fault
(R336) and a presence timeout (R110). -/

namespace Sys2Proof.Machine

open Sys2Proof

/-! ### trap, rte, halt -/

/-- trap (R344): the RPC is the next instruction. -/
def execTrap (code : BitVec 10) (s : State) : Host.Outcome State Fault Refusal :=
  finish s (match s.ctx.nextPc 1 with
    | (_, some line) => .error (.trap .lineMalformed line)
    | (next, none) =>
      .ok (takeTrap s s.cur.core s.cur.hv .trapInsn .precise s.ctx.pc next (BitVec.ofNat 64 code.toNat)))

/-- The registers of a keep mask are waited for (R345). -/
def keptPresent (s : State) (m : BitVec 16) : Except Stop Unit :=
  match (List.finRange 16).find? (fun i => m.getLsbD i.val && !s.ctx.regs[i].present) with
  | some i => .error (.stall (some i.val))
  | none => .ok ()

/-- rte and rte.at (R345): a target that fails its checks is a fault of the handler, which stops the context. -/
def returnWith (d : SReg) (at_ : Option SReg) (w : Word) (s : State) : Act := do
  need (s.ctx.mode && s.ctx.inh) .illegalOp w
  let m ← readReg s d
  keptPresent s (m.setWidth 16)
  match at_ with
  | none => .ok (s.modCtx (fun c => returnFrom c (m.setWidth 16) none))
  | some a => do
    let t ← readReg s a
    let s ← checkTarget s t .start
    .ok (s.modCtx (fun c => returnFrom c (m.setWidth 16) (some t)))

/-- rte (R345). -/
def execRte (d : SReg) (s : State) : Host.Outcome State Fault Refusal :=
  finish s (returnWith d none (firstWord (.rte d)) s)

/-- rte.at (R345). -/
def execRteAt (d a : SReg) (s : State) : Host.Outcome State Fault Refusal :=
  finish s (returnWith d (some a) (firstWord (.rteAt d a)) s)

/-- halt (R348). A halt that ends a CLOSED line has completed, and LINE_MALFORMED is due where its context goes on (R35). -/
def execHalt (s : State) : Host.Outcome State Fault Refusal :=
  let cn := s.cur.core
  let hv := s.cur.hv
  let c := s.ctx
  let (next, closed) := c.nextPc 1
  finish s (.ok (
    if c.inh then stopCtx s cn hv 0 (c.ecause.toNat % 256) c.epc c.eval
    else if isSvc cn then stopCtx (s.modCtx (fun c => { c with bank := c.toBank next, closedFrom := closed })) cn hv 5 0 0 0
    else stopCtx (s.modCtx (fun c => { c with ecause := 0, epc := c.pc, bank := c.toBank next, closedFrom := closed })) cn hv 0 0 c.pc c.eval))

/-! ### Control registers (R44) -/

/-- Bits gathered into a number. -/
def flagBit (x : Bool) (i : Nat) : Nat := if x then 2 ^ i else 0

/-- HVCTL (R312). -/
def hvctlWord (c : Core) : Word :=
  BitVec.ofNat 64 (c.revokes * 2 ^ 32 + flagBit c.permit 4 + flagBit c.excld 3 + flagBit c.parked 2
    + flagBit c.harv.task.isSome 1 + flagBit c.en 0)

/-- LOAN (R318). -/
def loanWord (l : Loan) : Word := BitVec.ofNat 64 (flagBit l.t3 16 + l.nunits * 256 + l.base)

/-- PSTEP of a core's loaf (R352). -/
def pstepWord (s : State) (cn : Nat) : Word :=
  let l := s.loaf (loafOf cn)
  if isSvc cn then 0 else BitVec.ofNat 64 (l.floor * 256 + l.step)

/-- PWRSTAT as a context reads it (R351). -/
def pwrstatWord (s : State) (cn launch : Nat) : Word :=
  let c := s.crust
  let isOver := !isSvc cn && (s.launch launch).any Launch.over
  BitVec.ofNat 64 (c.power % 2 ^ 16 * 2 ^ 32 + c.nextLim % 2 ^ 12 * 2 ^ 16 + c.cstep % 16 * 256 + flagBit c.cap 3
    + flagBit (s.loaf (loafOf cn)).ramping 2 + flagBit isOver 1 + flagBit c.above 0)

/-- RAMP of a core's loaf (R354). -/
def rampWord (s : State) (cn : Nat) : Word :=
  let l := s.loaf (loafOf cn)
  BitVec.ofNat 64 (flagBit l.rampEn 16 + l.period % 2 ^ 16)

/-- FABMODE of a core's loaf (R241). -/
def fabmodeWord (s : State) (cn : Nat) : Word :=
  let l := s.loaf (loafOf cn)
  if isSvc cn then 0 else BitVec.ofNat 64 (l.rto % 256 * 2 ^ 16 + flagBit l.modeE 0)

/-- A 64-bit value that the specification leaves open. -/
def State.freeWord (s : State) : State × Word :=
  ({ s with fresh := s.fresh + 1 }, BitVec.ofNat 64 (Config.freeNat s.fresh))

/-- The value of a CSR as the issuing context reads it; none where the number is unassigned or the mode has no access (R44). RAMP
of a service core, which belongs to no loaf, has free EN and PERIOD; its reserved bits are zero (R6, R354). -/
def csrRead (s : State) (n : Nat) : Option (State × Word) :=
  let cn := s.cur.core
  let c := s.ctx
  let me := s.me
  let l := s.launch s.myLaunch
  match n with
  | 0x000 => some (s, BitVec.ofNat 64 (flagBit (isSvc cn) 15 + cn % 32768))
  | 0x001 => some (s, BitVec.ofNat 64 (if isSvc cn then 32768 else sliceOf cn))
  | 0x002 => some (s, BitVec.ofNat 64 (loafOf cn))
  | 0x010 => some (s, statusWord s cn s.cur.hv)
  | 0x011 => some (s, c.ecause.setWidth 64)
  | 0x012 => some (s, c.epc)
  | 0x013 => some (s, c.eval)
  | 0x020 => some (s, BitVec.ofNat 64 s.time)
  | 0x021 => some (s, (l.map Launch.ecnt).getD 0)
  | 0x022 => some (s, (l.map (·.ebud)).getD 0)
  | 0x023 => some (s, pstepWord s cn)
  | 0x024 => some (s, pwrstatWord s cn s.myLaunch)
  | 0x025 => if !c.mode then none else if isSvc cn then some (let (t, v) := s.freeWord; (t, v &&& 0x1FFFF)) else some (s, rampWord s cn)
  | 0x030 => some (s, me.bconf)
  | 0x031 => some (s, me.trimc)
  | 0x032 => some (s, me.rdvto.setWidth 64)
  | 0x040 => some (s, hvctlWord me)
  | 0x041 => some (s, loanWord me.loan)
  | 0x050 => some (s, c.srseed.setWidth 64)
  | 0x051 => some (s, c.vflag.setWidth 64)
  | 0x060 => if c.mode then some (s, fabmodeWord s cn) else none
  | _ => none

/-- A CSR that user mode may write (R44). -/
def userWrites (n : Nat) : Bool := n == 0x030 || n == 0x031 || n == 0x032 || n == 0x050 || n == 0x051

/-- A CSR that the supervisor may write (R44). -/
def csrWrites (n : Nat) : Bool :=
  userWrites n || n == 0x010 || n == 0x011 || n == 0x012 || n == 0x013 || n == 0x022 || n == 0x023 || n == 0x024 || n == 0x025
    || n == 0x040 || n == 0x041 || n == 0x060

/-- EN of HVCTL written: EN = 1 without PERMIT stores 0, and a clearing begins a park (R312, R313). -/
def writeEn (s : State) (cn : Nat) (en : Bool) : State :=
  let c := s.core cn
  let en := en && c.permit
  let s := s.modCore cn (fun c => { c with en := en })
  if c.en && !en then beginPark s cn else s

/-- A CSR of a context or its core written field by field under its access codes (R5, R346). The debug unit writes through the
same operation (R340). DESIGN CHOICE (log 163): PWRSTAT ignores a write on a service core, for which R351 gives none. -/
def csrStore (s : State) (cn : Nat) (hv : Bool) (n : Nat) (v : Word) : State :=
  let lf := loafOf cn
  match n with
  | 0x010 => if v.getLsbD 23 then s.modCtxOf cn hv (fun c => { c with povf := false }) else s
  | 0x011 => s.modCtxOf cn hv (fun c => { c with ecause := v.setWidth 10 })
  | 0x012 => s.modCtxOf cn hv (fun c => { c with epc := v })
  | 0x013 => s.modCtxOf cn hv (fun c => { c with eval := v })
  | 0x022 =>
    let l := (s.ctxOf cn hv).launch
    refreshLaunch (s.modLaunch l (fun x => { x with ebud := v })) l
  | 0x023 => if isSvc cn then s else s.modLoaf lf (fun l => { l with floor := bitsOf v.toNat 8 4 })
  | 0x024 =>
    if isSvc cn then s
    else
      let x := bitsOf v.toNat 16 12
      s.modCrust (fun c => { c with nextLim := if x < 1200 then 1200 else if 2400 < x then 2400 else x })
  | 0x025 =>
    if isSvc cn then s
    else
      let p := bitsOf v.toNat 0 16
      let en := v.getLsbD 16
      (closeOctets s lf).modLoaf lf (fun l =>
        { l with rampEn := en, period := if p < 250 then 250 else p, g := if en then l.g else 16 })
  | 0x030 => s.modCore cn (fun c => { c with bconf := v })
  | 0x031 => s.modCore cn (fun c => { c with trimc := v })
  | 0x032 =>
    let x : BitVec 32 := v.setWidth 32
    s.modCore cn (fun c => { c with rdvto := if x.toNat < 256 then 256 else x })
  | 0x040 => writeEn s cn (v.getLsbD 0)
  | 0x050 =>
    let x : BitVec 32 := v.setWidth 32
    s.modCtxOf cn hv (fun c => { c with srseed := if x == 0 then 1 else x })
  | 0x051 => s.modCtxOf cn hv (fun c => { c with vflag := v.setWidth 6 })
  | 0x060 =>
    if isSvc cn then s
    else
      let x := bitsOf v.toNat 16 8
      s.modLoaf lf (fun l => { l with rto := if x == 0 then 1 else x })
  | _ => s

/-- VFLAG is read only once every vcord of the context has ended (R211). -/
def vcordsDone (s : State) : Bool := !s.me.vcords.any (fun j => j.live && j.hv == s.cur.hv)

/-- csrr (R346). -/
def readCsr (d : SReg) (n : Nat) (s : State) : Act :=
  match csrRead s n with
  | none => .error (.trap .illegalOp (BitVec.ofNat 64 n))
  | some (t, v) => do
    destFree s d
    waitFor (n != 0x051 || vcordsDone s) none
    .ok ((t.setReg d v).advance 1)

/-- csrw (R346). -/
def writeCsr (n : Nat) (a : SReg) (s : State) : Act := do
  need (if s.ctx.mode then csrWrites n else userWrites n) .illegalOp (BitVec.ofNat 64 n)
  let v ← readReg s a
  .ok ((csrStore s s.cur.core s.cur.hv n v).advance 1)

/-- csrr (R346). -/
def execCsrr (d : SReg) (n : BitVec 10) (s : State) : Host.Outcome State Fault Refusal := finish s (readCsr d n.toNat s)

/-- csrw (R346). -/
def execCsrw (n : BitVec 10) (a : SReg) (s : State) : Host.Outcome State Fault Refusal := finish s (writeCsr n.toNat a s)

/-- csrw of SRSEED: 0 stores 1 (R143). -/
def execSrseedWrite (a : SReg) (s : State) : Host.Outcome State Fault Refusal := finish s (writeCsr 0x050 a s)

/-- csrw of RDVTO: below 256 stores 256 (R175). -/
def execRdvtoWrite (a : SReg) (s : State) : Host.Outcome State Fault Refusal := finish s (writeCsr 0x032 a s)

/-- csrw of HVCTL (R312, R313). -/
def execHvctlWrite (a : SReg) (s : State) : Host.Outcome State Fault Refusal := finish s (writeCsr 0x040 a s)

/-- csrw of EBUD (R304, R356). -/
def execEbudWrite (a : SReg) (s : State) : Host.Outcome State Fault Refusal := finish s (writeCsr 0x022 a s)

/-- csrw of PWRSTAT: LIMIT, held to 1,200..2,400, from the next window on (R351). -/
def execPwrstatWrite (a : SReg) (s : State) : Host.Outcome State Fault Refusal := finish s (writeCsr 0x024 a s)

/-- csrw of PSTEP: FLOOR of the loaf (R352). -/
def execPstepWrite (a : SReg) (s : State) : Host.Outcome State Fault Refusal := finish s (writeCsr 0x023 a s)

/-- csrw of RAMP (R354). -/
def execRampWrite (a : SReg) (s : State) : Host.Outcome State Fault Refusal := finish s (writeCsr 0x025 a s)

/-- csrw of FABMODE: RTO of the loaf, 0 stores 1 (R241). -/
def execFabmodeWrite (a : SReg) (s : State) : Host.Outcome State Fault Refusal := finish s (writeCsr 0x060 a s)

/-- csrw of BCONF (R84). -/
def execBconfWrite (a : SReg) (s : State) : Host.Outcome State Fault Refusal := finish s (writeCsr 0x030 a s)

/-- csrw of TRIMC (R238). -/
def execTrimcWrite (a : SReg) (s : State) : Host.Outcome State Fault Refusal := finish s (writeCsr 0x031 a s)

/-- csrw of STATUS: a one clears POVF (R332). -/
def execStatusWrite (a : SReg) (s : State) : Host.Outcome State Fault Refusal := finish s (writeCsr 0x010 a s)

/-- csrr of VFLAG (R211). -/
def execVflagRead (d : SReg) (s : State) : Host.Outcome State Fault Refusal := finish s (readCsr d 0x051 s)

/-! ### tlbi and tlbv (R347) -/

/-- Loaf of a slice; 8 for the service cores'. -/
def loafOfSlice (sl : Nat) : Nat := if 512 ≤ sl then 8 else sl / 32 / 8 * 4 + sl % 32 / 8

/-- A core lies in the scope around another (R274, R347). -/
def coreInScope (cn : Nat) (sc : Scope) (k : Nat) : Bool :=
  match sc with
  | .core => k == cn
  | .slice => sliceOf k == sliceOf cn
  | .loaf => loafOf k == loafOf cn
  | .dev => true

/-- A slice's second level belongs to the scope. -/
def sliceInScope (cn : Nat) (sc : Scope) (sl : Nat) : Bool :=
  match sc with
  | .core | .slice => sl == sliceOf cn
  | .loaf => loafOfSlice sl == loafOf cn
  | .dev => true

/-- Entries that a test names leave every TLB of a scope; a walk in progress there ends, and its request walks anew (R347). -/
def dropEntries (s : State) (cn : Nat) (sc : Scope) (p : TlbEntry → Bool) : State :=
  let keep (l : List TlbEntry) : List TlbEntry := l.filter (fun e => !p e)
  let anew (w : Walk) : Walk :=
    if coreInScope cn sc w.core then { w with phase := .start, req := { w.req with mark := none } } else w
  { s with cores := s.cores.map (fun x =>
             if coreInScope cn sc x.1 then (x.1, { x.2 with dtlb := keep x.2.dtlb, itlb := keep x.2.itlb }) else x),
           slices := s.slices.map (fun x =>
             let sl := { x.2 with walks := x.2.walks.map anew }
             (x.1, if sliceInScope cn sc x.1 then { sl with tlb := keep sl.tlb } else sl)) }

/-- A home in HBM. -/
def Home.isDie : Home → Bool
  | .die _ => true
  | .door _ | .far _ => false

/-- An operation has an element's access under way that was sent before `id`. -/
def CopyOp.sentBefore (o : CopyOp) (id : Nat) : Bool :=
  o.elems.any (fun e => match e.st with
    | .reading k | .writing k .. => decide (k < id)
    | .fetching _ | .loaded _ | .storing .. | .done | .failed => false)

/-- A global access of a core, issued before `id`, is not yet acknowledged, a line fill included. -/
def Core.globalBefore (c : Core) (id : Nat) : Bool :=
  let open_ (x : Ctx) : Bool := x.out.any (fun o => o.tag.isSome && o.home.isDie && decide (o.id < id))
    || x.fill.any (fun f => f.asked.any (fun k => decide (k < id)))
  open_ c.owner || open_ c.harv || c.copies.any (fun o => o.sentBefore id)

/-- An invalidation: the entries leave at once, and issue then waits for the accesses of the scope that were under way (R347). -/
def invalidate (sc : Scope) (p : TlbEntry → Bool) (s : State) : Act :=
  let cn := s.cur.core
  match s.ctx.inval with
  | none =>
    let t := dropEntries s cn sc p
    .error (.wait (t.modCtx (fun c => { c with inval := some s.ids })))
  | some id => do
    waitFor (!s.cores.any (fun x => coreInScope cn sc x.1 && x.2.globalBefore id)) none
    .ok ((s.modCtx (fun c => { c with inval := none })).advance 1)

/-- What both invalidations check (R329, R347). -/
def invalOk (s : State) (sc : Scope) (w : Word) : Except Stop Unit := do
  need s.ctx.mode .illegalOp w
  need (!isSvc s.cur.core || sc == .dev) .illegalOp w

/-- An entry maps the page that holds an address (R347). -/
def TlbEntry.maps (e : TlbEntry) (va : Word) : Bool :=
  e.base == va.toNat % 2 ^ 48 / 2 ^ pageBits e.lvl * 2 ^ pageBits e.lvl

/-- tlbi (R347). -/
def execTlbi (all : Bool) (sc : Scope) (a b : SReg) (s : State) : Host.Outcome State Fault Refusal :=
  finish s (do
    invalOk s sc (firstWord (.tlbi all sc a b))
    let va ← readReg s a
    let l ← if all then .ok 0 else readReg s b
    need (isCanon va) .addrNoncanon va
    let upper := va.toNat.testBit 47
    invalidate sc (fun e => e.maps va && (upper || all || e.launch == l.toNat % 65536)) s)

/-- tlbv (R347). -/
def execTlbv (all : Bool) (sc : Scope) (b : SReg) (s : State) : Host.Outcome State Fault Refusal :=
  finish s (do
    invalOk s sc (firstWord (.tlbv all sc b))
    let l ← if all then .ok 0 else readReg s b
    invalidate sc (fun e => all || e.launch == l.toNat % 65536) s)

/-! ### svc (R349) -/

/-- svc (R349): a release at scope .dev, then a wait for the resident kernel's reply. -/
def execSvc (d a : SReg) (n : Fin 8) (s : State) : Host.Outcome State Fault Refusal :=
  finish s (match s.ctx.svc with
    | some _ => .error (.stall none)
    | none => do
      let args ← readRegs s a.val n.val
      destFree s d
      releaseOk s
      let t := clearTags s s.cur.core .dev
      .error (.wait (t.modCtx (fun c => { c with svc := some ⟨d, args⟩ }))))

/-- SVC_REPLY: the resident kernel answers a waiting svc (R349). A harvest context that is being parked takes no reply. -/
def execSvcReply (cn : Nat) (hv : Bool) (v : Word) (s : State) : Host.Outcome State Fault Refusal :=
  let c := s.ctxOf cn hv
  .next (match c.svc with
    | none => s
    | some r =>
      if c.stop || (hv && ((s.core cn).parking.isSome || (s.core cn).parked)) then s
      else (s.modCtxOf cn hv (fun c => { c.setReg r.dest v with svc := none })).advanceOf cn hv 1)

/-! ### fence (R283) -/

/-- Loads and gets that fence.acq waits for. -/
def Ctx.loadsIn (c : Ctx) (cn : Nat) (sc : Scope) : Bool :=
  c.out.any (fun o => o.tag.isSome && o.load && inScope cn sc o.home) || !c.ngets.isEmpty

/-- fence (R283): a pending BAR_OVER is taken first (R262). -/
def execFence (o : FenceOrd) (sc : Scope) (s : State) : Host.Outcome State Fault Refusal :=
  let cn := s.cur.core
  let c := s.ctx
  finish s (
    if !c.inh && !c.bops.isEmpty then .error .barOver
    else match o with
      | .acq => do
        waitFor (!c.loadsIn cn sc) none
        .ok (s.advance 1)
      | .rel =>
        let s := s.modCtx (fun c => { c with rels := c.rels ++ [⟨sc, s.ids⟩] })
        .ok ((settleRels s cn s.cur.hv).advance 1)
      | .full => do
        waitFor (!openBefore s cn s.cur.hv s.ids sc) none
        let s := clearTags s cn sc
        .ok ((match sc with
          | .dev => fenceLines s cn
          | .core | .slice | .loaf => s).advance 1))

/-! ### Due faults and timeouts -/

/-- ASYNC_FAULT_TAKE: a context takes the fault that is due at its instruction boundary (R336). -/
def execAsyncFaultTake (cn : Nat) (hv : Bool) (s : State) : Host.Outcome State Fault Refusal :=
  .next (if mayIssue s cn hv && (s.ctxOf cn hv).units.isNone then ((fallen s cn hv).or (dueFault s cn hv)).getD s else s)

/-- PRESENCE_TIMEOUT: the count of a stall passes 65,536 cycles. The instruction traps with no effect at its context's next turn, if it
still waits then (R110). -/
def execPresenceTimeout (cn : Nat) (hv : Bool) (s : State) : Host.Outcome State Fault Refusal :=
  let c := s.ctxOf cn hv
  .next (match c.stall with
    | some ⟨some code, since, _⟩ =>
      if mayIssue s cn hv && decide (since + Config.presenceLimit < s.now) then
        s.modCtxOf cn hv (fun c => { c with stall := some ⟨some code, since, true⟩ })
      else s
    | _ => s)

end Sys2Proof.Machine
end

