-- ==== Sys2Proof/Machine/Harvest.lean ====
section
/-! DEFINITION. The harvest context: parks and resumes (R313..R317), loans and reclaims (R318..R321), and lend, reclaim, hvon and
hvoff (R326). -/

namespace Sys2Proof.Machine

open Sys2Proof

/-! ### What of the owner touches a window (R326) -/

/-- An area of `n` bytes touches the window. -/
def Loan.touches (l : Loan) (off n : Nat) : Bool := anyIn l off n

/-- A reed command's operands or object touch the window (R163, R199). -/
def RCmd.touches (c : RCmd) (w : Loan) : Bool :=
  match c.body with
  | .inl x =>
    let (nv, ns) : Nat × Nat := match x.bind with
      | some b => (sparseBytes x.fmt b, (b.nrow + 31) / 32)
      | none => (256 * x.ncol, 32 * x.ncol)
    w.touches x.cols nv || w.touches x.scl ns || w.touches x.obj 8
  | .inr f => w.touches f.cols (256 * f.m) || w.touches f.scl (32 * f.m) || w.touches f.obj 8

/-- A reed's commands and its latch's object, where they are a core's. -/
def reedTouches (s : State) (cn : Nat) (w : Loan) (reed : Nat) : Bool :=
  let r := s.reed reed
  (r.qw ++ r.qe).any (fun c => c.core == cn && c.touches w)
    || (r.latch.core == cn && r.latch.state != .empty && r.latch.state != .spent && w.touches r.latch.cmd.obj 8)

/-- A command of a stream port touches the window. -/
def PortCmd.touches (c : PortCmd) (w : Loan) : Bool :=
  match c with
  | .send off n obj _ _ _ => w.touches off n || w.touches obj 8
  | .close => false

/-- A scoreboard entry, reed command, arm, ssend, bellows operation or drain of the owner touches the window (R326). -/
def ownerTouches (s : State) (cn : Nat) (w : Loan) : Bool :=
  let c := s.core cn
  c.board.any (fun r => w.touches r.lo (r.hi + 1 - r.lo))
    || c.copies.any (fun o => w.touches o.obj 8)
    || c.arms.any (fun a => w.touches a.obj 8)
    || (reedsOf cn).any (fun p => reedTouches s cn w p.1)
    || c.ports.toList.any (fun p => p.queue.any (·.touches w) || p.serving.any (·.touches w))
    || s.bellows.any (fun b => b.launch == c.launch && b.members.any (fun m =>
         m.core == cn && !m.done && ((!m.bar && w.touches m.buf 64) || w.touches m.obj 8)))

/-! ### lend (R326) -/

/-- The loan that a loan word names (R318). -/
def Loan.ofWord (w : Word) : Loan := ⟨w.toNat.testBit 16, bitsOf w.toNat 8 5, bitsOf w.toNat 0 4⟩

/-- A loan word that lend accepts (R326). -/
def loanWordOk (w : Word) : Bool :=
  let x := w.toNat
  let n := bitsOf x 8 5
  bitsOf x 17 47 == 0 && bitsOf x 13 3 == 0 && bitsOf x 4 4 == 0 && decide (n ≤ 16) && decide (bitsOf x 0 4 + n ≤ 16)
    && (n != 0 || x.testBit 16)

/-- lend (R326). -/
def execLend (a : SReg) (s : State) : Host.Outcome State Fault Refusal :=
  finish s (do
    let fw := firstWord (.lend a)
    ownerOnly s fw
    need (s.me.loan == Loan.none) .illegalOp fw
    let w ← readReg s a
    need (loanWordOk w) .localRange w
    let l := Loan.ofWord w
    waitFor (!ownerTouches s s.cur.core l) (some 0x100)
    if l.t3 then waitTile s 3
    let s := if l.t3 then s.setTile 3 Tile.reset else s
    .ok ((s.modMe (fun c => { c with loan := l })).advance 1))

/-! ### reclaim (R320, R321) -/

/-- The harvest task is aborted: its context is freed, its later replies are discarded, its await entries go, and its
restart record is posted to channel 7 with LOAN_LOST and its CHAN unchanged (R320 steps 1 and 2). -/
def abortHarvest (s : State) (cn : Nat) : State :=
  let record := (s.core cn).harv.bank.restart
  let upTo := s.ids
  let s := s.modCore cn (fun c =>
    { c with awaits := c.awaits.filter (fun a => !a.hv),
             parked := false, parking := none,
             harv := { c.harv with held := [], async := [], bops := [], povf := false } })
  let s := freeCtx s cn true
  match record with
  | some r => s.hwPost { r with loanLost := true } cn (some 7) (some (true, upTo))
  | none => s

/-- A reply for a row is discarded: the row is no longer lent (R326). -/
def Out.cutRow (o : Out) : Out := match o.dest with
  | .row _ => { o with dest := .none }
  | .none | .reg .. | .bindC .. | .bindP .. | .arrive _ => o

/-- Nothing of the harvest writes the window or t3 from now on: its copies, vcords and row loads stop, and its requests that are under way
meet the loan as reclaimed (R316, R320, R326). -/
def stopHarvestWrites (s : State) (cn : Nat) : State :=
  let (s, id) := (dropHarvestOps s cn).newId
  s.modCore cn (fun c =>
    { c with vcords := updWhere (fun j => j.hv) (fun j => { j with live := false }) c.vcords,
             harv := { c.harv with out := c.harv.out.map Out.cutRow },
             gone := if c.loan == Loan.none then c.gone else c.gone ++ [(id, c.loan)] })

/-- A reclaim (R320): a harvest task that is past its commit point ends as it would; any other is aborted. -/
def reclaimLoan (s : State) (cn : Nat) : State :=
  let c := s.core cn
  let s := stopHarvestWrites (beginPark s cn) cn
  let s := if c.harv.task.isSome && c.harv.ending.isNone then abortHarvest s cn else s
  let s := if c.loan.t3 then s.modCore cn (fun x => { x with tiles := x.tiles.set 3 Tile.reset }) else s
  s.modCore cn (fun x => { x with loan := Loan.none })

/-- reclaim (R326). -/
def execReclaim (s : State) : Host.Outcome State Fault Refusal :=
  finish s (do
    ownerOnly s (firstWord .reclaim)
    .ok ((if s.me.loan == Loan.none then s else reclaimLoan s s.cur.core).advance 1))

/-! ### hvon and hvoff (R326) -/

/-- hvon (R326). -/
def execHvon (s : State) : Host.Outcome State Fault Refusal :=
  finish s (do
    ownerOnly s (firstWord .hvon)
    .ok ((s.modMe (fun c => { c with en := c.en || c.permit })).advance 1))

/-- hvoff (R326): issue does not stall. -/
def execHvoff (s : State) : Host.Outcome State Fault Refusal :=
  finish s (do
    ownerOnly s (firstWord .hvoff)
    .ok ((if s.me.en then beginPark (s.modMe (fun c => { c with en := false })) s.cur.core else s).advance 1))

/-! ### Parks and resumes (R314..R317) -/

/-- The harvest's state goes into PB1: an instruction that has not completed is abandoned, and the parked pc names it. A context
that a trap stopped has its state there already (R314, R315, R334). -/
def parkHarvest (s : State) (cn : Nat) : State :=
  let s := dropWalk s cn true
  s.modCore cn (fun c =>
    let h := c.harv.abandon
    { c with harv := if h.stop then h else { h with bank := h.toBank h.pc }, parked := true, parking := none })

/-- HARVEST_PARK (R314, R321): the end of a park that has begun. A row access with a granted unit completes first, and a task past its
commit point ends: R314 names the tag wait of a task-ending instruction among what is abandoned, and R321 says that neither a park nor a
reclaim abandons it; the model follows R321 (log 128). -/
def execHarvestPark (cn : Nat) (s : State) : Host.Outcome State Fault Refusal :=
  let c := s.core cn
  .next (match c.parking with
    | none => s
    | some _ =>
      if c.harv.task.isNone then s.modCore cn (fun c => { c with parking := none })
      else if c.harv.ending.isSome || c.harv.units.isSome then s
      else parkHarvest ((fallen s cn true).getD s) cn)

/-- The harvest may run (R312). -/
def Core.harvestOn (c : Core) : Bool := c.en && c.permit && !c.excld

/-- PB1 goes back into the context (R317). -/
def Ctx.fromBank (c : Ctx) : Ctx :=
  { c with regs := c.bank.regs, pc := c.bank.rpc, handles := c.bank.handles, srseed := c.bank.srseed,
           vflag := c.bank.vflag, stall := none }

end Sys2Proof.Machine
end

