-- ==== Sys2Proof/Machine/Sched.lean ====
section
/-! DEFINITION. The scheduler: the switch of a core's owner launch (R322..R325), the pick and the start of a task (R286, R293,
R294), posts of hardware (R290), quantum boundaries (R291), timer wheels (R301) and the return of a swapped page (R308). -/

namespace Sys2Proof.Machine

open Sys2Proof

/-! ### The switch of the owner launch (R323, R324) -/

/-- A core's owner launch may be switched now: the owner's accesses are back, no fault waits, no vcord, copy or drain of the
launch is under way, and the harvest is parked or holds no task. A handler runs to its end first (R323). -/
def canSwitch (s : State) (cn : Nat) : Bool :=
  let c := s.core cn
  c.owner.out.isEmpty && c.owner.held.isEmpty && c.owner.ending.isNone && !c.owner.inh && c.owner.moving.isNone
    && c.owner.units.isNone
    && c.owner.pflt.isNone && !c.vcords.any (fun j => j.live && !j.hv) && !c.copies.any (fun o => o.launch == c.launch)
    && (c.harv.task.isNone || c.parked)

/-- The harvest ends on the outgoing terms: a reclaim where a loan stands, else a park (R323 step 2). -/
def endHarvest (s : State) (cn : Nat) : State :=
  if (s.core cn).loan == Loan.none then beginPark s cn else reclaimLoan s cn

/-- A waiting command as a save frame keeps it: the cycles in which its launch is switched out do not count (R175). -/
def RCmd.frozen (c : RCmd) (now : Nat) : RCmd :=
  let (w, t) := clock now false c.waited c.since
  { c with waited := w, since := t }

/-- What a save frame keeps of a core (R323 steps 5 and 7, R124, R180). A pending nget keeps its turn for a lane word, but no register: the
record of a pre-empted task makes every register present (R286), and a later task may hold it. DESIGN CHOICE, since no rule says where
such a word goes (log 129). -/
def frameOf (s : State) (cn : Nat) : Frame :=
  let c := s.core cn
  let binds := (reedsOf cn).filterMap (fun p =>
    ((if p.2 then (s.reed p.1).be else (s.reed p.1).bw).map (fun b => (p.1, p.2, b))))
  { launch := c.launch, lm := c.lm, tiles := c.tiles, arms := c.arms, store := c.store, awaits := c.awaits, rdvto := c.rdvto,
    bconf := c.bconf, trimc := c.trimc, en := c.en, excld := c.excld,
    lanes := c.lanes.map (fun l => { l with link := [], back := [] }), ports := c.ports,
    srseeds := (c.owner.srseed, c.harv.srseed), vflags := (c.owner.vflag, c.harv.vflag), handles := c.owner.handles,
    queues := (reedsOf cn).map (fun p => (p.1, p.2, ((s.reed p.1).queue p.2).map (·.frozen s.now))), binds := binds, revokes := c.revokes,
    ngets := c.owner.ngets.map (fun g => { g with dest := none }), bops := c.owner.bops, board := c.board.filter (fun r => !r.hv) }

/-- The trap registers at their reset values: what the outgoing launch's faults left there, the incoming one does not see (R322, R332). No
rule saves them with the launch (log 156). -/
def Ctx.cleared (c : Ctx) : Ctx := { c with ecause := 0, epc := 0, eval := 0, povf := false }

/-- The trap registers of both contexts cleared at a switch, but those of a harvest that holds a task, whose launch they belong to (R322). -/
def Core.clearCsrs (c : Core) : Core :=
  { c with owner := c.owner.cleared, harv := if c.harv.task.isSome then c.harv else c.harv.cleared }

/-- A core without an owner launch: the state of a launch's first start, local memory as it stands (R323 step 8, R188). -/
def Core.bare (c : Core) : Core :=
  { c with launch := 0, tiles := Vector.replicate 4 Tile.reset, arms := [], store := [], awaits := [], rdvto := 0x00010000,
           bconf := 0, trimc := 0, en := false, excld := false,
           lanes := c.lanes.map (fun l => { l with buf := [], credits := 4 }), ports := Vector.replicate 2 Port.reset,
           revokes := 0, loan := Loan.none, board := c.board.filter (fun r => r.hv),
           owner := { c.owner with srseed := 1, vflag := 0, handles := Vector.replicate 8 .unbound, ngets := [], bops := [] },
           harv := { c.harv with srseed := 1, vflag := 0 } }

/-- The outgoing launch's state goes to its save frame, and its side queues and bindings leave the reeds (R180, R323). -/
def switchOut (s : State) (cn : Nat) : State :=
  let c := s.core cn
  if c.launch == 0 then s
  else
    let f := frameOf s cn
    let s := s.modCore cn (fun c => { c.bare.clearCsrs with frames := c.frames.filter (fun x => x.launch != f.launch) ++ [f] })
    let s := (reedsOf cn).foldl (fun s p => s.modReed p.1 (fun r =>
      let r := r.setQueue p.2 []
      if p.2 then { r with be := none } else { r with bw := none })) s
    retimeAll s

/-- The group entries of a launch for a core are executed as binit, before a task of the launch starts there (R303). -/
def runBells (s : State) (cn launch : Nat) : State :=
  match s.launch launch with
  | none => s
  | some l =>
    let s := (l.bells.filter (fun b => b.1 == cn)).foldl (fun s b =>
      let (s, n) := objRead s cn b.2.2 launch
      objWrite s cn b.2.2 launch (barComplete (barStep n (.binit b.2.1)).1).1) s
    s.modLaunch launch (fun l => { l with bells := l.bells.filter (fun b => b.1 != cn) })

/-- Await entries of a core whose objects now hold a STATUS other than 0 post their records (R298). -/
def fireAll (s : State) (cn : Nat) : State := fireAwaits s cn 0 lmSize

/-- The incoming launch's state: its save frame in full, or the state of a first start (R323 step 8). -/
def switchIn (s : State) (cn launch : Nat) : State :=
  let s := s.modCore cn Core.clearCsrs
  let s := match (s.core cn).frames.find? (fun f => f.launch == launch) with
    | some f =>
      let s := s.modCore cn (fun c =>
        let lane (i : Fin 4) : Lane := { c.lanes[i] with buf := f.lanes[i].buf, credits := f.lanes[i].credits }
        { c with launch := launch, lm := f.lm, tiles := f.tiles, tilesOf := launch, arms := f.arms, store := f.store,
                 awaits := f.awaits, rdvto := f.rdvto, bconf := f.bconf, trimc := f.trimc, en := f.en, excld := f.excld,
                 lanes := Vector.ofFn lane, ports := f.ports, revokes := f.revokes, board := c.board ++ f.board,
                 frames := c.frames.filter (fun x => x.launch != launch),
                 owner := { c.owner with srseed := f.srseeds.1, vflag := f.vflags.1, handles := f.handles, ngets := f.ngets,
                                         bops := f.bops },
                 harv := { c.harv with srseed := f.srseeds.2, vflag := f.vflags.2 } })
      let s := f.queues.foldl (fun s q => s.modReed q.1 (fun r => r.setQueue q.2.1 q.2.2)) s
      let s := f.binds.foldl (fun s b => s.modReed b.1 (fun r =>
        if b.2.1 then { r with be := some b.2.2 } else { r with bw := some b.2.2 })) s
      fireAll s cn
    | none =>
      let s := s.modCore cn (fun c => { c.bare with launch := launch, tilesOf := launch, lm := { c.lm with tags := [] } })
      clearReeds (runBells s cn launch) cn
  refreshCore (retimeAll (retryQwaits s cn 0)) cn

/-- A core with no owner launch takes the lowest live launch placed on it, so that the door serves that launch, unless a loan
stands or the harvest runs there: then the pick makes the switch (R323). -/
def adopt (s : State) (cn : Nat) : State :=
  if (s.core cn).launch != 0 || (s.core cn).owner.task.isSome || !canSwitch s cn || (s.core cn).loan != Loan.none then s
  else
    match s.launches.filterMap (fun l => if l.live && l.place.contains cn then some l.num else none) with
    | [] => s
    | n :: rest => switchIn s cn (rest.foldl Nat.min n)

/-! ### The pick (R286, R293, R294) -/

/-- Channels of a context (R293). -/
def chansOf (hv : Bool) : List Nat := if hv then [7] else List.range 7

/-- A context without a task may pick (R293, R312, R314, R337), apart from a switch that is due. While a PREEMPT is under way neither
context picks (R313, R323). -/
def idleCtx (s : State) (cn : Nat) (hv : Bool) : Bool :=
  let c := s.core cn
  let x := c.ctx hv
  x.task.isNone && !x.stop && s.crust.step == 10 && !isSvc cn && !c.retired
    && c.preempt.isNone && (!hv || (c.harvestOn && !c.parked && c.parking.isNone))

/-- TIME without a pick after which a channel is aged, in ns (R294). -/
def agedAfter : Nat := 64000

/-- The channel of a pick among those with eligible records (R294). -/
def pickChan (c : Core) (time : Nat) (ready : List Nat) : Option Nat :=
  let since (k : Nat) : Nat := (c.since[k]?).getD 0
  let aged := ready.filter (fun k => agedAfter ≤ time - since k)
  match aged with
  | [] => ready.head?
  | k :: rest => some (rest.foldl (fun a b => if since b < since a then b else a) k)

/-- The first slot after `last` in ascending order modulo 64 (R294). -/
def pickSlot (last : Nat) (slots : List Nat) : Option Nat :=
  ((List.range 64).map (fun i => (last + 1 + i) % 64)).find? (fun n => slots.contains n)

/-- The slot, queue and launch that a context would pick from, with the effective channel. -/
def choice (s : State) (cn : Nat) (hv : Bool) : Option (Nat × Nat × QSlot × Launch) :=
  let ms := mappedFor s cn
  let chan (m : Nat × QSlot × Launch) : Nat := effChan m.2.2 m.2.1.name.idx
  let ready := (chansOf hv).filter (fun k => ms.any (fun m => chan m == k))
  (pickChan (s.core cn) s.time ready).bind (fun k =>
    let mine := ms.filter (fun m => chan m == k)
    (pickSlot (((s.core cn).lastChan[k]?).getD 0) (mine.map (·.1))).bind (fun n =>
      (mine.find? (fun m => m.1 == n)).map (fun m => (k, m.1, m.2.1, m.2.2))))

/-- The owner's next pick makes a switch, which first ends the harvest (R313, R323). -/
def switchDue (s : State) (cn : Nat) : Bool :=
  idleCtx s cn false && (choice s cn false).any (fun m => m.2.2.2.num != (s.core cn).launch)

/-- A context may pick; the harvest waits for a switch that is due. -/
def freeToPick (s : State) (cn : Nat) (hv : Bool) : Bool := idleCtx s cn hv && !(hv && switchDue s cn)

/-- EXCL of the record at a queue's HEAD: bit 0 of byte 22 (R285). -/
def headExcl (s : State) (l : Launch) (q : QSlot) : Bool :=
  match (unitReadN s l.num (queueSlot l q.name.idx q.head + 22) 1).2 with
  | b :: _ => b.getLsbD 0
  | [] => false

/-- The registers of a starting task (R286). -/
def startRegs (r : CR) : Vector Reg 16 :=
  Vector.ofFn (fun (i : Fin 16) =>
    ⟨if r.mask.getLsbD i.val then r.saved[i] else if i.val == 14 then r.frame else 0, true⟩)

/-- A context restores a record and starts its task, at number `born` (R39, R286); the harvest keeps the record to restart from (R320). -/
def Ctx.start (c : Ctx) (r : CR) (hv : Bool) (born : Nat) : Ctx :=
  { c with regs := startRegs r, pc := canon48 r.pc.toNat, closedFrom := none, arrive := .entry r.resume, icache := [],
           stall := none, dbl := false, further := false, units := none, born := born,
           task := some { launch := r.launch, chan := r.chan, akind := r.akind, aid := r.aid, frame := r.frame,
                          excl := r.excl, loanLost := r.loanLost },
           bank := if hv then { c.bank with restart := some r } else c.bank }

/-- The record at a slot's HEAD is taken, and its task starts. -/
def startFrom (s : State) (cn : Nat) (hv : Bool) (k n : Nat) : State :=
  match takeRecord s (sliceOf cn) n (childOf cn) with
  | (s, none) => s
  | (s, some r) =>
    let (s, born) := s.newId
    let s := s.modCore cn (fun c =>
      { (c.setCtx hv ((c.ctx hv).start r hv born)) with
        since := c.since.setIfInBounds k s.time, lastChan := c.lastChan.setIfInBounds k n,
        excld := c.excld || (r.excl && !hv) })
    refreshCore s cn

/-- Two contexts of a slice that take from one queue in one cycle are served in ascending child index, one record each (R294): after a pick
by a core of the same or a higher index, this one waits for the next cycle. -/
def QSlot.served (q : QSlot) (now child : Nat) : Bool := q.last.any (fun p => p.1 == now && decide (child ≤ p.2))

/-- PICK (R294): a free context takes a record. An owner pick of an EXCL record waits until the harvest is parked or holds no
task (R313), and one of another launch makes the switch first (R323). -/
def execPick (cn : Nat) (hv : Bool) (s : State) : Host.Outcome State Fault Refusal :=
  .next (
    if !freeToPick s cn hv then s
    else match choice s cn hv with
      | none => s
      | some (k, n, q, l) =>
        let c := s.core cn
        if q.served s.now (childOf cn) then s
        else if hv then startFrom s cn hv k n
        else if headExcl s l q && c.harv.task.isSome && !c.parked then s
        else if c.launch == l.num then startFrom s cn hv k n
        else if canSwitch s cn && c.loan == Loan.none then startFrom (switchIn (switchOut s cn) cn l.num) cn hv k n
        else endHarvest s cn)

/-- HARVEST_RESUME (R317), once every cause of the park has lapsed (R313). A stopped context stays stopped, and its state stays in PB1. -/
def execHarvestResume (cn : Nat) (s : State) : Host.Outcome State Fault Refusal :=
  let c := s.core cn
  .next (if c.parked && c.harvestOn && c.preempt.isNone && !switchDue s cn then
    s.modCore cn (fun c => { c with parked := false, harv := if c.harv.stop then c.harv else c.harv.fromBank })
  else s)

/-! ### Posts of hardware, boundaries, wheels, pages -/

/-- HARDWARE_POST (R290): a waiting post is made once its queue has room and, where it is a context's release, the accesses that the context
issued before it are performed; that of a launch that is gone is dropped (R305). -/
def execHardwarePost (n : Nat) (s : State) : Host.Outcome State Fault Refusal :=
  .next (match s.posts.find? (fun p => p.id == n) with
    | none => s
    | some p =>
      let drop (s : State) : State := { s with posts := s.posts.filter (fun x => x.id != n) }
      if (s.launch p.cr.launch).isNone then drop s
      else if p.after.any (fun a => openBefore s p.core a.1 a.2 .dev) then s
      else
        let s := if p.after.isSome then clearTags s p.core .dev else s
        match post s p.cr p.core p.qchan with
        | some t => drop t
        | none => s)

/-- Elements in rising order of a key, equal ones in their order. -/
def insertBy {α : Type} (key : α → Nat) (x : α) : List α → List α
  | [] => [x]
  | y :: ys => if key x < key y then x :: y :: ys else y :: insertBy key x ys

/-- A stable sort by a key. -/
def sortBy {α : Type} (key : α → Nat) (l : List α) : List α := l.foldl (fun acc x => insertBy key x acc) []

/-- TIME between quantum boundaries, in ns (R291). -/
def quantum : Nat := 20000

/-- Slots that give up their queues at boundary `b` (R291, R292): as many as wait, the longest mapped first, and none whose queue has not
been mapped for a whole quantum (log 130); in slot order. -/
def evicted (sl : Slice) (b : Nat) : List (Nat × QSlot) :=
  let old := sl.slots.filter (fun p => decide (p.2.from_ < b))
  sortBy (·.1) ((sortBy (fun p => p.2.at_) old).take (Nat.min 64 sl.waiting.length))

/-- QUANTUM_BOUNDARY (R291): the next boundary that TIME has passed. -/
def execQuantumBoundary (slice : Nat) (s : State) : Host.Outcome State Fault Refusal :=
  .next (
    let sl := s.slice slice
    let b := sl.quantum + 1
    if s.time < b * quantum then s
    else
      let out := evicted sl b
      let s := s.modSlice slice (fun x => { x with quantum := b })
      let s := out.foldl (fun s p => unmapSlot s slice p.1) s
      let back := (out.filter (fun p => p.2.head != p.2.tail)).map (fun p => p.2.name)
      let s := s.modSlice slice (fun x => { x with waiting := x.waiting ++ back })
      let s := out.foldl (fun s _ => mapHead s slice b (s.slice slice).waiting) s
      refreshSlice s slice)

/-- TIME of tick `k` of a slice's wheel (R301). -/
def tickTime (slice k : Nat) : Nat := k * 1000 - Config.wheelPhase slice

/-- A record is due at tick `k`: its release time is at or below the tick's TIME, and it came before the tick (R301). -/
def WheelRec.dueAt (r : WheelRec) (slice k : Nat) : Bool := decide (r.t ≤ tickTime slice k) && decide (r.tick < k)

/-- WHEEL_TICK (R301): the next tick that TIME has passed posts the records that are due at it into channel 1, in ascending t (R288). -/
def execWheelTick (slice : Nat) (s : State) : Host.Outcome State Fault Refusal :=
  .next (
    let sl := s.slice slice
    let k := sl.ticked + 1
    if ticksOf s slice < k then s
    else
      let due := sortBy (·.t) (sl.wheel.filter (·.dueAt slice k))
      let s := s.modSlice slice (fun x => { x with ticked := k, wheel := x.wheel.filter (fun r => !r.dueAt slice k) })
      due.foldl (fun s r => postOf s r.core r.hv r.upTo r.cr (some 1)) s)

/-- A parked task is posted once its page has returned: the post is a release of the context that it left (R290, R308). -/
def postReturned (s : State) (x : Swapped) : State := postOf s x.core x.hv x.upTo x.cr none

/-- 64 KiB frames of a page. -/
def pageFrames (frame lvl : Nat) : List Nat := natRange (frame / 65536) (2 ^ (pageBits lvl - 16))

/-- The ciphertext of a page comes into a frame with its labels (R343, R363). -/
def loadPage (s : State) (p : FlashPage) (frame : Nat) : State :=
  let size := 2 ^ pageBits p.lvl
  let here (a : Nat) : Bool := decide (frame ≤ a) && decide (a < frame + size)
  let bytes := s.hbm.bytes.filter (fun c => !here c.1)
  let labels := s.hbm.labels.filter (fun l => !here (l.1 * 32))
  { s with hbm := { s.hbm with
      bytes := p.bytes.foldl (fun m c => cellSet m (frame + c.1) c.2) bytes,
      labels := p.labels.foldl (fun m l => mset m (frame / 32 + l.1) l.2) labels,
      bad := s.hbm.bad.filter (fun g => !here (g * 32)) } }

/-- The page that a swapped entry names in flash. One that no swap-out of the model put there has the smallest size, and its bytes are values
left open (log 162). -/
def flashPage (s : State) (pte : Nat) : FlashPage :=
  (s.crust.flash.find? (fun p => p.pte == pte)).getD ⟨pte, 0, 0, 0, true, [], []⟩

/-- A swapped page comes back (R343): into a frame of the pool; none where the pool has not got the frame, or flash not yet the page. -/
def swapIn (s : State) (pte : Nat) (entry : Word) : Option State :=
  let p := flashPage s pte
  let frame := bitsOf entry.toNat 16 23 * 65536
  let fs := pageFrames frame p.lvl
  if p.stored && fs.all (fun f => s.crust.pool.contains f) then
    some ((loadPage s p frame).modCrust (fun c =>
      { c with flash := c.flash.erase p, pool := c.pool.filter (fun f => !fs.contains f) }))
  else none

/-- PAGE_RETURN (R308, R343): the kernel reads the page into a frame of its pool, writes the valid entry, and posts the tasks that waited
for the page. Without such a frame the swap-in waits; host mode has no storage port (R365). -/
def execPageReturn (pte : Nat) (entry : Word) (s : State) : Host.Outcome State Fault Refusal :=
  .next (
    if !entry.getLsbD 0 || s.crust.hostMode then s
    else match swapIn s pte entry with
      | none => s
      | some s =>
        let s := hbmWrite s pte pte 0 true (natLe 8 entry.toNat)
        let back := s.crust.swapped.filter (fun x => x.pte == pte)
        let s := s.modCrust (fun c => { c with swapped := c.swapped.filter (fun x => x.pte != pte) })
        back.foldl postReturned s)

end Sys2Proof.Machine
end

