-- ==== Sys2Proof/Machine/Launch.lean ====
section
/-! DEFINITION. Launches: launch at issue (R307), the crust's acceptance or refusal of a descriptor (R303, R307), a host's
doorbell (R365), and the end of a launch or its teardown (R305). -/

namespace Sys2Proof.Machine

open Sys2Proof

/-! ### launch (R307) -/

/-- launch (R307): a release at scope .dev. -/
def launchIssue (d a b : SReg) (cls : Nat) (w : Word) (s : State) : Act := do
  ownerOnly s w
  let desc ← readReg s a
  let off ← readReg s b
  need (desc.toNat % 64 == 0) .align desc
  need (isCanon desc) .addrNoncanon desc
  let o ← objOk s off
  destFree s d
  releaseOk s
  let s ← startObj s o
  let (s, id) := s.newId
  let req : LReq :=
    { id := id, by_ := .ctx s.cur.core s.cur.hv id, launch := s.myLaunch, desc := desc, bytes := [], obj := o, cls := cls }
  let s := { clearTags s s.cur.core .dev with lreqs := s.lreqs ++ [req] }
  let s := s.modCtx (fun c =>
    { c with out := c.out ++ [{ id := id, tag := none, dest := .reg d .d, load := false, store := false, acq := false,
                                home := .door s.cur.core, epc := c.pc, addr := desc, handler := c.inh, serial := false }] })
  .ok ((s.clearReg d).advance 3)

/-- launch (R307). -/
def execLaunch (d a b : SReg) (cls : Fin 16) (s : State) : Host.Outcome State Fault Refusal :=
  finish s (launchIssue d a b cls.val (firstWord (.launch d a b cls)) s)

/-- The host's ring of a slot's doorbell (R365): 64-byte slots of a 64 KiB window, in the host mode of the port. The class is left open. -/
def execHostLaunchDoorbell (slot : Nat) (desc : List Byte) (s : State) : Host.Outcome State Fault Refusal :=
  .next (
    if desc.length != 64 || 1024 ≤ slot || s.crust.step != 10 || !s.crust.hostMode then s
    else
      let (s, id) := s.newId
      let cls := 2 + Config.freeNat s.fresh % 4
      let req : LReq := { id := id, by_ := .host, launch := 0, desc := 0, bytes := desc, obj := 0, cls := cls }
      ({ s with fresh := s.fresh + 1, lreqs := s.lreqs ++ [req] }).modCrust
        (fun c => { c with slots := mset c.slots slot desc }))

/-! ### Checks of a descriptor (R303, R307) -/

/-- A number that no launch has: the crust reads under it while it checks a request. -/
def probeNum : Nat := 65536

/-- The launch under which a request's tables are read: the launcher's root, or the one that the kernel gives (R307, R365). -/
def probeLaunch (s : State) (r : LReq) (g : Grant) : Launch :=
  let parent := s.launch r.launch
  let root := match r.by_, parent with
    | .host, _ => s.crust.hostRoot
    | .ctx .., some l => l.root
    | .ctx .., none => g.root
  { num := probeNum, by_ := r.by_, obj := r.obj, parent := r.launch, root := root, qarea := g.qarea,
    ttab := (parent.map (·.ttab)).getD g.ttab, lq := 4, cls := r.cls, place := [], entry := 0, ebud := 0, energy := 0,
    live := true, bells := [] }

/-- Bytes under the probe. -/
def probeRead (s : State) (va : Word) (n : Nat) : State × Option (List Byte) :=
  let (s, r) := unitRead s probeNum va n
  (s, r.toOption)

/-- A code pointer is a function entry (R36): word 2 of a well-formed line with HEAD and TARGET. -/
def functionEntry (s : State) (pc : Word) : State × Bool :=
  if !isCanon pc || pc.toNat % 4 != 0 || wordIdx pc != 2 then (s, false)
  else match probeRead s (lineAddr pc) 128 with
    | (s, none) => (s, false)
    | (s, some bs) =>
      let ws := wordsOfBytes bs
      (s, lineOk ws && arriveOk .function { addr := lineAddr pc, state := .ok, words := ws } 2)

/-- Why a request is refused: the number ee of R307. -/
abbrev Refused := Nat

/-- A checked request: its placement, its records in the order of R289, and its group entries. -/
structure Checked where
  place : List Nat
  recs  : List CR
  bells : List (Nat × Word × Nat)

/-- The cores of a slice set's bitmap, ascending. -/
def sliceCores (bits : Nat) : List Nat :=
  (List.range Config.computeCores).filter (fun c => bits.testBit (sliceOf c))

/-- The placement of a descriptor (R303, R307). -/
def placement (s : State) (r : LReq) (n : Nat) : State × Except Refused (List Nat) :=
  let (s, cs) : State × Except Refused (List Nat) :=
    if n.testBit 160 then
      match probeRead s (BitVec.ofNat 64 (bitsOf n 192 64)) 64 with
      | (s, none) => (s, .error 3)
      | (s, some bs) => (s, .ok (sliceCores (leNat bs)))
    else
      let w := bitsOf n 144 8 + 1
      let h := bitsOf n 152 8 + 1
      let x0 := bitsOf n 128 8
      let y0 := bitsOf n 136 7
      if 256 < x0 + w || 128 < y0 + h then (s, .error 1)
      else (s, .ok ((natRange y0 h).flatMap (fun y => (natRange x0 w).map (fun x => y * 256 + x))))
  match cs with
  | .error e => (s, .error e)
  | .ok cs =>
    let inside := match s.launch r.launch with
      | some l => cs.all (fun c => l.place.contains c)
      | none => true
    if cs.isEmpty || cs.any (fun c => (s.core c).retired) || !inside then (s, .error 1) else (s, .ok cs)

/-- The class in place of channels 0 and 1 (R303). -/
def classChan (cls chan : Nat) : Nat := if chan < 2 then cls else chan

/-- The record of a core of the placement: that of ENTRY, or an entry of the table (R303). -/
def initialRecord (s : State) (cls : Nat) (crtab entry : Word) (t cn : Nat) : State × Except Refused CR :=
  if crtab == 0 then (s, .ok (CR.blank 0 0 cn cls 0 entry))
  else match probeRead s (crtab + BitVec.ofNat 64 (160 * t)) 160 with
    | (s, none) => (s, .error 3)
    | (s, some bs) =>
      let r := CR.ofNum (leNat bs)
      let (s, ok) := functionEntry s (canon48 r.pc.toNat)
      if ok then (s, .ok { r with chan := classChan cls r.chan }) else (s, .error 4)

/-- The records of all cores. -/
def initialRecords (s : State) (cls : Nat) (crtab entry : Word) : List (Nat × Nat) → State × Except Refused (List CR)
  | [] => (s, .ok [])
  | (cn, t) :: rest =>
    match initialRecord s cls crtab entry t cn with
    | (s, .error e) => (s, .error e)
    | (s, .ok r) =>
      match initialRecords s cls crtab entry rest with
      | (s, .error e) => (s, .error e)
      | (s, .ok rs) => (s, .ok (r :: rs))

/-- A group entry: its core in the placement, and an object at a 32-aligned offset (R258, R303). -/
def groupEntry (place : List Nat) (e : Nat) : Except Refused (Nat × Word × Nat) :=
  let home := bitsOf e 48 15
  let off := bitsOf e 32 16
  if e.testBit 63 || !place.contains home || off % 32 != 0 then .error 4
  else .ok (home, BitVec.ofNat 64 (bitsOf e 0 16 + bitsOf e 16 16 * 2 ^ 16), off)

/-- The group table (R303). -/
def groupTable (s : State) (place : List Nat) (base : Word) : Nat → State × Except Refused (List (Nat × Word × Nat))
  | 0 => (s, .ok [])
  | n + 1 =>
    match groupTable s place base n with
    | (s, .error e) => (s, .error e)
    | (s, .ok es) =>
      match probeRead s (base + BitVec.ofNat 64 (8 * n)) 8 with
      | (s, none) => (s, .error 3)
      | (s, some bs) =>
        match groupEntry place (leNat bs) with
        | .error e => (s, .error e)
        | .ok x => (s, .ok (es ++ [x]))

/-- Fields of a descriptor within their limits (R303, R307). -/
def fieldsOk (n : Nat) : Bool :=
  bitsOf n 464 48 == 0 && bitsOf n 161 31 == 0 && bitsOf n 64 64 == 0 && !n.testBit 143
    && decide (4 ≤ bitsOf n 460 4) && decide (bitsOf n 460 4 ≤ 12)
    && (bitsOf n 448 12 == 0 || bitsOf n 384 64 % 8 == 0)
    && bitsOf n 256 64 % 32 == 0

/-- A descriptor is checked whole: its fields, its entry, its placement, a free number, and its tables. -/
def checkDesc (s : State) (r : LReq) (n : Nat) : State × Except Refused Checked :=
  let crtab : Word := BitVec.ofNat 64 (bitsOf n 256 64)
  let entry : Word := BitVec.ofNat 64 (bitsOf n 0 64)
  if !fieldsOk n then (s, .error 4)
  else
    let (s, fe) := if crtab == 0 then functionEntry s entry else (s, true)
    if !fe then (s, .error 4)
    else match placement s r n with
      | (s, .error e) => (s, .error e)
      | (s, .ok place) =>
        if 65535 ≤ (s.launches.filter (fun l => l.live && l.num != probeNum)).length then (s, .error 2)
        else match initialRecords s r.cls crtab entry place.zipIdx with
          | (s, .error e) => (s, .error e)
          | (s, .ok rs) =>
            match groupTable s place (BitVec.ofNat 64 (bitsOf n 384 64)) (bitsOf n 448 12) with
            | (s, .error e) => (s, .error e)
            | (s, .ok bs) => (s, .ok ⟨place, rs, bs⟩)

/-! ### Acceptance and refusal (R303, R307) -/

/-- The answer to a launcher's register. -/
def answerLaunch (s : State) (r : LReq) (v : Word) : State :=
  match r.by_ with
  | .ctx cn hv out => ctxReply s cn hv out (.val v)
  | .host => s

/-- A request is refused (R307). -/
def refuseLaunch (s : State) (r : LReq) (e : Refused) : State :=
  let s := match r.by_ with
    | .ctx cn hv _ => engineObj s cn hv r.launch r.obj 2 0 0 []
    | .host => s
  answerLaunch s r (BitVec.ofNat 64 (0xFFFFFFFF00000000 + e))

/-- Nothing of an earlier launch stays under a number that is given anew: no translation (R347), no keystream (R363), and no
latch (R168). -/
def renewNumber (s : State) (l : Nat) : State :=
  let keep (t : List TlbEntry) : List TlbEntry := t.filter (fun e => e.launch != l)
  dropLatches (dropKeys
    { s with cores := s.cores.map (fun x => (x.1, { x.2 with dtlb := keep x.2.dtlb, itlb := keep x.2.itlb })),
             slices := s.slices.map (fun x => (x.1, { x.2 with tlb := keep x.2.tlb })) } l) l

/-- The queue area of a new launch: every queue empty (R289). -/
def emptyQueues (s : State) (l : Launch) : State :=
  (List.range (8 * (l.place.length + l.slices.length))).foldl (fun s i => writeHeader s l i 0 0) s

/-- A request is accepted: the launch begins, the race tags of its placement's local memories go (R279), its records are posted, and idle
cores of its placement take it (R303). -/
def acceptLaunch (s : State) (r : LReq) (g : Grant) (n : Nat) (k : Checked) : State :=
  let l : Launch :=
    { probeLaunch s r g with num := g.num, lq := bitsOf n 460 4, place := k.place,
                             entry := BitVec.ofNat 64 (bitsOf n 0 64),
                             ebud := BitVec.ofNat 64 (bitsOf n 320 64), bells := k.bells }
  let s := renewNumber { s with launches := s.launches ++ [l] } g.num
  let s := emptyQueues s l
  let s := (k.recs.zip k.place).foldl (fun s p => postOrWait s { p.1 with launch := g.num } p.2 none) s
  let s := k.place.foldl (fun s c => s.modCore c (fun c => { c with lm := { c.lm with tags := [] } })) s
  let s := k.place.foldl adopt s
  answerLaunch s r (BitVec.ofNat 64 g.num)

/-- The trap table that the kernel sets stands at a 256-aligned upper-half address (R333). -/
def grantOk (g : Grant) : Bool := g.ttab.toNat % 256 == 0 && g.ttab.toNat.testBit 47 && isCanon g.ttab

/-- LAUNCH_ACCEPT (R307): the crust answers a request, once the part has started (R359). `g` is what the kernel grants: its number is one
that is free. -/
def execLaunchAccept (req : Nat) (g : Grant) (s : State) : Host.Outcome State Fault Refusal :=
  .next (match s.lreqs.find? (fun r => r.id == req) with
    | none => s
    | some r =>
      let full := decide (65535 ≤ (s.launches.filter (·.live)).length)
      if s.crust.step != 10 || (!full && (g.num == 0 || decide (65535 < g.num) || (s.launch g.num).isSome)) || !grantOk g then s
      else
        let s := { s with lreqs := s.lreqs.filter (fun x => x.id != req) }
        let s := { s with launches := s.launches ++ [probeLaunch s r g] }
        let (s, bytes) : State × Option (List Byte) := match r.by_ with
          | .host => (s, some r.bytes)
          | .ctx .. => probeRead s r.desc 64
        let (s, res) : State × Except Refused (Nat × Checked) := match bytes with
          | none => (s, .error 3)
          | some bs => (match checkDesc s r (leNat bs) with
            | (s, .error e) => (s, .error e)
            | (s, .ok k) => (s, .ok (leNat bs, k)))
        let s := { s with launches := s.launches.filter (fun l => l.num != probeNum) }
        match res with
        | .error e => refuseLaunch s r e
        | .ok (n, k) => acceptLaunch s r g n k)

/-! ### The end of a launch (R305) -/

/-- A record of the launch is somewhere (R305). -/
def recordsLeft (s : State) (l : Nat) : Bool :=
  s.slices.any (fun p => p.2.slots.any (fun q => q.2.name.launch == l) || p.2.waiting.any (fun q => q.launch == l)
      || p.2.wheel.any (fun r => r.cr.launch == l))
    || s.posts.any (fun p => p.cr.launch == l) || s.crust.swapped.any (fun x => x.cr.launch == l)
    || s.cores.any (fun c => c.2.awaits.any (fun a => a.cr.launch == l)
      || c.2.frames.any (fun f => f.awaits.any (fun a => a.cr.launch == l)))

/-- A message or park frame of the launch is on its way (R305). -/
def mailLeft (s : State) (l : Nat) : Bool :=
  let mail (p : Packet) : Bool := p.launch == l && (match p.body with
    | .msg .. | .park .. => true
    | _ => false)
  s.net.any mail || s.cores.any (fun c => c.2.fab.kept.any (fun k => mail k.pkt))

/-- A context runs a task of the launch, a stopped one included (R305, R337). -/
def tasksLeft (s : State) (l : Nat) : Bool :=
  s.cores.any (fun c => c.2.owner.launch == l || c.2.harv.launch == l)

/-- A port has work. -/
def Port.busy (p : Port) : Bool := !p.queue.isEmpty || p.serving.isSome || p.closing.isSome

/-- An engine operation of the launch is pending (R269, R305). -/
def enginesLeft (s : State) (l : Nat) : Bool :=
  s.cores.any (fun c => c.2.copies.any (fun o => o.launch == l)
      || (c.2.launch == l && c.2.ports.toList.any Port.busy)
      || c.2.frames.any (fun f => f.launch == l && (f.ports.toList.any Port.busy || f.queues.any (fun q => !q.2.2.isEmpty))))
    || s.reeds.any (fun r => (r.2.qw ++ r.2.qe).any (fun c => c.launch == l) || r.2.run.any (fun p => p.cmd.launch == l))
    || s.bellows.any (fun b => b.launch == l)
    || s.lreqs.any (fun r => r.launch == l)

/-- Records of a launch leave every queue, wheel and list (R305). -/
def dropRecords (s : State) (l : Nat) : State :=
  let s := { s with posts := s.posts.filter (fun p => p.cr.launch != l), lreqs := s.lreqs.filter (fun r => r.launch != l) }
  let s := s.modCrust (fun c => { c with swapped := c.swapped.filter (fun x => x.cr.launch != l) })
  s.slices.foldl (fun (s : State) p =>
    let mine := p.2.slots.filter (fun q => q.2.name.launch == l)
    let s := s.modSlice p.1 (fun x =>
      { x with slots := x.slots.filter (fun q => q.2.name.launch != l), waiting := x.waiting.filter (fun q => q.launch != l),
               wheel := x.wheel.filter (fun r => r.cr.launch != l) })
    refreshSlice (mine.foldl (fun s _ => mapWaiting s p.1) s) p.1) s

/-- A context of the launch is freed, with every fault it holds; a task of the harvest leaves its park (R340). -/
def endContext (s : State) (cn : Nat) (hv : Bool) (l : Nat) : State :=
  let s := s.modCtxOf cn hv (fun c => { c with async := c.async.filter (fun p => p.launch != l) })
  if (s.ctxOf cn hv).launch != l then s
  else
    let s := s.modCtxOf cn hv (fun c => { c with held := [], bops := [] })
    let s := if hv then s.modCore cn (fun c => { c with parked := false, parking := none }) else s
    freeCtx s cn hv

/-- A request of a launch that a door holds is refused (R325); in mode E one that finds no room for its answer is refused at a later turn of
the door (R241, R242). -/
def refuseOne (s : State) (cn l : Nat) (h : DoorHeld) : State :=
  if h.pkt.launch == l && canAnswer s h.pkt 0 then
    answerHeld (s.modCore cn (fun c => { c with qwaits := c.qwaits.erase h, bwaits := c.bwaits.erase h })) h.pkt
      (.fault .peerDenied (peerOf cn (match h.pkt.body with
        | .dat off _ => off
        | _ => 0)))
  else s

/-- Requests of a launch that a door holds are refused (R325). -/
def refuseHeld (s : State) (cn l : Nat) : State :=
  ((s.core cn).qwaits ++ (s.core cn).bwaits).foldl (fun s h => refuseOne s cn l h) s

/-- A core whose owner launch is over: nothing of it waits there any more. Its tiles, LOAN, HVCTL and other registers stay as they
are until a launch starts on the core (R188, R318, R323). -/
def Core.vacated (c : Core) : Core :=
  { c with launch := 0, arms := [], store := [], awaits := [],
           lanes := c.lanes.map (fun l => { l with buf := [], credits := 4 }), ports := Vector.replicate 2 Port.reset,
           board := c.board.filter (fun r => r.hv), owner := { c.owner with ngets := [], bops := [] } }

/-- A core loses what a launch had on it: its frame, await entries and lane words, at a teardown its keystream and, on the placement, the race
tags, and its place as owner launch (R124, R279, R305, R325, R363). -/
def releaseCore (s : State) (cn l : Nat) (torn : Bool) : State :=
  let s := refuseHeld (endContext (endContext s cn true l) cn false l) cn l
  let lane (x : Lane) : Lane :=
    { x with link := x.link.filter (fun w => w.launch != l), buf := x.buf.filter (fun w => w.launch != l),
             back := x.back.filter (fun k => k != l) }
  -- a teardown empties the tags of the placement's local memories (R279)
  let lm (m : LMem) : LMem := if torn then { m with tags := [] }.dropKey l else m
  let placed := ((s.launches.find? (fun x => x.num == l && x.live)).any (fun x => x.place.contains cn))
  s.modCore cn (fun c =>
    let c := if c.launch == l then c.vacated else c
    { c with frames := (c.frames.filter (fun f => f.launch != l)).map (fun f =>
               { f with awaits := f.awaits.filter (fun a => a.cr.launch != l), lm := if torn then f.lm.dropKey l else f.lm }),
             awaits := c.awaits.filter (fun a => a.cr.launch != l), lanes := c.lanes.map lane,
             lm := if placed then lm c.lm else if torn then c.lm.dropKey l else c.lm,
             tilesOf := if torn && c.tilesOf == l then 0 else c.tilesOf })

/-- The resources of a launch are released, and its launcher's object receives `status` with ECNT (R305): 1 at its end, 3 at a
teardown. -/
def releaseLaunch (s : State) (l status : Nat) : State :=
  match s.launch l with
  | none => s
  | some x =>
    let s := dropRecords s l
    let s := s.cores.foldl (fun (s : State) c => abortOps s c.1 l) s
    let s := abortBellows (endStreams (abortReeds s l (status != 1)) l) l
    let s := s.cores.foldl (fun s c => releaseCore s c.1 l (status != 1)) s
    let s := s.modLaunch l (fun x => { x with live := false })
    let s := { s with launches := updWhere (fun y => y.parent == l) (fun y => { y with by_ := .host, parent := 0 }) s.launches }
    let s := match x.by_ with
      | .ctx cn hv _ => engineObj s cn hv x.parent x.obj status 0 x.ecnt.toNat []
      | .host => s
    x.place.foldl adopt s

/-- LAUNCH_END (R305): nothing of the launch is left. -/
def execLaunchEnd (l : Nat) (s : State) : Host.Outcome State Fault Refusal :=
  .next (
    if (s.launch l).isNone || recordsLeft s l || mailLeft s l || tasksLeft s l || enginesLeft s l then s
    else releaseLaunch s l 1)

end Sys2Proof.Machine
end

