-- ==== Sys2Proof/Machine/Control.lean ====
section
/-! DEFINITION. Control flow (R117..R122), neighbour lanes (R123..R126) and messages (R127, R128): spec/05. -/

namespace Sys2Proof.Machine

open Sys2Proof

/-! ### Branches and calls -/

/-- The condition of bc on two values (R42). -/
def condHolds (c : Cond) (x y : Word) : Bool :=
  match c with
  | .eq => x == y
  | .ne => x != y
  | .lt => x.toInt < y.toInt
  | .ge => y.toInt ≤ x.toInt
  | .ltu => x.toNat < y.toNat
  | .geu => y.toNat ≤ x.toNat
  | .z => x == 0
  | .nz => x != 0

/-- A condition reads its second register. -/
def condReads (c : Cond) : Bool :=
  match c with
  | .z | .nz => false
  | .eq | .ne | .lt | .ge | .ltu | .geu => true

/-- A taken transfer: the target is checked, then the pc is set (R37, R117). -/
def goto_ (t : Word) (a : Arrive) (s : State) : Act := do
  let s ← checkTarget s t a
  .ok (s.jump t)

/-- bc with its target and length (R118): a branch that is not taken checks nothing of its target (R117). -/
def condBranch (c : Cond) (a b : SReg) (t : Word) (len : Nat) (s : State) : Act := do
  let x ← readReg s a
  let y ← if condReads c then readReg s b else .ok 0
  if condHolds c x y then goto_ t .target s else .ok (s.advance len)

/-- call with its target and length (R119). -/
def callTo (l : SReg) (t : Word) (len : Nat) (s : State) : Act := do
  destFree s l
  let back := s.ctx.pc + BitVec.ofNat 64 (4 * len)
  let s ← checkTarget s t .function
  .ok ((s.setReg l back).jump t)

/-- b (R118). -/
def execB (delta : BitVec 7) (w : Fin 32) (s : State) : Host.Outcome State Fault Refusal :=
  finish s (goto_ (branchTarget s.ctx.pc delta w) .target s)

/-- b, literal form (R118, R24). -/
def execBLit (t : Word) (s : State) : Host.Outcome State Fault Refusal := finish s (goto_ t .target s)

/-- bc.cond (R118). -/
def execBc (c : Cond) (a b : SReg) (delta : BitVec 7) (w : Fin 32) (s : State) : Host.Outcome State Fault Refusal :=
  finish s (condBranch c a b (branchTarget s.ctx.pc delta w) 1 s)

/-- bc.cond, literal form (R118, R24). -/
def execBcLit (c : Cond) (a b : SReg) (t : Word) (s : State) : Host.Outcome State Fault Refusal :=
  finish s (condBranch c a b t 3 s)

/-- call (R119). -/
def execCall (l : SReg) (delta : BitVec 7) (w : Fin 32) (s : State) : Host.Outcome State Fault Refusal :=
  finish s (callTo l (branchTarget s.ctx.pc delta w) 1 s)

/-- call, literal form (R119, R24). -/
def execCallLit (l : SReg) (t : Word) (s : State) : Host.Outcome State Fault Refusal := finish s (callTo l t 3 s)

/-- callr (R120): the target is read before the link is written. -/
def execCallr (d a : SReg) (s : State) : Host.Outcome State Fault Refusal :=
  finish s (do
    let t ← readReg s a
    callTo d t 1 s)

/-- ret (R120). -/
def execRet (a : SReg) (s : State) : Host.Outcome State Fault Refusal :=
  finish s (do
    let t ← readReg s a
    goto_ t .target s)

/-! ### The end of a task -/

/-- A pending BAR_OVER is taken before a task end or a fence (R262). -/
def takeBars (s : State) : Except Stop Unit :=
  if !s.ctx.inh && !s.ctx.bops.isEmpty then .error .barOver else .ok ()

/-- The commit point of a task-ending instruction (R321), and the steps of done at once where nothing is outstanding (R121). -/
def commitEnd (s : State) (e : Ending) : Act :=
  let s := s.modCtx (fun c => { c with ending := some e })
  .ok (tryEnd s s.cur.core s.cur.hv)

/-- The registers of a mask must be present (R122, R295). -/
def maskFree (s : State) (m : BitVec 16) : Except Stop Unit :=
  match (List.finRange 16).find? (fun i => m.getLsbD i.val && !s.ctx.regs[i].present) with
  | some r => .error (.stall (some r.val))
  | none => .ok ()

/-- done (R121). -/
def execDone (s : State) : Host.Outcome State Fault Refusal :=
  finish s (do
    takeBars s
    commitEnd s .drop)

/-- cont with its target (R122, R295). A context without a task has no record and ends alone. -/
def contTo (a : SReg) (t : Word) (s : State) : Act := do
  takeBars s
  let s ← checkTarget s t .target
  let m := (← readReg s a).setWidth 16
  maskFree s m
  match s.ctx.task with
  | none => commitEnd s .drop
  | some k => do
    let r := endRecord k s.ctx.regs m t
    needRoom s r none
    commitEnd s (.post r)

/-- cont (R122). -/
def execCont (a : SReg) (delta : BitVec 7) (w : Fin 32) (s : State) : Host.Outcome State Fault Refusal :=
  finish s (contTo a (branchTarget s.ctx.pc delta w) s)

/-- cont, literal form (R122, R24). -/
def execContLit (a : SReg) (t : Word) (s : State) : Host.Outcome State Fault Refusal := finish s (contTo a t s)

/-! ### Neighbour lanes (R126) -/

/-- The neighbour of the issuing core in a direction, as nput and nget check it (R126). -/
def laneMate (s : State) (r : Dir) (w : Word) : Except Stop Nat := do
  if s.cur.hv then .error (.trap .illegalOp w)
  else match nbr s.cur.core r with
    | none => .error (.trap .illegalOp w)
    | some m => do
      need (s.placed s.myLaunch m) .peerDenied (BitVec.ofNat 64 m)
      .ok m

/-- nput (R126): a store for order (R125), on the lane until it enters the receiver's buffer. -/
def execNput (a : SReg) (r : Dir) (s : State) : Host.Outcome State Fault Refusal :=
  finish s (do
    let m ← laneMate s r (firstWord (.nput a r))
    waitFor (0 < (s.me.lane r).credits) (some 0x102)
    let v ← readReg s a
    orderOk s true
    let (s, id) := s.newId
    let s := s.modLane s.cur.core r (fun l => { l with credits := l.credits - 1 })
    let s := s.modLane m (dirBack r) (fun l => { l with link := l.link ++ [⟨id, s.myLaunch, v⟩] })
    .ok (s.advance 1))

/-- nget (R126): a load for order (R125); it takes the oldest buffered word, or waits as a pending nget (R124). -/
def execNget (d : SReg) (r : Dir) (s : State) : Host.Outcome State Fault Refusal :=
  finish s (do
    let _ ← laneMate s r (firstWord (.nget d r))
    waitFor ((s.ctx.ngets.filter (fun g => g.dir == r)).length < 4) (some 0x103)
    destFree s d
    orderOk s false
    let (s, id) := s.newId
    let s := (s.clearReg d).modCtx (fun c =>
      { c with ngets := c.ngets ++ [{ dir := r, dest := some d, id := id, epc := c.pc, handler := c.inh }] })
    .ok ((matchLane s s.cur.core r).advance 1))

/-! ### Messages (R127, R128) -/

/-- send with its handler, after the encoding's checks. -/
def sendMsg (d a : SReg) (n : Fin 8) (h : Except Stop Word) (len : Nat) (w : Word) (s : State) : Act := do
  if s.cur.hv then .error (.trap .illegalOp w)
  else do
    let dst ← readReg s a
    let h ← h
    let vals ← readRegs s d.val n.val
    need (dst.toNat < 32768 && s.placed s.myLaunch dst.toNat) .peerDenied dst
    need (isCanon h) .addrNoncanon h
    need (h.toNat % 4 == 0 && decide (2 ≤ wordIdx h)) .targetUnmarked h
    orderOk s true
    waitFor (s.ctx.sends < 8) none
    waitFor (canSend s s.cur.core dst.toNat 1) none
    let (s, _) := send s
      { who := .ctx s.cur.hv, src := s.cur.core, dst := dst.toNat, vn := 1, launch := s.myLaunch, ord := false, rel := true,
        req := none, body := .msg h vals }
    .ok ((s.modCtx (fun c => { c with sends := c.sends + 1 })).advance len)

/-- send (R127, R128). -/
def execSend (d a b : SReg) (n : Fin 8) (s : State) : Host.Outcome State Fault Refusal :=
  finish s (sendMsg d a n (readReg s b) 1 (firstWord (.send d a b n)) s)

/-- send, literal form (R127, R128, R24). -/
def execSendLit (d a : SReg) (n : Fin 8) (lit : Word) (s : State) : Host.Outcome State Fault Refusal :=
  finish s (sendMsg d a n (.ok lit) 3 (firstWord (.sendLit d a n lit)) s)

end Sys2Proof.Machine
end

