-- ==== Sys2Proof/Machine/Task.lean ====
section
/-! DEFINITION. Task instructions: spawn and spawn.park (R296), join (R297), await (R298), migrate (R299), yield (R300), whl.at
(R284, R301), and the acceptance of a message (R127, R243). -/

namespace Sys2Proof.Machine

open Sys2Proof

/-! ### spawn and join -/

/-- A record of AKIND 0 or 1 names a core or slice with an unretired member of the launch (R296). -/
def affinityOk (s : State) (launch akind aid : Nat) : Bool :=
  match akind with
  | 0 => s.placed launch aid
  | 1 => (s.launch launch).any (fun l => (alive s l).any (fun c => sliceOf c == aid % 512))
  | _ => true

/-- The channel of a spawned record (R296): a harvest context's is always 7. -/
def spawnChan (s : State) (ch : Nat) : Nat :=
  if s.cur.hv then 7 else if ch < 2 then (s.ctx.task.map (·.chan)).getD ch else ch

/-- AKIND as records hold it: 3 is taken as 2 (R285). -/
def akindOf (x : Nat) : Nat := if x == 3 then 2 else x

/-- The record of a spawn (R296): control word `c`, frame, target and JOIN. -/
def spawnRecord (s : State) (c frame t : Word) (join : Nat) : CR :=
  let x := c.toNat
  let m : BitVec 16 := c.setWidth 16
  { CR.blank s.myLaunch (akindOf (bitsOf x 20 2)) (bitsOf x 22 15) (spawnChan s (bitsOf x 16 3)) frame t with
    saved := savedRegs s.ctx.regs m, mask := m, excl := x.testBit 37, join := BitVec.ofNat 32 join }

/-- The checks of a park frame's address (R296, R297). -/
def frameOk (s : State) (pa : Word) : Except Stop Unit := do
  need (peerOk s s.myLaunch pa) .peerDenied pa
  need (pa.toNat % 32 == 0) .align pa
  need (decide (peerOff pa ≤ 0xFF60)) .localRange pa

/-- A register of a mask is read by the instruction that saves it: a refused arrival's ALL1 raises BAR_OVER there (R262). -/
def maskBars (s : State) (m : BitVec 16) : Except Stop Unit :=
  if !s.ctx.inh && s.ctx.bops.any (fun b => b.reg.any (fun r => m.getLsbD r.val)) then .error .barOver else .ok ()

/-- spawn (R296): the record is posted, which is a release at scope .dev. -/
def spawnTo (d a : SReg) (y : Except Stop Word) (len : Nat) (s : State) : Act := do
  let t ← y
  let c ← readReg s a
  let frame ← readReg s d
  maskBars s (c.setWidth 16)
  let s ← checkTarget s t .function
  need (affinityOk s s.myLaunch (bitsOf c.toNat 20 2) (bitsOf c.toNat 22 15)) .peerDenied c
  maskFree s (c.setWidth 16)
  let r := spawnRecord s c frame t 0
  needRoom s r none
  .ok ((releasePost s s.cur.core s.cur.hv r).advance len)

/-- spawn.park (R296): the record is written at the frame by one door operation, a release at scope .dev. -/
def parkTo (d a : SReg) (y : Except Stop Word) (len : Nat) (w : Word) (s : State) : Act := do
  let t ← y
  let c ← readReg s a
  let frame ← readReg s d
  maskBars s (c.setWidth 16)
  let s ← checkTarget s t .function
  frameOk s frame
  need (affinityOk s s.myLaunch (bitsOf c.toNat 20 2) (bitsOf c.toNat 22 15)) .peerDenied c
  need (bitsOf c.toNat 48 16 != 0) .illegalOp w
  maskFree s (c.setWidth 16)
  orderOk s true
  let r := spawnRecord s c frame t (bitsOf c.toNat 48 16)
  let s ← issueAccess s (doorAccess frame .none true true false true (.park (peerOff frame) r))
  .ok (s.advance len)

/-- spawn (R296). -/
def execSpawn (d a b : SReg) (s : State) : Host.Outcome State Fault Refusal := finish s (spawnTo d a (readReg s b) 1 s)

/-- spawn, literal form (R296, R24). -/
def execSpawnLit (d a : SReg) (lit : Word) (s : State) : Host.Outcome State Fault Refusal :=
  finish s (spawnTo d a (.ok lit) 3 s)

/-- spawn.park (R296). -/
def execSpawnPark (d a b : SReg) (s : State) : Host.Outcome State Fault Refusal :=
  finish s (parkTo d a (readReg s b) 1 (firstWord (.spawnPark d a b)) s)

/-- spawn.park, literal form (R296, R24). -/
def execSpawnParkLit (d a : SReg) (lit : Word) (s : State) : Host.Outcome State Fault Refusal :=
  finish s (parkTo d a (.ok lit) 3 (firstWord (.spawnParkLit d a lit)) s)

/-- join (R297): a door operation and a release at scope .dev. -/
def execJoin (d a : SReg) (s : State) : Host.Outcome State Fault Refusal :=
  finish s (do
    let pa ← readReg s a
    frameOk s pa
    destFree s d
    orderOk s true
    let s ← issueAccess s (doorAccess pa (.reg d .d) true true false true (.dat (peerOff pa) .join))
    .ok ((s.clearReg d).advance 1))

/-! ### Task ends with a record (R295) -/

/-- The mask of a task-ending instruction, once its registers are present (R295 step 2). -/
def endMask (d : SReg) (s : State) : Except Stop (BitVec 16) := do
  let m ← readReg s d
  maskFree s (m.setWidth 16)
  .ok (m.setWidth 16)

/-- The record of the running task with a mask and a target; a context without a task has none and ends alone. -/
def endWith (s : State) (m : BitVec 16) (t : Word) (f : CR → Act) : Act :=
  match s.ctx.task with
  | none => commitEnd s .drop
  | some k => f (endRecord k s.ctx.regs m t)

/-- await (R298). -/
def awaitTo (d a : SReg) (y : Except Stop Word) (s : State) : Act := do
  takeBars s
  let off ← readReg s a
  let obj ← objOk s off
  let t ← y
  let s ← checkTarget s t .target
  let m ← endMask d s
  waitFor (awaitRoom s.me s.cur.hv) none
  endWith s m t (fun r => do
    needRoom s r none
    commitEnd s (.await obj r))

/-- await (R298). -/
def execAwait (d a b : SReg) (s : State) : Host.Outcome State Fault Refusal := finish s (awaitTo d a (readReg s b) s)

/-- await, literal form (R298, R24). -/
def execAwaitLit (d a : SReg) (lit : Word) (s : State) : Host.Outcome State Fault Refusal :=
  finish s (awaitTo d a (.ok lit) s)

/-- migrate (R299). -/
def migrateTask (d a : SReg) (y : Except Stop Word) (s : State) : Act := do
  takeBars s
  let dst ← readReg s a
  need (decide (dst.toNat < 32768) && s.placed s.myLaunch dst.toNat) .peerDenied dst
  let t ← y
  let s ← checkTarget s t .target
  let m ← endMask d s
  endWith s m t (fun r => do
    let r := { r with akind := 0, aid := dst.toNat, migr := true }
    needRoom s r none
    commitEnd s (.post r))

/-- migrate (R299). -/
def execMigrate (d a b : SReg) (s : State) : Host.Outcome State Fault Refusal := finish s (migrateTask d a (readReg s b) s)

/-- migrate, literal form (R299, R24). -/
def execMigrateLit (d a : SReg) (lit : Word) (s : State) : Host.Outcome State Fault Refusal :=
  finish s (migrateTask d a (.ok lit) s)

/-- yield (R300): it resumes at the next instruction under R35. -/
def execYield (d : SReg) (s : State) : Host.Outcome State Fault Refusal :=
  finish s (do
    takeBars s
    let (next, closed) := s.ctx.nextPc 1
    (match closed with
     | some line => .error (.trap .lineMalformed line)
     | none => .ok ())
    let m ← endMask d s
    endWith s m next (fun r => do
      let r := { r with resume := true }
      needRoom s r none
      commitEnd s (.post r)))

/-- The wheel of the issuing core's slice has room; QUEUE_FULL names the queue that the release would use (R301). -/
def wheelRoom (s : State) (r : CR) : Except Stop Unit :=
  let idx := (s.launch r.launch).bind (fun l => queueIdx s l r s.cur.core (some 1))
  need (decide ((s.slice (sliceOf s.cur.core)).wheel.length < wheelSize)) .queueFull (BitVec.ofNat 64 (idx.getD 0))

/-- whl.at (R284, R301): the record goes on the wheel and is released into channel 1 (R288). -/
def wheelTo (d a : SReg) (y : Except Stop Word) (s : State) : Act := do
  takeBars s
  let t ← y
  let s ← checkTarget s t .target
  let m ← endMask d s
  let at_ ← readReg s a
  endWith s m t (fun r => do
    wheelRoom s r
    needRoom s r (some 1)
    commitEnd s (.wheel at_.toNat r))

/-- whl.at (R284). -/
def execWhlAt (d a b : SReg) (s : State) : Host.Outcome State Fault Refusal := finish s (wheelTo d a (readReg s b) s)

/-- whl.at, literal form (R284, R24). -/
def execWhlAtLit (d a : SReg) (lit : Word) (s : State) : Host.Outcome State Fault Refusal :=
  finish s (wheelTo d a (.ok lit) s)

/-! ### Messages at their destination (R127, R243) -/

/-- Registers of a handler: the carried values, and the sender's core number in s15 (R127). -/
def handlerRegs (vals : List Word) (src : Nat) : Vector Word 16 :=
  Vector.ofFn (fun (i : Fin 16) => if i.val == 15 then BitVec.ofNat 64 src else vals.getD i.val 0)

/-- The record of a message (R127). -/
def messageRecord (p : Packet) (handler : Word) (vals : List Word) : CR :=
  { CR.blank p.launch 0 p.dst 1 0 handler with saved := handlerRegs vals p.src, mask := 0xFFFF }

/-- An earlier message of the same context to the same core is still on its way (R127). -/
def messageBehind (s : State) (p : Packet) : Bool :=
  s.net.any (fun q => q.src == p.src && q.dst == p.dst && q.who == p.who && decide (q.req < p.req) &&
    (match q.body with
     | .msg .. => true
     | _ => false))

/-- A send credit of the message's source comes back (R127), and its kept copy is acknowledged (R241). -/
def messageAccepted (s : State) (p : Packet) : State :=
  let s := dropKept s p.src p.req
  match p.who with
  | .ctx hv => clearTags (settleRels (s.modCtxOf p.src hv (fun c => { c with sends := c.sends - 1 })) p.src hv) p.src .dev
  | .engine _ | .walk _ | .fill _ | .gate .. => s

/-- MSG arrives (R127, R243): its record is posted, waiting for room, and the source has its credit back. -/
def execMsg (k : Nat) (s : State) : Host.Outcome State Fault Refusal :=
  .next (match s.got k with
    | none => s
    | some p =>
      (match p.body with
       | .msg handler vals =>
         if p.trim then s
         else if p.e && (s.core p.dst).fab.executed p.src p.vn p.seq then s.take k
         else if relWaits s p || messageBehind s p then s
         else if (s.launch p.launch).isNone then messageAccepted (executed s p) p
         else (match post s (messageRecord p handler vals) p.dst (some 1) with
           | none => s
           | some t => messageAccepted (executed t p) p)
       | _ => s))

end Sys2Proof.Machine
end

