-- ==== Sys2Proof/Machine/Service.lean ====
section
/-! DEFINITION. Requests of the service network (R340), the retirement of a core (R341), and keys (R363). -/

namespace Sys2Proof.Machine

open Sys2Proof

/-! ### Answers (R340) -/

/-- An answer of a debug unit joins those of the service network. -/
def reply (s : State) (r : SvcReply) : State := s.modCrust (fun c => { c with replies := c.replies ++ [r] })

/-- A request that is allowed has its effect and is acknowledged; another changes nothing and is refused. -/
def serviced (s : State) (unit : Nat) (ok : Bool) (t : State) : State := if ok then reply t (.ack unit) else reply s (.refused unit)

/-! ### READ and WRITE

No rule gives the layout of an answer's bytes: numbers stand little-endian, presence bits by ascending register or row, and the other items
as their definitions below say (log 131). -/

/-- A CSR as the debug unit reads it: every readable register, whatever the mode (R340, R44). -/
def debugCsr (s : State) (cn : Nat) (hv : Bool) (n : Nat) : State × Word :=
  let t := ({ s with cur := ⟨cn, hv⟩ }).modCtx (fun c => { c with mode := true })
  match csrRead t n with
  | some (u, v) =>
    -- STATUS shows the context's own MODE
    ({ s with fresh := u.fresh }, if n == 0x010 then statusWord s cn hv else v)
  | none => (s, 0)

/-- Presence bits of a register file. -/
def presentBits (v : Vector Reg 16) : Nat := (List.finRange 16).foldl (fun n i => n + if v[i].present then 2 ^ i.val else 0) 0

/-- A register file with its presence bits replaced. -/
def setPresent (v : Vector Reg 16) (n : Nat) : Vector Reg 16 := Vector.ofFn (fun (i : Fin 16) => ⟨v[i].val, n.testBit i.val⟩)

/-- What an outstanding tag's reply writes: nothing 1, register r 0x10 + r, row v 0x40 + v, ring handle h 0x80 + h. -/
def Dest.code : Dest → Nat
  | .none | .arrive Option.none => 1
  | .reg r _ | .arrive (some r) => 0x10 + r.val
  | .row v => 0x40 + v.val
  | .bindC _ h | .bindP _ h => 0x80 + h.val

/-- The map of outstanding tags to destinations (R315): a byte for each global tag, then for each peer tag; 0 where it is free. -/
def tagMap (c : Ctx) : List Byte :=
  [false, true].flatMap (fun p => (List.range 8).map (fun n =>
    match c.out.find? (fun o => o.tag == some (p, n)) with
    | some o => BitVec.ofNat 8 o.dest.code
    | none => 0))

/-- A destination replaced by what a byte of the map names: the access keeps its size, and a handle stays what it was. -/
def Dest.recode (d : Dest) (b : Nat) : Dest :=
  if b == d.code then d
  else if 0x10 ≤ b && b < 0x20 then
    .reg (Fin.ofNat 16 b) (match d with
      | .reg _ sz => sz
      | _ => .d)
  else if 0x40 ≤ b && b < 0x80 then .row (Fin.ofNat 64 b)
  else d.cut

/-- The map written: destinations of outstanding accesses. -/
def setTagMap (c : Ctx) (bs : List Byte) : Ctx :=
  { c with out := c.out.map (fun o => match o.tag with
      | some (p, n) => { o with dest := o.dest.recode (bs.getD ((if p then 8 else 0) + n) 1).toNat }
      | none => o) }

/-- A ring handle in words (R105): its kind, then what it names. -/
def Handle.words : Handle → List Nat
  | .unbound => [0, 0, 0, 0, 0, 0]
  | .binding d => [1, d.val, 0, 0, 0, 0]
  | .consumer desc base lsize lslots => [2, desc.toNat, 0, base, lsize, lslots]
  | .producer desc p base lsize lslots => [3, desc.toNat, p, base, lsize, lslots]

/-- The handle that six words name. -/
def Handle.ofWords (w : List Nat) : Handle :=
  let x (i : Nat) : Nat := w.getD i 0
  match x 0 % 4 with
  | 2 => .consumer (BitVec.ofNat 64 (x 1)) (x 3) (x 4) (x 5)
  | 3 => .producer (BitVec.ofNat 64 (x 1)) (x 2) (x 3) (x 4) (x 5)
  | 1 => .binding (Fin.ofNat 16 (x 1))
  | _ => .unbound

/-- What a reserve bank keeps of the running record (R315), in the record's own layout (R285). -/
def bankTask (c : Ctx) : List Byte := match c.task with
  | some t => (endRecord t c.bank.regs 0 0).bytes
  | none => natLe 160 0

/-- The task that 160 bytes name, where a task runs. -/
def setBankTask (c : Ctx) (n : Nat) : Ctx :=
  let r := CR.ofNum n
  { c with task := c.task.map (fun _ => { launch := r.launch, chan := r.chan, akind := r.akind, aid := r.aid, frame := r.frame,
                                          excl := r.excl, loanLost := r.loanLost }) }

/-- The launch under whose keystream a tile stands: the harvest's for a lent t3, else its owner's (R319, R363). -/
def Core.tileLaunch (c : Core) (t : Nat) : Nat := if t == 3 && c.loan.t3 then c.harv.launch else c.tilesOf

/-- A packet stands at a core: at its router, in an output's queue there, or at the door it was sent to. -/
def Packet.atCore (p : Packet) (cn : Nat) : Bool :=
  match p.at_ with
  | .router c _ | .queue c _ _ => c == cn
  | .arrived => p.dst == cn

/-- What a READ returns (R340): local memory and tiles under the keystream of launch `l` (R363). A byte of a unit with an uncorrectable error,
which is reported (R339), is a value left open (log 106). -/
def debugRead (s : State) (cn : Nat) (hv : Bool) (it : SvcItem) (l : Nat) : State × List Byte :=
  let c := s.core cn
  let x := c.ctx hv
  match it with
  | .reg r => (s, natLe 8 x.regs[r].val.toNat)
  | .present => (s, natLe 2 (presentBits x.regs))
  | .csr n =>
    let (s, v) := debugCsr s cn hv n.toNat
    (s, natLe 8 v.toNat)
  | .bankReg r => (s, natLe 8 x.bank.regs[r].val.toNat)
  | .bankPresent => (s, natLe 2 (presentBits x.bank.regs))
  | .bankPc => (s, natLe 8 x.bank.rpc.toNat)
  | .bankTags => (s, tagMap x)
  | .bankHandle h => (s, x.bank.handles[h].words.flatMap (natLe 8))
  | .bankSrseed => (s, natLe 4 x.bank.srseed.toNat)
  | .bankVflag => (s, natLe 1 x.bank.vflag.toNat)
  | .bankTask => (s, bankTask x)
  | .bankRestart => (s, (x.bank.restart.map CR.bytes).getD (natLe 160 0))
  | .row v =>
    if c.tileLaunch (v.val / 16) == l && l != 0 then (s, natLe 64 (c.row v).bits.toNat) else noises s 64
  | .tile t =>
    let y := c.tiles[t]
    (s, natLe 4 ((List.finRange 16).foldl (fun n i => n + if y.rows[i].present then 2 ^ i.val else 0) 0
      + (if y.dnz then 2 ^ 16 else 0) + tileTypeCode y.ty * 2 ^ 24))
  | .byte off =>
    let off := off % lmSize
    if (lmBadIn s cn off 1).isSome then noises (reportEcc s (loafOf cn) cn l off) 1 else lmRead s cn off l 1
  | .trimc => (s, natLe 8 c.trimc.toNat)
  | .bconf => (s, natLe 8 c.bconf.toNat)
  | .errors => (s, natLe 4 c.corrected)
  | .dieErrors => (s, natLe 4 (mget s.hbm.corrected (loafOf cn) 0))
  | .trims port => (s, natLe 4 (s.output (outNo cn (port % 8))).trims)
  | .header k => (s, natLe 32 (((s.pkt k).filter (·.atCore cn)).elim 0 (·.header.toNat)))

/-- READ (R340): its answer is the data. -/
def execRead (cn : Nat) (hv : Bool) (it : SvcItem) (l : Nat) (s : State) : Host.Outcome State Fault Refusal :=
  let (s, bs) := debugRead s cn hv it l
  .next (reply s (.data cn bs))

/-- An item of the live registers or of a reserve bank, which WRITE reaches only while the context is stopped (R340). -/
def ofContext : SvcItem → Bool
  | .reg _ | .present | .bankReg _ | .bankPresent | .bankPc | .bankTags | .bankHandle _ | .bankSrseed | .bankVflag | .bankTask
  | .bankRestart => true
  | .csr _ | .row _ | .tile _ | .byte _ | .trimc | .bconf | .errors | .dieErrors | .trims _ | .header _ => false

/-- WRITE is allowed (R340): registers and banks of a stopped context, no identity CSR (R14), and no header (R233). -/
def writeAllowed (s : State) (cn : Nat) (hv : Bool) (it : SvcItem) : Bool :=
  (!ofContext it || (s.ctxOf cn hv).stop) && (match it with
    | .csr n => decide (3 ≤ n.toNat)
    | .header _ => false
    | _ => true)

/-- The effect of a WRITE. A row keeps its presence bit, which no WRITE sets or clears (R208). A tile takes the DNZ bit beside any type, though
R207 lets a program set it on a floating one only (log 161). A byte of a unit with an uncorrectable error stays as it is, and is reported (R82,
R339). A trim counter is cleared (R236). -/
def debugWrite (s : State) (cn : Nat) (hv : Bool) (it : SvcItem) (v : RowBits) : State :=
  let w : Word := v.setWidth 64
  let bank (f : Bank → Bank) : State := s.modCtxOf cn hv (fun c => { c with bank := f c.bank })
  match it with
  | .reg r => s.modCtxOf cn hv (fun c => c.setReg r w)
  | .present => s.modCtxOf cn hv (fun c => { c with regs := setPresent c.regs w.toNat })
  | .csr n => csrStore s cn hv n.toNat w
  | .bankReg r => bank (fun b => { b with regs := b.regs.set r ⟨w, b.regs[r].present⟩ })
  | .bankPresent => bank (fun b => { b with regs := setPresent b.regs w.toNat })
  | .bankPc => s.modCtxOf cn hv (fun c => { c with closedFrom := none, bank := { c.bank with rpc := w } })
  | .bankTags => s.modCtxOf cn hv (fun c => setTagMap c (natLe 16 v.toNat))
  | .bankHandle h => bank (fun b =>
      { b with handles := b.handles.set h (Handle.ofWords ((List.range 6).map (fun i => bitsOf v.toNat (64 * i) 64))) })
  | .bankSrseed => bank (fun b => { b with srseed := w.setWidth 32 })
  | .bankVflag => bank (fun b => { b with vflag := w.setWidth 6 })
  | .bankTask => s.modCtxOf cn hv (fun c => setBankTask c v.toNat)
  | .bankRestart => bank (fun b => { b with restart := b.restart.map (fun r =>
      { CR.ofNum (v.toNat % 2 ^ 256 + r.toNum / 2 ^ 256 * 2 ^ 256) with launch := r.launch }) })
  | .row r => s.modCore cn (fun c => c.setRow r ⟨v, (c.row r).present⟩)
  | .tile t => s.modCore cn (fun c =>
      let y := c.tiles[t]
      { c with tiles := c.tiles.set t { y with ty := (tileTypeOf (bitsOf w.toNat 24 4)).getD y.ty, dnz := w.getLsbD 16 } })
  | .byte off =>
    let off := off % lmSize
    let l := (s.core cn).launch
    if (lmBadIn s cn off 1).isSome then reportEcc s (loafOf cn) cn l off else lmWrite s cn off l (natLe 1 w.toNat)
  | .trimc => s.modCore cn (fun c => { c with trimc := w })
  | .bconf => s.modCore cn (fun c => { c with bconf := w })
  | .errors => s.modCore cn (fun c => { c with corrected := w.toNat % 2 ^ 32 })
  | .dieErrors => { s with hbm := { s.hbm with corrected := mset s.hbm.corrected (loafOf cn) (w.toNat % 2 ^ 32) } }
  | .trims port => s.modOut (outNo cn (port % 8)) (fun l => { l with trims := 0 })
  | .header _ => s

/-- WRITE (R340). -/
def execWrite (cn : Nat) (hv : Bool) (it : SvcItem) (v : RowBits) (s : State) : Host.Outcome State Fault Refusal :=
  .next (serviced s cn (writeAllowed s cn hv it) (debugWrite s cn hv it v))

/-! ### RESTART and REPOST -/

/-- An address is an instruction start of a well-formed line of the context (R340). -/
def startOk (s : State) (cn : Nat) (hv : Bool) (a : Word) : State × Bool :=
  let w := wordIdx a
  let test (ws : List Word32) : Bool :=
    a.toNat % 4 == 0 && lineOk ws && arriveOk .start { addr := lineAddr a, state := .ok, words := ws } w
  if ownFetch s cn hv a then (s, test (wordsOfBytes (cellRead (s.svcMem cn) (lineAddr a).toNat 128)))
  else match unitRead s (s.ctxOf cn hv).launch (lineAddr a) 128 with
    | (s, .ok bs) => (s, test (wordsOfBytes bs))
    | (s, .error _) => (s, false)

/-- A stopped context goes on: the registers of its bank, and the RPC or a given address, which a parked harvest keeps in its bank. At the
RPC of a halt that ended a CLOSED line, LINE_MALFORMED is due (R35). Replies still outstanding land in the live registers, those of the abandoned handler, its ngets too, nowhere (R340). -/
def Ctx.restarted (c : Ctx) (hv svc : Bool) (at_ : Option Word) : Ctx :=
  let c := if hv then c.fromBank else { c with regs := c.bank.regs }
  let pc := at_.getD c.bank.rpc
  { c with stop := false, inh := false, dbl := false, mode := svc, pc := pc, closedFrom := if at_.isNone then c.closedFrom else none, further := false, bank := { c.bank with rpc := pc },
           stall := none, arrive := .none, ending := none,
           out := c.out.map (fun o => { (if o.handler then { o with dest := o.dest.cut } else o) with handler := false }),
           ngets := c.ngets.map (fun g => { (if g.handler then { g with dest := none } else g) with handler := false }) }

/-- RESTART (R340). -/
def execRestart (cn : Nat) (hv : Bool) (at_ : Option Word) (s : State) : Host.Outcome State Fault Refusal :=
  let (t, ok) := match at_ with
    | some a => startOk s cn hv a
    | none => (s, true)
  .next (serviced s cn ((s.ctxOf cn hv).stop && ok) (t.modCtxOf cn hv (fun c => c.restarted hv (isSvc cn) at_)))

/-- REPOST (R340): the stopped task of an owner context becomes a record with a given affinity. A task that a halt at the end of a CLOSED line
stopped runs again at its RPC, word 2 of the next line, as R340 says: DESIGN CHOICE (log 154), against R35's LINE_MALFORMED there. -/
def execRepost (cn akind aid : Nat) (s : State) : Host.Outcome State Fault Refusal :=
  let c := s.ctxOf cn false
  .next (match c.stop, c.task with
    | true, some t =>
      let r := { wholeRecord t (presentRegs c.bank.regs) c.bank.rpc with akind := akindOf akind, aid := aid }
      let s := s.modCtxOf cn false (fun c => { c with held := [], bops := [] })
      reply (releasePost (freeCtx s cn false) cn false r) (.ack cn)
    | _, _ => reply s (.refused cn))

/-! ### PREEMPT, PERMIT -/

/-- The launch that a PREEMPT names becomes the core's owner launch (R323); a number that no live launch has names none. -/
def enter (s : State) (cn l : Nat) : State := if (s.launch l).isSome then switchIn s cn l else s

/-- A switch to a launch, or to none, of a core whose owner is between tasks or pre-empted (R323). -/
def switchTo (s : State) (cn l : Nat) : State := enter (switchOut s cn) cn l

/-- A PREEMPT is over: the owner issues again, or picks. -/
def preemptDone (s : State) (cn : Nat) : State := s.modCore cn (fun c => { c with preempt := none })

/-- Step 1 of R323: the owner's state goes into PB0 under the rules of R314. An instruction that has not completed is abandoned. -/
def saveOwner (s : State) (cn l : Nat) : State :=
  let s := dropWalk s cn false
  s.modCore cn (fun c =>
    let x := c.owner.abandon
    { c with preempt := some ⟨l, true⟩, owner := if x.task.isSome then { x with bank := x.toBank x.pc } else x })

/-- The switch of R323 once the tags are back: the pre-empted task goes to the tail of its queue. -/
def preemptSwitch (s : State) (cn l : Nat) : State :=
  let c := (s.core cn).owner
  let s := preemptDone s cn
  match c.task with
  | none => switchTo s cn l
  | some t =>
    let r := wholeRecord t (withdrawn { c with regs := c.bank.regs }) c.bank.rpc
    let s := switchOut s cn
    let s := releasePost (freeCtx s cn false) cn false r
    enter s cn l

/-- An access-precise fault reported meanwhile stops the switch: the context takes it, and the requester is told (R323 step 3). -/
def preemptFault (s : State) (cn : Nat) (p : Pend) (rest : List Pend) : State :=
  let s := preemptDone (s.modCtxOf cn false (fun c => { c with regs := c.bank.regs, held := rest })) cn
  reply (takeTrap s cn false p.cause .access p.epc (s.ctxOf cn false).pc p.val) (.refused cn)

/-- PREEMPT (R323, R340): each turn makes its next move. It is refused while the owner is stopped, and waits for a trap handler, a task end or
a row access of the owner to end; a service core, which runs no launch, has nothing to switch (log 30). -/
def execPreempt (cn l : Nat) (s : State) : Host.Outcome State Fault Refusal :=
  let c := s.core cn
  .next (match c.preempt with
    | none =>
      if c.owner.stop then reply s (.refused cn)
      else if isSvc cn then reply s (.ack cn)
      else if c.owner.inh then s
      else endHarvest (s.modCore cn (fun c => { c with preempt := some ⟨l, false⟩ })) cn
    | some p =>
      if p.launch != l then reply s (.refused cn)
      else if !p.saved then
        if c.owner.inh || c.owner.stop then reply (preemptDone s cn) (.refused cn)
        else if c.owner.ending.isSome || c.owner.units.isSome then s
        else match fallen s cn false with
          | some t => t
          | none => saveOwner s cn l
      else match c.owner.held with
        | h :: rest => preemptFault s cn h rest
        | [] =>
          if canSwitch s cn && c.loan == Loan.none then reply (preemptSwitch s cn l) (.ack cn) else endHarvest s cn)

/-- PERMIT (R312, R340): a clearing begins a park (R313). -/
def execPermit (cn : Nat) (v : Bool) (s : State) : Host.Outcome State Fault Refusal :=
  let was := (s.core cn).permit
  let s := s.modCore cn (fun c => { c with permit := v })
  .next (reply (if was && !v then beginPark s cn else s) (.ack cn))

/-! ### RETIRE, TEARDOWN, RESET -/

/-- A core is a party of a reed's product: an end of the reed, or the sink (R157, R179). -/
def partyOf (s : State) (cn reed : Nat) : Bool :=
  reedEnd reed false == cn || reedEnd reed true == cn || (s.reed reed).run.any (fun p => p.feed.sink == cn)

/-- The reed products of a core abort, and its commands, latches and arms go (R179, R341). -/
def retireReeds (s : State) (cn : Nat) : State :=
  let s := s.reeds.foldl (fun (s : State) e =>
    let s := if partyOf s cn e.1 then abortProduct s e.1 3 0 else s
    let l := (s.reed e.1).latch
    let s := if l.state != .empty && l.core == cn then emptyLatch s e.1 else s
    cancelQueue (cancelQueue s e.1 false (fun c => c.core == cn)) e.1 true (fun c => c.core == cn)) s
  (s.core cn).arms.foldl (fun s a => armEnd s cn a 3 0 a.made) s

/-- RETIRE (R341): the core leaves every placement, its local memory is lost, and what its door holds is refused. -/
def execRetire (cn : Nat) (s : State) : Host.Outcome State Fault Refusal :=
  let c := s.core cn
  .next (
    if c.owner.task.isSome || c.harv.task.isSome || isSvc cn || Config.computeCores ≤ cn then reply s (.refused cn)
    else
      let s := s.modCore cn (fun c => { c with retired := true })
      let s := retireReeds s cn
      let s := (s.launches.filter (·.live)).foldl (fun s l => refuseHeld s cn l.num) s
      reply (s.modCore cn (fun c => { c with lm := { c.lm with keys := [] }, frames := c.frames.map (fun f =>
        { f with lm := { f.lm with keys := [] } }) })) (.ack cn))

/-- TEARDOWN (R305, R340): the launch's object receives STATUS 3. Of a launch that has ended it empties the latches (R180) and
discards the keystream (R363). -/
def execTeardown (l : Nat) (s : State) : Host.Outcome State Fault Refusal :=
  .next (reply (if (s.launch l).isSome then releaseLaunch s l 3
  else if l == 0 then s
  else dropLatches (dropKeys s l) l) (.ack l))

/-- A core in its reset state (R107, R188), with what belongs to its memory, its fabric and its retirement. -/
def resetCore (c : Core) (svc : Bool) : Core :=
  { (if svc then Core.service else Core.reset) with
    lm := c.lm, fab := c.fab, qwaits := c.qwaits, bwaits := c.bwaits, frames := c.frames, retired := c.retired, corrected := c.corrected }

/-- RESET (R340): only of a retired core, or while the part is starting. Its reeds' latches and its sides' bindings are empty (R188, R189). -/
def execReset (cn : Nat) (s : State) : Host.Outcome State Fault Refusal :=
  .next (
    if !((s.core cn).retired || s.crust.step != 10) then reply s (.refused cn)
    else
      let s := s.modCore cn (fun c => resetCore c (isSvc cn))
      reply ((reedsOf cn).foldl (fun s p => s.modReed p.1 (fun r =>
        let r := { r with latch := Latch.reset }
        if p.2 then { r with be := none } else { r with bw := none })) s) (.ack cn))

/-! ### Keys (R363) -/

/-- KEY_INSTALL (R363): the kernel rewrites a slot, and every page under the id becomes noise. -/
def execKeyInstall (id : Nat) (s : State) : Host.Outcome State Fault Refusal :=
  .next (
    if 1 ≤ id && id ≤ 4095 then s.modCrust (fun c => { c with keyVers := mset c.keyVers id (mget c.keyVers id 0 + 1) })
    else s)

end Sys2Proof.Machine
end

