-- ==== Sys2Proof/Machine/Sign.lean ====
section
/-! DEFINITION. The check of the signed image (R361): SHA-384, and the verification of an ECDSA signature on the curve P-384, as the
standards FIPS 180-4 and FIPS 186-5 that R361 names by the algorithms define them (log 137). -/

namespace Sys2Proof.Machine

open Sys2Proof

/-! ### SHA-384 -/

/-- A 64-bit word of the hash. -/
abbrev HashWord := BitVec 64

/-- The first round constants. -/
def shaK0 : List HashWord :=
  [0x428A2F98D728AE22, 0x7137449123EF65CD, 0xB5C0FBCFEC4D3B2F, 0xE9B5DBA58189DBBC,
   0x3956C25BF348B538, 0x59F111F1B605D019, 0x923F82A4AF194F9B, 0xAB1C5ED5DA6D8118,
   0xD807AA98A3030242, 0x12835B0145706FBE, 0x243185BE4EE4B28C, 0x550C7DC3D5FFB4E2,
   0x72BE5D74F27B896F, 0x80DEB1FE3B1696B1, 0x9BDC06A725C71235, 0xC19BF174CF692694,
   0xE49B69C19EF14AD2, 0xEFBE4786384F25E3, 0x0FC19DC68B8CD5B5, 0x240CA1CC77AC9C65]

/-- The second round constants. -/
def shaK1 : List HashWord :=
  [0x2DE92C6F592B0275, 0x4A7484AA6EA6E483, 0x5CB0A9DCBD41FBD4, 0x76F988DA831153B5,
   0x983E5152EE66DFAB, 0xA831C66D2DB43210, 0xB00327C898FB213F, 0xBF597FC7BEEF0EE4,
   0xC6E00BF33DA88FC2, 0xD5A79147930AA725, 0x06CA6351E003826F, 0x142929670A0E6E70,
   0x27B70A8546D22FFC, 0x2E1B21385C26C926, 0x4D2C6DFC5AC42AED, 0x53380D139D95B3DF,
   0x650A73548BAF63DE, 0x766A0ABB3C77B2A8, 0x81C2C92E47EDAEE6, 0x92722C851482353B]

/-- The third round constants. -/
def shaK2 : List HashWord :=
  [0xA2BFE8A14CF10364, 0xA81A664BBC423001, 0xC24B8B70D0F89791, 0xC76C51A30654BE30,
   0xD192E819D6EF5218, 0xD69906245565A910, 0xF40E35855771202A, 0x106AA07032BBD1B8,
   0x19A4C116B8D2D0C8, 0x1E376C085141AB53, 0x2748774CDF8EEB99, 0x34B0BCB5E19B48A8,
   0x391C0CB3C5C95A63, 0x4ED8AA4AE3418ACB, 0x5B9CCA4F7763E373, 0x682E6FF3D6B2B8A3,
   0x748F82EE5DEFB2FC, 0x78A5636F43172F60, 0x84C87814A1F0AB72, 0x8CC702081A6439EC]

/-- The last round constants. -/
def shaK3 : List HashWord :=
  [0x90BEFFFA23631E28, 0xA4506CEBDE82BDE9, 0xBEF9A3F7B2C67915, 0xC67178F2E372532B,
   0xCA273ECEEA26619C, 0xD186B8C721C0C207, 0xEADA7DD6CDE0EB1E, 0xF57D4F7FEE6ED178,
   0x06F067AA72176FBA, 0x0A637DC5A2C898A6, 0x113F9804BEF90DAE, 0x1B710B35131C471B,
   0x28DB77F523047D84, 0x32CAAB7B40C72493, 0x3C9EBE0A15C9BEBC, 0x431D67C49C100D4C,
   0x4CC5D4BECB3E42B6, 0x597F299CFC657E2A, 0x5FCB6FAB3AD6FAEC, 0x6C44198C4A475817]

/-- The 80 round constants. -/
def shaK : List HashWord := shaK0 ++ shaK1 ++ shaK2 ++ shaK3

/-- The chaining value: eight words. -/
structure HashState where
  a : HashWord
  b : HashWord
  c : HashWord
  d : HashWord
  e : HashWord
  f : HashWord
  g : HashWord
  h : HashWord
  deriving DecidableEq, Repr

/-- The initial value of SHA-384. -/
def shaInit : HashState :=
  ⟨0xCBBB9D5DC1059ED8, 0x629A292A367CD507, 0x9159015A3070DD17, 0x152FECD8F70E5939,
   0x67332667FFC00B31, 0x8EB44A8768581511, 0xDB0C2E0D64F98FA7, 0x47B5481DBEFA4FA4⟩

/-- The number of big-endian bytes. -/
def beNat (bs : List Byte) : Nat := bs.foldl (fun n b => 256 * n + b.toNat) 0

/-- `n` bytes of a number, big-endian. -/
def natBe (n v : Nat) : List Byte := (List.range n).map (fun i => BitVec.ofNat 8 (v / 256 ^ (n - 1 - i)))

/-- The next word of the message schedule, from the last sixteen with the newest first. -/
def shaNext (w : List HashWord) : HashWord :=
  let at_ (i : Nat) : HashWord := w.getD (i - 1) 0
  let s0 (x : HashWord) : HashWord := x.rotateRight 1 ^^^ x.rotateRight 8 ^^^ (x >>> 7)
  let s1 (x : HashWord) : HashWord := x.rotateRight 19 ^^^ x.rotateRight 61 ^^^ (x >>> 6)
  s1 (at_ 2) + at_ 7 + s0 (at_ 15) + at_ 16

/-- One round with a constant and a schedule word. -/
def shaRound (x : HashState) (k w : HashWord) : HashState :=
  let s1 := x.e.rotateRight 14 ^^^ x.e.rotateRight 18 ^^^ x.e.rotateRight 41
  let ch := (x.e &&& x.f) ^^^ (~~~x.e &&& x.g)
  let t1 := x.h + s1 + ch + k + w
  let s0 := x.a.rotateRight 28 ^^^ x.a.rotateRight 34 ^^^ x.a.rotateRight 39
  let maj := (x.a &&& x.b) ^^^ (x.a &&& x.c) ^^^ (x.b &&& x.c)
  ⟨t1 + s0 + maj, x.a, x.b, x.c, x.d + t1, x.e, x.f, x.g⟩

/-- The rounds: `w` holds the last sixteen words, newest first, of which the oldest is used by this round. -/
def shaRounds : List HashWord → List HashWord → HashState → HashState
  | [], _, x => x
  | k :: ks, w, x => shaRounds ks ((shaNext w :: w).take 16) (shaRound x k (w.getD 15 0))

/-- One block of 128 bytes. -/
def shaBlock (x : HashState) (block : List Byte) : HashState :=
  let w := ((List.range 16).map (fun i => (BitVec.ofNat 64 (beNat ((block.drop (8 * i)).take 8)) : HashWord))).reverse
  let y := shaRounds shaK w x
  ⟨x.a + y.a, x.b + y.b, x.c + y.c, x.d + y.d, x.e + y.e, x.f + y.f, x.g + y.g, x.h + y.h⟩

/-- Blocks of a padded message; `n` bounds their number. -/
def shaBlocks : Nat → List Byte → HashState → HashState
  | 0, _, x => x
  | n + 1, bs, x => if bs.isEmpty then x else shaBlocks n (bs.drop 128) (shaBlock x (bs.take 128))

/-- A message with its padding. -/
def shaPad (bs : List Byte) : List Byte :=
  bs ++ 0x80 :: List.replicate ((239 - bs.length % 128) % 128) 0 ++ natBe 16 (8 * bs.length)

/-- SHA-384: 48 bytes. -/
def sha384 (bs : List Byte) : List Byte :=
  let x := shaBlocks (bs.length / 128 + 2) (shaPad bs) shaInit
  [x.a, x.b, x.c, x.d, x.e, x.f].flatMap (fun w => natBe 8 w.toNat)

/-! ### ECDSA on P-384 -/

/-- The prime of the field. -/
def p384P : Nat := 2 ^ 384 - 2 ^ 128 - 2 ^ 96 + 2 ^ 32 - 1

/-- The order of the base point. -/
def p384N : Nat :=
  0xFFFFFFFFFFFFFFFFFFFFFFFFFFFFFFFFFFFFFFFFFFFFFFFFC7634D81F4372DDF581A0DB248B0A77AECEC196ACCC52973

/-- The base point. -/
def p384G : Nat × Nat :=
  (0xAA87CA22BE8B05378EB1C71EF320AD746E1D3B628BA79B9859F741E082542A385502F25DBF55296C3A545E3872760AB7,
   0x3617DE4A96262C6F5D9E98BF9292DC29F8F41DBD289A147CE9DA3113B5F0B8C00A60B1CE1D7E819D7A431D7C90EA0E5F)

/-- A power modulo `m`, by the bits of the exponent from the highest of `n` on. -/
def powMod (m b e : Nat) : Nat → Nat → Nat
  | 0, acc => acc
  | n + 1, acc => powMod m b e n (if e.testBit n then acc * acc % m * b % m else acc * acc % m)

/-- The inverse modulo a prime of 384 bits. -/
def invMod (m x : Nat) : Nat := powMod m (x % m) (m - 2) 384 1

/-- A point of the curve; none is the point at infinity. -/
abbrev CurvePoint := Option (Nat × Nat)

/-- The sum of two points. -/
def addPoints (p q : CurvePoint) : CurvePoint :=
  match p, q with
  | none, q => q
  | p, none => p
  | some (x1, y1), some (x2, y2) =>
    let m := p384P
    if x1 == x2 && (y1 + y2) % m == 0 then none
    else
      let l := if x1 == x2 then (3 * x1 * x1 + (m - 3)) * invMod m (2 * y1) % m
        else (y2 + (m - y1)) * invMod m (x2 + (m - x1)) % m
      let x3 := (l * l + (m - x1) + (m - x2)) % m
      some (x3, (l * (x1 + (m - x3)) + (m - y1)) % m)

/-- A multiple of a point, by the bits of the factor from the highest of `n` on. -/
def mulPoint (p : CurvePoint) (k : Nat) : Nat → CurvePoint → CurvePoint
  | 0, acc => acc
  | n + 1, acc =>
    let d := addPoints acc acc
    mulPoint p k n (if k.testBit n then addPoints d p else d)

/-- The signature r ‖ s of 96 bytes verifies a hash under a public key. -/
def ecdsaOk (key : Nat × Nat) (hash sig : List Byte) : Bool :=
  let r := beNat (sig.take 48)
  let t := beNat (sig.drop 48)
  let w := invMod p384N t
  let u := beNat hash * w % p384N
  let v := r * w % p384N
  decide (1 ≤ r) && decide (r < p384N) && decide (1 ≤ t) && decide (t < p384N) &&
    (match addPoints (mulPoint (some p384G) u 384 none) (mulPoint (some key) v 384 none) with
     | some (x, _) => x % p384N == r
     | none => false)

end Sys2Proof.Machine
end

