-- ==== Sys2Proof/Machine/Boot.lean ====
section
/-! DEFINITION. The start sequence (R359, R360), the signed image (R361, R362), BOOTSTAT and BOOTCTL (R365), the time unit (R366, R302), the
gateway's far side and its timers (R367), and what the resident kernel sets. -/

namespace Sys2Proof.Machine

open Sys2Proof

/-! ### The signed image (R361) -/

/-- The ASCII bytes HJ832IMG. -/
def imageMagic : List Byte := [0x48, 0x4A, 0x38, 0x33, 0x32, 0x49, 0x4D, 0x47]

/-- `n` bytes of an image at an offset. -/
def imgBytes (img : List Byte) (off n : Nat) : List Byte := (img.drop off).take n

/-- A number in an image's header. -/
def imgField (img : List Byte) (off n : Nat) : Nat := leNat (imgBytes img off n)

/-- The payload of an image. -/
def imgPayload (img : List Byte) : List Byte := imgBytes img 224 (imgField img 16 8)

/-- SIG verifies SHA-384 of bytes 0..127 followed by the payload, under the key in ROM. -/
def imageSigned (img : List Byte) : Bool :=
  ecdsaOk Config.romKey (sha384 (imgBytes img 0 128 ++ imgPayload img)) (imgBytes img 128 96)

/-- An image is accepted (R361). -/
def imageOk (img : List Byte) : Bool :=
  let plen := imgField img 16 8
  imgBytes img 0 8 == imageMagic && imgField img 8 4 == 1 && (imgBytes img 33 95).all (· == 0)
    && decide (1048576 ≤ plen) && decide (plen ≤ 15 * 1048576) && (imgPayload img).length == plen
    && imageSigned img && decide (Config.rollbackFloor ≤ imgField img 12 4)

/-! ### Start (R359, R360) -/

/-- A loaf at a start: its fabric mode from the image, and where its reports go (R338, R359 step 8); its periods count from now on. -/
def startLoaf (s : State) (img : List Byte) (l : Nat) : Loaf :=
  { Loaf.reset with modeE := (imgField img 32 1).testBit l, rto := 4, target := 2 * l, perStart := s.now, octet := s.now / 8,
                    stepAt := loafCycle s l }

/-- A slice at a start: the quantum and wheel boundaries that have passed are none of its own. -/
def startSlice (s : State) (k : Nat) : Slice :=
  { Slice.reset with quantum := s.time / quantum, ticked := ticksOf s k }

/-- A service core at the image's entry in supervisor mode (R359 step 10). -/
def startSvc (s : State) (img : List Byte) : Core :=
  { Core.service with owner := { Core.service.owner with pc := BitVec.ofNat 64 (imgField img 24 8), arrive := .entry true,
                                                         born := s.ids } }

/-- Steps 8 to 10 (R359): the modes, the clearing, and the service cores, of which core 0 has the payload. Nothing of a launch is left. -/
def startParts (s : State) (img : List Byte) : State :=
  { s with cores := (natRange Config.computeCores Config.serviceCores).map (fun c => (c, startSvc s img)),
           reeds := [], slices := (List.range 513).map (fun k => (k, startSlice s k)),
           loaves := (List.range 8).map (fun l => (l, startLoaf s img l)), links := [],
           hbm := { s.hbm with tags := [], old := [] }, net := [], streams := [], bellows := [], launches := [], lreqs := [], posts := [],
           crust := { s.crust with svcMems := [(0, cellWrite [] 0 (imgPayload img))], step := 10, input := none } }

/-- A failed attempt: BOOTSTAT.ERR, and TRIES counts it (R359, R365). -/
def failStart (s : State) (step : Nat) : State :=
  s.modCrust (fun c => { c with step := step, err := true, input := none, tries := Nat.min 8 (c.tries + 1) })

/-- A failed step 3, 4 or 7: the start is retried from step 1 with full training, until 8 attempts have failed (R359, log 107). -/
def retryStart (s : State) : State :=
  (failStart s 1).modCrust (fun c => { c with retry := decide (c.tries < 8), keptTrain := false, keptLinks := false })

/-- Steps 7 to 10 with an image. -/
def finishStart (s : State) (i : StartInput) (img : List Byte) : State :=
  let s := (s.newId).1.modCrust (fun c => { c with step := 7, input := none })
  if i.bad.contains 7 || !imageOk img then retryStart s
  else if i.bad.contains 8 then failStart s 8
  else if i.bad.contains 9 then failStart s 9
  else startParts s img

/-- Step 6 has an image: the crust keeps it with its SHA-384 (R360). -/
def haveImage (s : State) (i : StartInput) (img : List Byte) : State :=
  finishStart (s.modCrust (fun c => { c with keptImg := some (img, sha384 img) })) i img

/-- Step 6: a warm start uses the kept image whose hash recomputes equal; otherwise the fetch goes on until the image comes (R360, R362). -/
def fetchImage (s : State) (i : StartInput) (warm : Bool) : State :=
  if i.bad.contains 6 then failStart s 6
  else match s.crust.keptImg.filter (fun k => warm && sha384 k.1 == k.2) with
    | some k => finishStart s i k.1
    | none =>
      if i.image.isEmpty then
        s.modCrust (fun c => { c with step := 6, input := some i, fetchAt := s.now, fetchTry := 0, keptImg := none })
      else haveImage s i i.image

/-- Step 5: TIME is the PTP time, or 0 without a master (R366). -/
def setTime (s : State) (i : StartInput) (warm : Bool) : State :=
  if i.bad.contains 5 then failStart s 5
  else fetchImage { s with time := i.ptp.getD 0, slewLeft := 0, slewAcc := 0 } i warm

/-- Steps 3 and 4: a training is skipped where a warm start that is no retry has a kept result that verifies (R359, R360). -/
def trainAll (s : State) (i : StartInput) (warm full : Bool) : State :=
  let kept (k verified : Bool) : Bool := warm && !full && k && verified
  if !kept s.crust.keptTrain i.trainKept && i.bad.contains 3 then retryStart s
  else
    let s := s.modCrust (fun c => { c with keptTrain := true })
    if !kept s.crust.keptLinks i.linksKept && i.bad.contains 4 then retryStart s
    else setTime (s.modCrust (fun c => { c with keptLinks := true })) i warm

/-- Step 2: the keystream keys of the previous start are discarded, and the system key is drawn afresh (R359, R363). -/
def drawKeys (s : State) : State :=
  { s with cores := s.cores.map (fun p => (p.1, { p.2 with lm := { p.2.lm with keys := [] }, tilesOf := 0 })),
           crust := { s.crust with sysVer := s.crust.sysVer + 1 } }

/-- One attempt of the start sequence (R359). What the crust keeps in its memory stays through a warm start, and a request of a warm start
stays through the attempts of the start before it (R365). -/
def startAttempt (s : State) (i : StartInput) (warm full : Bool) : State :=
  let s := s.modCrust (fun c =>
    let again := full && c.retry
    { Crust.reset with step := 1, warm := warm, tries := if again then c.tries else 0, hostMode := i.hostMode,
                       warmreq := again && c.warmreq, kernelReq := again && c.kernelReq, windowAt := s.now, keptImg := c.keptImg, keptTrain := c.keptTrain, keptLinks := c.keptLinks,
                       sysVer := c.sysVer, keyVers := c.keyVers, reports := c.reports, replies := c.replies,
                       barOut := c.barOut })
  if i.bad.contains 1 then failStart s 1
  else
    let s := drawKeys s
    if i.bad.contains 2 then failStart s 2 else trainAll s i warm full

/-- The part without power: what time has passed, and the granules whose cells are bad, stay. -/
def unpowered (s : State) : State :=
  { State.reset with cur := s.cur, agenda := s.agenda, now := s.now, fresh := s.fresh, ids := s.ids,
                     hbm := { Hbm.reset with bad := s.hbm.bad },
                     crust := { Crust.reset with sysVer := s.crust.sysVer, keyVers := s.crust.keyVers, reports := s.crust.reports,
                                                 replies := s.crust.replies, barOut := s.crust.barOut } }

/-- COLD_START (R359): power-on. -/
def execColdStart (i : StartInput) (s : State) : Host.Outcome State Fault Refusal :=
  .next (startAttempt (unpowered s) i false true)

/-- A warm start tears down every launch, as a TEARDOWN does (R340, R359). -/
def tearAll (s : State) : State := (s.launches.filter (·.live)).foldl (fun s l => releaseLaunch s l.num 3) s

/-- WARM_START (R359): the next attempt of a start that is retried, with full training; or the start that the kernel or BOOTCTL has requested,
while the module is powered. -/
def execWarmStart (i : StartInput) (s : State) : Host.Outcome State Fault Refusal :=
  .next (
    if s.crust.retry then startAttempt s i s.crust.warm true
    else if s.crust.step != 0 && (s.crust.warmreq || s.crust.kernelReq) then startAttempt (tearAll s) i true false
    else s)

/-- The image of a fetch that a start waits for comes (R362). -/
def imageComes (s : State) (img : List Byte) : State :=
  match s.crust.input with
  | some i => if s.crust.step == 6 && !img.isEmpty then haveImage s i img else s
  | none => s

/-- A block of the image comes: the fetch makes progress (R362). -/
def blockComes (s : State) : State :=
  if s.crust.step == 6 && s.crust.input.isSome then s.modCrust (fun c => { c with fetchAt := s.now }) else s

/-- Cycles without progress after which fetch `n` is restarted: 4 s, doubling up to 64 s (R362). -/
def fetchDelay (n : Nat) : Nat := 4000000000 * 2 ^ Nat.min 4 n

/-- IMAGE_FETCH_RESTART (R362). -/
def execImageFetchRestart (s : State) : Host.Outcome State Fault Refusal :=
  .next (
    if s.crust.step == 6 && s.crust.input.isSome && decide (s.crust.fetchAt + fetchDelay s.crust.fetchTry ≤ s.now) then
      s.modCrust (fun c => { c with fetchTry := Nat.min 4 (c.fetchTry + 1), fetchAt := s.now })
    else s)

/-- A byte of the kept image changes in crust memory, which its hash then shows (R360). -/
def upsetCrust (s : State) (i : Nat) (b : Byte) : State :=
  s.modCrust (fun c => { c with keptImg := c.keptImg.map (fun k => (k.1.set i b, k.2)) })

/-! ### The PCIe host (R365) -/

/-- BOOTSTAT. -/
def bootstat (c : Crust) : BitVec 32 :=
  BitVec.ofNat 32 (c.step % 16 + (if c.warm then 2 ^ 6 else 0) + (if c.err then 2 ^ 7 else 0) + c.tries % 16 * 2 ^ 8)

/-- BOOTCTL. -/
def bootctl (c : Crust) : BitVec 32 := if c.warmreq then 1 else 0

/-- The host reads a register of BAR0, which host mode alone offers; BOOTSTAT and BOOTCTL are the ones that R365 lists. -/
def barRead (s : State) (off : Nat) : State :=
  let out (v : BitVec 32) : State := s.modCrust (fun c => { c with barOut := c.barOut ++ [v] })
  if !s.crust.hostMode then s
  else if off == 0 then out (bootstat s.crust)
  else if off == 4 then out (bootctl s.crust)
  else s

/-- A write of BOOTCTL.WARMREQ by the host (R365). -/
def execWarmreq (v : Bool) (s : State) : Host.Outcome State Fault Refusal :=
  .next (if s.crust.hostMode then s.modCrust (fun c => { c with warmreq := v }) else s)

/-- PTP_MESSAGE (R302, R366): TIME is `offset` ns behind the master, and slews. -/
def execPtpMessage (offset : Int) (s : State) : Host.Outcome State Fault Refusal :=
  .next (if s.crust.step < 5 then s else { s with slewLeft := offset, slewAcc := 0 })

/-! ### The gateway (R244, R367) -/

/-- The export window that holds `n` bytes at an offset. -/
def exportAt (s : State) (off n : Nat) : Option ExportWin :=
  s.crust.exports.find? (fun w => w.off ≤ off && off + n ≤ w.off + w.len)

/-- The crust's writes of a far device's data: packets of up to 256 bytes to the base dies, by the tables of the launch. The answer is the
state, the requests, and whether a translation failed; `n` bounds the packets. -/
def gateWrites (s : State) (dev seq launch : Nat) : Nat → Word → List Byte → State × List Nat × Bool
  | 0, _, _ => (s, [], false)
  | n + 1, va, bs =>
    if bs.isEmpty then (s, [], false)
    else
      let k := 256 - va.toNat % 256
      match (if isCanon va then walkAll s launch va .w else (s, .fault .addrNoncanon)) with
      | (s, .leaf e) =>
        let g := e.loc va
        let (s, id) := send s
          { who := .gate dev seq, src := crustCore, dst := dieCore g.pa, vn := 2, launch := launch, ord := false, rel := false,
            req := none, body := .cwr (.die (g.pa / 2 ^ 36)) 0 g (bs.take k) }
        let (s, ids, bad) := gateWrites s dev seq launch n (va + BitVec.ofNat 64 k) (bs.drop k)
        (s, id :: ids, bad)
      | (s, _) => (s, [], true)

/-- A far device has its answer: the datagram's data is written, or it is refused. -/
def farAnswer (s : State) (dev seq : Nat) (ok : Bool) : State :=
  s.modCrust (fun c => { c with gwAcked := c.gwAcked ++ [(dev, seq, ok)] })

/-- GATEWAY_DATAGRAM (R367): the data of a far device is written once into the exported memory; a duplicate is answered as before, and
what lies beyond the export is refused. -/
def execGatewayDatagram (dev seq off : Nat) (data : List Byte) (s : State) : Host.Outcome State Fault Refusal :=
  .next (
    if datagramMax < data.length then s
    else if s.crust.gwSeen.contains (dev, seq) then
      (match s.crust.gwAcked.find? (fun a => a.1 == dev && a.2.1 == seq) with
       | some a => farAnswer s dev seq a.2.2
       | none => s)
    else match (exportAt s off data.length).filter (fun w => (s.launch w.launch).isSome) with
      | none => farAnswer s dev seq false
      | some w =>
        let s := s.modCrust (fun c => { c with gwSeen := c.gwSeen ++ [(dev, seq)] })
        let (s, ids, bad) := gateWrites s dev seq w.launch (data.length / 256 + 2) (w.va + BitVec.ofNat 64 (off - w.off)) data
        if ids.isEmpty then farAnswer s dev seq (!bad)
        else s.modCrust (fun c => { c with gwIn := c.gwIn ++ [⟨dev, seq, ids, bad⟩] }))

/-- Cycles after which a datagram is sent again (R367). -/
def gatewayTimeout : Nat := 100000

/-- GATEWAY_RETRANSMIT (R367). -/
def execGatewayRetransmit (dev seq : Nat) (s : State) : Host.Outcome State Fault Refusal :=
  let due (d : Datagram) : Bool := d.dev == dev && d.seq == seq && decide (d.sent + gatewayTimeout ≤ s.now)
  .next (s.modCrust (fun c => { c with gwOut := updWhere due (fun d => { d with sent := s.now }) c.gwOut }))

/-- The far device has acknowledged a datagram, or refused it, which stops the copy (R98, R367): the packets that brought its data have their
answers. -/
def gatewayAck (s : State) (dev seq : Nat) (ok : Bool) : State :=
  match s.crust.gwOut.find? (fun d => d.dev == dev && d.seq == seq) with
  | none => s
  | some d =>
    let s := s.modCrust (fun c => { c with gwOut := c.gwOut.filter (fun x => !(x.dev == dev && x.seq == seq)) })
    d.pkts.foldl (fun s p =>
      let r : Result := if ok then .ack else .fault .peerDenied (BitVec.ofNat 64 p.addr)
      answer (cacheResult s p r) p r) s

/-! ### What the resident kernel does -/

/-- The first half of a swap-out (R343): the entry of a valid leaf becomes a swapped one, and a tlbi of scope .dev begins. An entry that cannot
be read is left, and the error is reported (R339, R364); host mode has no storage port (R365). -/
def swapOut (s : State) (pte lvl slot : Nat) : State :=
  if s.crust.hostMode then s
  else match unitFails s 0 pte 8 with
    | some s => s
    | none =>
      let (s, bs) := hbmRead s pte pte 0 true 8
      let e := leNat bs
      if !e.testBit 0 || !e.testBit 1 || 3 ≤ lvl || s.crust.flash.any (fun p => p.pte == pte) then s
      else
        let s := hbmWrite s pte pte 0 true (natLe 8 (4 * slot % 2 ^ 64 + 2))
        let (s, id) := (dropEntries s crustCore .dev (fun x => x.pte == pte)).newId
        s.modCrust (fun c => { c with flash := c.flash ++ [⟨pte, lvl, bitsOf e 16 23 * 65536, id, false, [], []⟩] })

/-- The second half (R343, R63): once the tlbi is complete, the frame's ciphertext goes to flash unchanged, and its frames to the pool. -/
def swapStore (s : State) (pte : Nat) : State :=
  match s.crust.flash.find? (fun p => p.pte == pte && !p.stored) with
  | none => s
  | some p =>
    if s.crust.hostMode || s.cores.any (fun c => c.2.globalBefore p.id) then s
    else
      let size := 2 ^ pageBits p.lvl
      let mine (a : Nat) : Bool := decide (p.frame ≤ a) && decide (a < p.frame + size)
      -- a granule that cannot be read is reported, and what stands for it in flash decrypts to noise (R339; log 106)
      let bad := s.hbm.bad.filter (fun g => mine (g * 32))
      let s := bad.foldl (fun s g => reportEcc s (g * 32 / 2 ^ 36) 0 0 (g * 32)) s
      let q : FlashPage := { p with
        stored := true,
        bytes := (s.hbm.bytes.filter (fun c => mine c.1)).map (fun c => (c.1 - p.frame, c.2)),
        labels := (s.hbm.labels.filter (fun l => mine (l.1 * 32) && !bad.contains l.1)).map (fun l => (l.1 - p.frame / 32, l.2)) }
      s.modCrust (fun c => { c with flash := updWhere (fun x => x.pte == pte) (fun _ => q) c.flash,
                                    pool := c.pool ++ pageFrames p.frame p.lvl })

/-- Frames of the reserved pool: 1 GiB (R343). -/
def poolFrames : Nat := 16384

/-- The kernel's own acts (R54, R236, R338, R343, R359, R365, R367). -/
def kernelAct (s : State) (a : KernelAct) : State :=
  match a with
  | .sysRoot pa => s.modCrust (fun c => { c with sysRoot := pa })
  | .reportTo loaf svc => s.modLoaf loaf (fun l => { l with target := svc })
  | .peer dev known => s.modCrust (fun c =>
      { c with peers := if known then addNew c.peers dev else c.peers.filter (· != dev) })
  | .exportWin off len va launch => s.modCrust (fun c => { c with exports := c.exports ++ [⟨off, len, va, launch⟩] })
  | .unexport off => s.modCrust (fun c => { c with exports := c.exports.filter (fun w => w.off != off) })
  | .hostRoot pa => s.modCrust (fun c => { c with hostRoot := pa })
  | .clearTrims cn => (List.range 7).foldl (fun s port => s.modOut (outNo cn port) (fun l => { l with trims := 0 })) s
  | .warmReq => s.modCrust (fun c => { c with kernelReq := true })
  | .reserve frame => s.modCrust (fun c =>
      if c.pool.length < poolFrames then { c with pool := addNew c.pool frame } else c)
  | .swapOut pte lvl slot => swapOut s pte lvl slot
  | .swapStore pte => swapStore s pte

end Sys2Proof.Machine
end

