-- ==== Sys2Proof/Machine/Drain.lean ====
section
/-! DEFINITION. The drain: tdrain (R227, R228). Its writes to local memory are an engine operation of the copy engine. -/

namespace Sys2Proof.Machine

open Sys2Proof

/-- One write of a drain: its format and rounding code, where its values and scales start, its vectors, and the elements of
each (R227). -/
structure DrainWrite where
  fmt  : Nat
  rnd  : Nat
  base : Nat
  sc   : Nat
  vecs : Nat
  len  : Nat

/-- Bytes of one vector's values. -/
def DrainWrite.bytes (w : DrainWrite) : Nat := (w.len * codeBits w.fmt + 7) / 8

/-- Bytes of one vector's scales; none where the format takes none. -/
def DrainWrite.scales (w : DrainWrite) : Nat := if scaledCode w.fmt then (w.len + 31) / 32 else 0

/-- The areas of a write: values at strides of 256 bytes, scales at strides of 32, each as start and length. -/
def DrainWrite.areas (w : DrainWrite) : List (Nat × Nat) :=
  (w.base, 256 * (w.vecs - 1) + w.bytes) ::
    (if w.scales == 0 then [] else [(w.sc, 32 * (w.vecs - 1) + w.scales)])

/-- Elements of one vector converted (R227): values, scales, events. `ws` are the words of Step. -/
def drainVec (src : Nat) (w : DrainWrite) (cn : Nat) (xs : List Nat) (ws : List (BitVec 32)) :
    List Byte × List Byte × BitVec 6 :=
  let plain := List.zipWith (fun x r => convert src w.fmt x 0 (Rnd.ofCode w.rnd r) true cn) xs ws
  let (els, scs, ev) : List Nat × List Nat × BitVec 6 :=
    if 2 ≤ w.fmt && w.fmt ≤ 6 then
      let out := List.zipWith (scaledBlock src w.fmt w.rnd true cn) (blocksOf 2 xs) (blocksOf 2 ws)
      (out.flatMap (·.2.1), out.map (·.1), joinEv (out.map (·.2.2)))
    else (plain.map (·.bits), List.replicate w.scales 127, joinEv (plain.map (·.ev)))
  (natLe w.bytes (rowOfLanes (codeBits w.fmt) els), natLe w.scales (rowOfLanes 8 scs), ev)

/-- Bytes at an offset cut into writes of at most one 16-byte unit; `fuel` bounds them. -/
def unitWrites : Nat → Nat → List Byte → List (Nat × List Byte)
  | 0, _, _ => []
  | fuel + 1, off, bs => if bs.isEmpty then [] else (off, bs.take 16) :: unitWrites fuel (off + 16) (bs.drop 16)

/-- The vectors of one write in order: the writes to local memory, the events and the new SRSEED (R144, R228). -/
def drainVecs (src : Nat) (w : DrainWrite) (cn : Nat) (seed : BitVec 32) :
    Nat → List (List Nat) → List (Nat × List Byte) × BitVec 6 × BitVec 32
  | _, [] => ([], 0, seed)
  | i, xs :: rest =>
    let (ws, seed) := srWords w.rnd seed xs.length
    let (vals, scs, ev) := drainVec src w cn xs ws
    let (out, ev', seed) := drainVecs src w cn seed (i + 1) rest
    (unitWrites 16 (w.base + 256 * i) vals ++ unitWrites 2 (w.sc + 32 * i) scs ++ out, ev ||| ev', seed)

/-- A multiple of 32 (R228). -/
def drainAlign (v : Nat) : Except Stop Unit := need (v % 32 == 0) .align (BitVec.ofNat 64 v)

/-- Areas within local memory and the context's part of it (R228, R319). -/
def drainAreas (s : State) : List (Nat × Nat) → Except Stop Unit
  | [] => .ok ()
  | (lo, n) :: rest => do
    need (areaOk s lo n) .localRange (BitVec.ofNat 64 lo)
    drainAreas s rest

/-- The hull of areas. -/
def areasHull (l : List (Nat × Nat)) : Nat × Nat :=
  (l.foldl (fun m p => min m p.1) 65535, l.foldl (fun m p => max m (p.1 + p.2 - 1)) 0)

/-- A captured write in the pieces that one bank access each takes (R83). -/
def unitParts (w : Nat × List Byte) : List (Nat × List Byte) :=
  let (off, bs) := w
  (natRange (off / 16) ((off + bs.length + 15) / 16 - off / 16)).map (fun u =>
    let lo := Nat.max off (u * 16)
    (lo, (bs.drop (lo - off)).take (u * 16 + 16 - lo)))

/-- tdrain (R228): the checks in their order, the object's STATUS 0, the capture and the two conversions; the engine then
writes what was captured. -/
def execTdrain (d a b : SReg) (t : TileNo) (fmt1 fmt2 : Fin 16) (rnd1 rnd2 : Fin 8) (sc1 sc2 : BitVec 16) (s : State) :
    Host.Outcome State Fault Refusal :=
  finish s (do
    let two := fmt2.val != 15
    tileAllowed s t
    let obj ← readReg s d
    let ra ← readReg s a
    let rb ← if two then readReg s b else .ok 0
    need (obj.toNat % 8 == 0) .align obj
    need (areaOk s obj.toNat 8) .localRange obj
    drainAlign ra.toNat
    drainAlign rb.toNat
    drainAlign sc1.toNat
    drainAlign sc2.toNat
    let x := s.tile t
    let l := tyLanes x.ty
    let w1 : DrainWrite := ⟨fmt1.val, rnd1.val, ra.toNat, sc1.toNat, 16, l⟩
    let w2 : DrainWrite := ⟨fmt2.val, rnd2.val, rb.toNat, sc2.toNat, l, 16⟩
    let areas := w1.areas ++ (if two then w2.areas else [])
    drainAreas s areas
    waitTile s t
    engineRoom s true
    let s ← startObj s obj.toNat
    let rows := x.rows.toList.map (fun r => (List.range l).map (laneOf x.ty r.bits))
    let cols := (List.range l).map (fun i => rows.map (fun r => r.getD i 0))
    let (out1, ev1, seed) := drainVecs (tyCode x.ty) w1 s.cur.core s.ctx.srseed 0 rows
    let (out2, ev2, seed) := if two then drainVecs (tyCode x.ty) w2 s.cur.core seed 0 cols else ([], 0, seed)
    let s := s.modCtx (fun c => { c with srseed := seed, vflag := c.vflag ||| ev1 ||| ev2 })
    .ok ((enqueue s (.drain ((out1 ++ out2).flatMap unitParts)) obj.toNat (some (areasHull areas))).advance 3))

end Sys2Proof.Machine
end

