-- ==== Sys2Proof/Machine/Rings.lean ====
section
/-! DEFINITION. Ring instructions at issue (R105, R106). Their door steps stand in Sys2Proof/Machine/Door.lean, and the replies
in Sys2Proof/Machine/Arrive.lean. -/

namespace Sys2Proof.Machine

open Sys2Proof

/-- The descriptor and producer number of a handle of the right role; a wait for a qbind counts as one on its destination
(R105). -/
def ringHandle (s : State) (h : HandleNo) (prod : Bool) (w : Word) : Except Stop (Word × Nat) :=
  match s.ctx.handles[h] with
  | .binding d => .error (.stall (some d.val))
  | .consumer desc .. => if prod then .error (.trap .illegalOp w) else .ok (desc, 0)
  | .producer desc p .. => if prod then .ok (desc, p) else .error (.trap .illegalOp w)
  | .unbound => .error (.trap .illegalOp w)

/-- A ring instruction that names a handle waits while a qbind on it is under way (R105). -/
def handleReady (s : State) (h : HandleNo) : Except Stop Unit :=
  match s.ctx.handles[h] with
  | .binding d => .error (.stall (some d.val))
  | .unbound | .consumer .. | .producer .. => .ok ()

/-- A ring operation on a handle, in a role for qbind, is sent to the consumer's door. -/
def ringAccess (h : HandleNo) (role : Bool) (desc : Word) (dest : Dest) (acq rel serial : Bool) (op : DoorOp) : Access :=
  { doorAccess desc dest true true acq rel (.dat (peerOff desc) op) with
    serial := serial, mod_ := BitVec.ofNat 6 (h.val + if role then 8 else 0) }

/-- The handle of the issuing context. -/
def State.setHandle (s : State) (h : HandleNo) (x : Handle) : State :=
  s.modCtx (fun c => { c with handles := c.handles.set h x })

/-- The issue checks of qbind: PEER_DENIED, then ALIGN; a qbind that faults leaves the handle unbound (R105, R106). -/
def bindChecks (s : State) (pa : Word) (own : Bool) : Except Stop Unit := do
  need (peerOk s s.myLaunch pa && (!own || peerCore pa == s.cur.core)) .peerDenied pa
  need (peerOff pa % 32 == 0) .align pa

/-- A fault of a qbind at issue, with its handle unbound. -/
def bindFault (s : State) (h : HandleNo) (x : Except Stop Unit) (k : Act) : Act :=
  match x with
  | .ok _ => k
  | .error (.trap c v) => .ok (precise (s.setHandle h .unbound) c v)
  | .error e => .error e

/-- qbind, consumer: it completes before the next instruction issues, so the context waits at it for the reply (R106). -/
def execQbindC (h : HandleNo) (d a b : SReg) (s : State) : Host.Outcome State Fault Refusal :=
  finish s (do
    waitFor (!s.ctx.out.any (·.serial)) none
    handleReady s h
    let pa ← readReg s a
    let k ← readReg s b
    bindFault s h (bindChecks s pa true) (do
      destFree s d
      orderOk s true
      let s ← issueAccess s (ringAccess h false pa (.bindC (some d) h) false false true (.bindC (bitsOf k.toNat 0 4 + 1)))
      .error (.wait (s.setHandle h (.binding d)))))

/-- qbind, producer: split-phase (R106). -/
def execQbindP (h : HandleNo) (d a : SReg) (s : State) : Host.Outcome State Fault Refusal :=
  finish s (do
    handleReady s h
    let pa ← readReg s a
    bindFault s h (bindChecks s pa false) (do
      destFree s d
      orderOk s true
      let s ← issueAccess s (ringAccess h true pa (.bindP (some d) h) false false false .bindP)
      .ok (((s.clearReg d).setHandle h (.binding d)).advance 1)))

/-- A ring operation with a result in s_d. -/
def ringResult (h : HandleNo) (prod : Bool) (d : SReg) (acq rel : Bool) (op : Nat → Except Stop DoorOp) (w : Word)
    (s : State) : Act := do
  let (desc, p) ← ringHandle s h prod w
  let o ← op p
  destFree s d
  orderOk s true
  let s ← issueAccess s (ringAccess h false desc (.reg d .d) acq rel false o)
  .ok ((s.clearReg d).advance 1)

/-- A ring operation without a result. -/
def ringPlain (h : HandleNo) (prod : Bool) (op : Nat → DoorOp) (w : Word) (s : State) : Act := do
  let (desc, p) ← ringHandle s h prod w
  orderOk s true
  let s ← issueAccess s (ringAccess h false desc .none false false false (op p))
  .ok (s.advance 1)

/-- qwait (R106): its reply is an acquire. -/
def execQwait (h : HandleNo) (d : SReg) (s : State) : Host.Outcome State Fault Refusal :=
  finish s (ringResult h false d true false (fun _ => .ok .qwait) (firstWord (.qwait h d)) s)

/-- qadv (R106). -/
def execQadv (h : HandleNo) (s : State) : Host.Outcome State Fault Refusal :=
  finish s (ringPlain h false (fun _ => .qadv) (firstWord (.qadv h)) s)

/-- qres (R106). -/
def execQres (h : HandleNo) (d : SReg) (s : State) : Host.Outcome State Fault Refusal :=
  finish s (ringResult h true d false false (fun p => .ok (.qres p)) (firstWord (.qres h d)) s)

/-- qpub (R106): a release. -/
def execQpub (h : HandleNo) (d a : SReg) (s : State) : Host.Outcome State Fault Refusal :=
  finish s (ringResult h true d false true (fun p => do
    let v ← readReg s a
    .ok (.qpub p v)) (firstWord (.qpub h d a)) s)

/-- qeos (R106). -/
def execQeos (h : HandleNo) (s : State) : Host.Outcome State Fault Refusal :=
  finish s (ringPlain h true (fun p => .qeos p) (firstWord (.qeos h)) s)

end Sys2Proof.Machine
end

