-- ==== Sys2Proof/Machine/Scalar.lean ====
section
/-! DEFINITION. Scalar arithmetic (spec/05): the register operations of R112 and the immediates of R113..R116. None has
flags and none raises an arithmetic fault (R111). -/

namespace Sys2Proof.Machine

open Sys2Proof

/-! ### The functions of R112: x is the first operand, y the second -/

/-- add. -/
def aluAdd (x y : Word) : Word := x + y

/-- sub. -/
def aluSub (x y : Word) : Word := x - y

/-- mul. -/
def aluMul (x y : Word) : Word := x * y

/-- mulh: the upper half of the signed product. -/
def aluMulh (x y : Word) : Word := BitVec.ofInt 64 ((x.toInt * y.toInt) / 18446744073709551616)

/-- mulhu: the upper half of the unsigned product. -/
def aluMulhu (x y : Word) : Word := BitVec.ofNat 64 (x.toNat * y.toNat / 18446744073709551616)

/-- div: truncated; all ones for a zero divisor; the most negative number over −1 wraps to itself. -/
def aluDiv (x y : Word) : Word := if y == 0 then all1 else BitVec.ofInt 64 (x.toInt.tdiv y.toInt)

/-- divu. -/
def aluDivu (x y : Word) : Word := if y == 0 then all1 else BitVec.ofNat 64 (x.toNat / y.toNat)

/-- rem: the sign of x; x for a zero divisor. -/
def aluRem (x y : Word) : Word := if y == 0 then x else BitVec.ofInt 64 (x.toInt - y.toInt * x.toInt.tdiv y.toInt)

/-- remu. -/
def aluRemu (x y : Word) : Word := if y == 0 then x else BitVec.ofNat 64 (x.toNat % y.toNat)

/-- and. -/
def aluAnd (x y : Word) : Word := x &&& y

/-- or. -/
def aluOr (x y : Word) : Word := x ||| y

/-- xor. -/
def aluXor (x y : Word) : Word := x ^^^ y

/-- shl: the whole of y counts. -/
def aluShl (x y : Word) : Word := if 64 ≤ y.toNat then 0 else x <<< y.toNat

/-- shr. -/
def aluShr (x y : Word) : Word := if 64 ≤ y.toNat then 0 else x >>> y.toNat

/-- sra: at most 63. -/
def aluSra (x y : Word) : Word := x.sshiftRight (Nat.min y.toNat 63)

/-- min, signed. -/
def aluMin (x y : Word) : Word := if x.toInt ≤ y.toInt then x else y

/-- max, signed. -/
def aluMax (x y : Word) : Word := if y.toInt ≤ x.toInt then x else y

/-- minu. -/
def aluMinu (x y : Word) : Word := if x.toNat ≤ y.toNat then x else y

/-- maxu. -/
def aluMaxu (x y : Word) : Word := if y.toNat ≤ x.toNat then x else y

/-- A truth value as a word. -/
def boolWord (b : Bool) : Word := if b then 1 else 0

/-- cmpeq. -/
def aluCmpeq (x y : Word) : Word := boolWord (x == y)

/-- cmplt, signed. -/
def aluCmplt (x y : Word) : Word := boolWord (x.toInt < y.toInt)

/-- cmpltu. -/
def aluCmpltu (x y : Word) : Word := boolWord (x.toNat < y.toNat)

/-- clz. -/
def aluClz (x : Word) : Word := if x == 0 then 64 else BitVec.ofNat 64 (63 - Nat.log2 x.toNat)

/-- popc. -/
def aluPopc (x : Word) : Word := BitVec.ofNat 64 (popc 64 x.toNat)

/-- bext: w bits of x from position p (R115). -/
def bitExt (x : Word) (p w : Nat) : Word := BitVec.ofNat 64 (bitsOf x.toNat p w)

/-- bins: bits [p + w − 1 : p] of old replaced by the low w bits of x (R115). -/
def bitIns (old x : Word) (p w : Nat) : Word := BitVec.ofNat 64 (putBits old.toNat p w x.toNat)

/-! ### Shapes: sources are read, then the destination is waited for and written (R109) -/

/-- A result of two registers. -/
def regReg (f : Word → Word → Word) (d a b : SReg) (s : State) : Act := do
  let x ← readReg s a
  let y ← readReg s b
  destFree s d
  .ok ((s.setReg d (f x y)).advance 1)

/-- A result of a register and a value in the instruction of `len` words. -/
def regVal (f : Word → Word → Word) (d a : SReg) (k : Word) (len : Nat) (s : State) : Act := do
  let x ← readReg s a
  destFree s d
  .ok ((s.setReg d (f x k)).advance len)

/-- A result that reads no register. -/
def regSet (d : SReg) (v : Word) (len : Nat) (s : State) : Act := do
  destFree s d
  .ok ((s.setReg d v).advance len)

/-! ### Register operations (R112) -/

/-- add (R112). -/
def execAdd (d a b : SReg) (s : State) : Host.Outcome State Fault Refusal := finish s (regReg aluAdd d a b s)

/-- add, literal form (R112, R24). -/
def execAddLit (d a : SReg) (lit : Word) (s : State) : Host.Outcome State Fault Refusal :=
  finish s (regVal aluAdd d a lit 3 s)

/-- sub (R112). -/
def execSub (d a b : SReg) (s : State) : Host.Outcome State Fault Refusal := finish s (regReg aluSub d a b s)

/-- sub, literal form (R112, R24). -/
def execSubLit (d a : SReg) (lit : Word) (s : State) : Host.Outcome State Fault Refusal :=
  finish s (regVal aluSub d a lit 3 s)

/-- mul (R112). -/
def execMul (d a b : SReg) (s : State) : Host.Outcome State Fault Refusal := finish s (regReg aluMul d a b s)

/-- mul, literal form (R112, R24). -/
def execMulLit (d a : SReg) (lit : Word) (s : State) : Host.Outcome State Fault Refusal :=
  finish s (regVal aluMul d a lit 3 s)

/-- mulh (R112). -/
def execMulh (d a b : SReg) (s : State) : Host.Outcome State Fault Refusal := finish s (regReg aluMulh d a b s)

/-- mulh, literal form (R112, R24). -/
def execMulhLit (d a : SReg) (lit : Word) (s : State) : Host.Outcome State Fault Refusal :=
  finish s (regVal aluMulh d a lit 3 s)

/-- mulhu (R112). -/
def execMulhu (d a b : SReg) (s : State) : Host.Outcome State Fault Refusal := finish s (regReg aluMulhu d a b s)

/-- mulhu, literal form (R112, R24). -/
def execMulhuLit (d a : SReg) (lit : Word) (s : State) : Host.Outcome State Fault Refusal :=
  finish s (regVal aluMulhu d a lit 3 s)

/-- div (R112). -/
def execDiv (d a b : SReg) (s : State) : Host.Outcome State Fault Refusal := finish s (regReg aluDiv d a b s)

/-- div, literal form (R112, R24). -/
def execDivLit (d a : SReg) (lit : Word) (s : State) : Host.Outcome State Fault Refusal :=
  finish s (regVal aluDiv d a lit 3 s)

/-- divu (R112). -/
def execDivu (d a b : SReg) (s : State) : Host.Outcome State Fault Refusal := finish s (regReg aluDivu d a b s)

/-- divu, literal form (R112, R24). -/
def execDivuLit (d a : SReg) (lit : Word) (s : State) : Host.Outcome State Fault Refusal :=
  finish s (regVal aluDivu d a lit 3 s)

/-- rem (R112). -/
def execRem (d a b : SReg) (s : State) : Host.Outcome State Fault Refusal := finish s (regReg aluRem d a b s)

/-- rem, literal form (R112, R24). -/
def execRemLit (d a : SReg) (lit : Word) (s : State) : Host.Outcome State Fault Refusal :=
  finish s (regVal aluRem d a lit 3 s)

/-- remu (R112). -/
def execRemu (d a b : SReg) (s : State) : Host.Outcome State Fault Refusal := finish s (regReg aluRemu d a b s)

/-- remu, literal form (R112, R24). -/
def execRemuLit (d a : SReg) (lit : Word) (s : State) : Host.Outcome State Fault Refusal :=
  finish s (regVal aluRemu d a lit 3 s)

/-- and (R112). -/
def execAnd (d a b : SReg) (s : State) : Host.Outcome State Fault Refusal := finish s (regReg aluAnd d a b s)

/-- and, literal form (R112, R24). -/
def execAndLit (d a : SReg) (lit : Word) (s : State) : Host.Outcome State Fault Refusal :=
  finish s (regVal aluAnd d a lit 3 s)

/-- or (R112). -/
def execOr (d a b : SReg) (s : State) : Host.Outcome State Fault Refusal := finish s (regReg aluOr d a b s)

/-- or, literal form (R112, R24). -/
def execOrLit (d a : SReg) (lit : Word) (s : State) : Host.Outcome State Fault Refusal :=
  finish s (regVal aluOr d a lit 3 s)

/-- xor (R112). -/
def execXor (d a b : SReg) (s : State) : Host.Outcome State Fault Refusal := finish s (regReg aluXor d a b s)

/-- xor, literal form (R112, R24). -/
def execXorLit (d a : SReg) (lit : Word) (s : State) : Host.Outcome State Fault Refusal :=
  finish s (regVal aluXor d a lit 3 s)

/-- shl (R112). -/
def execShl (d a b : SReg) (s : State) : Host.Outcome State Fault Refusal := finish s (regReg aluShl d a b s)

/-- shl, literal form (R112, R24). -/
def execShlLit (d a : SReg) (lit : Word) (s : State) : Host.Outcome State Fault Refusal :=
  finish s (regVal aluShl d a lit 3 s)

/-- shr (R112). -/
def execShr (d a b : SReg) (s : State) : Host.Outcome State Fault Refusal := finish s (regReg aluShr d a b s)

/-- shr, literal form (R112, R24). -/
def execShrLit (d a : SReg) (lit : Word) (s : State) : Host.Outcome State Fault Refusal :=
  finish s (regVal aluShr d a lit 3 s)

/-- sra (R112). -/
def execSra (d a b : SReg) (s : State) : Host.Outcome State Fault Refusal := finish s (regReg aluSra d a b s)

/-- sra, literal form (R112, R24). -/
def execSraLit (d a : SReg) (lit : Word) (s : State) : Host.Outcome State Fault Refusal :=
  finish s (regVal aluSra d a lit 3 s)

/-- min (R112). -/
def execMin (d a b : SReg) (s : State) : Host.Outcome State Fault Refusal := finish s (regReg aluMin d a b s)

/-- min, literal form (R112, R24). -/
def execMinLit (d a : SReg) (lit : Word) (s : State) : Host.Outcome State Fault Refusal :=
  finish s (regVal aluMin d a lit 3 s)

/-- max (R112). -/
def execMax (d a b : SReg) (s : State) : Host.Outcome State Fault Refusal := finish s (regReg aluMax d a b s)

/-- max, literal form (R112, R24). -/
def execMaxLit (d a : SReg) (lit : Word) (s : State) : Host.Outcome State Fault Refusal :=
  finish s (regVal aluMax d a lit 3 s)

/-- minu (R112). -/
def execMinu (d a b : SReg) (s : State) : Host.Outcome State Fault Refusal := finish s (regReg aluMinu d a b s)

/-- minu, literal form (R112, R24). -/
def execMinuLit (d a : SReg) (lit : Word) (s : State) : Host.Outcome State Fault Refusal :=
  finish s (regVal aluMinu d a lit 3 s)

/-- maxu (R112). -/
def execMaxu (d a b : SReg) (s : State) : Host.Outcome State Fault Refusal := finish s (regReg aluMaxu d a b s)

/-- maxu, literal form (R112, R24). -/
def execMaxuLit (d a : SReg) (lit : Word) (s : State) : Host.Outcome State Fault Refusal :=
  finish s (regVal aluMaxu d a lit 3 s)

/-- cmpeq (R112). -/
def execCmpeq (d a b : SReg) (s : State) : Host.Outcome State Fault Refusal := finish s (regReg aluCmpeq d a b s)

/-- cmpeq, literal form (R112, R24). -/
def execCmpeqLit (d a : SReg) (lit : Word) (s : State) : Host.Outcome State Fault Refusal :=
  finish s (regVal aluCmpeq d a lit 3 s)

/-- cmplt (R112). -/
def execCmplt (d a b : SReg) (s : State) : Host.Outcome State Fault Refusal := finish s (regReg aluCmplt d a b s)

/-- cmplt, literal form (R112, R24). -/
def execCmpltLit (d a : SReg) (lit : Word) (s : State) : Host.Outcome State Fault Refusal :=
  finish s (regVal aluCmplt d a lit 3 s)

/-- cmpltu (R112). -/
def execCmpltu (d a b : SReg) (s : State) : Host.Outcome State Fault Refusal := finish s (regReg aluCmpltu d a b s)

/-- cmpltu, literal form (R112, R24). -/
def execCmpltuLit (d a : SReg) (lit : Word) (s : State) : Host.Outcome State Fault Refusal :=
  finish s (regVal aluCmpltu d a lit 3 s)

/-- clz (R112). -/
def execClz (d a : SReg) (s : State) : Host.Outcome State Fault Refusal :=
  finish s (regVal (fun x _ => aluClz x) d a 0 1 s)

/-- popc (R112). -/
def execPopc (d a : SReg) (s : State) : Host.Outcome State Fault Refusal :=
  finish s (regVal (fun x _ => aluPopc x) d a 0 1 s)

/-- sel (R112): s_c chooses. -/
def execSel (d a b c : SReg) (s : State) : Host.Outcome State Fault Refusal :=
  finish s (do
    let x ← readReg s a
    let y ← readReg s b
    let k ← readReg s c
    destFree s d
    .ok ((s.setReg d (if k != 0 then x else y)).advance 1))

/-- sel, literal form (R112, R24). -/
def execSelLit (d a c : SReg) (lit : Word) (s : State) : Host.Outcome State Fault Refusal :=
  finish s (do
    let x ← readReg s a
    let k ← readReg s c
    destFree s d
    .ok ((s.setReg d (if k != 0 then x else lit)).advance 3))

/-! ### Immediates (R113) -/

/-- addi: the immediate is sign-extended (R113). -/
def execAddi (d a : SReg) (i : BitVec 16) (s : State) : Host.Outcome State Fault Refusal :=
  finish s (regVal aluAdd d a (i.signExtend 64) 1 s)

/-- addi, literal form (R113, R24). -/
def execAddiLit (d a : SReg) (lit : Word) (s : State) : Host.Outcome State Fault Refusal :=
  finish s (regVal aluAdd d a lit 3 s)

/-- andi: the immediate is sign-extended (R113). -/
def execAndi (d a : SReg) (i : BitVec 16) (s : State) : Host.Outcome State Fault Refusal :=
  finish s (regVal aluAnd d a (i.signExtend 64) 1 s)

/-- andi, literal form (R113, R24). -/
def execAndiLit (d a : SReg) (lit : Word) (s : State) : Host.Outcome State Fault Refusal :=
  finish s (regVal aluAnd d a lit 3 s)

/-- ori: the immediate is sign-extended (R113). -/
def execOri (d a : SReg) (i : BitVec 16) (s : State) : Host.Outcome State Fault Refusal :=
  finish s (regVal aluOr d a (i.signExtend 64) 1 s)

/-- ori, literal form (R113, R24). -/
def execOriLit (d a : SReg) (lit : Word) (s : State) : Host.Outcome State Fault Refusal :=
  finish s (regVal aluOr d a lit 3 s)

/-- xori: the immediate is sign-extended (R113). -/
def execXori (d a : SReg) (i : BitVec 16) (s : State) : Host.Outcome State Fault Refusal :=
  finish s (regVal aluXor d a (i.signExtend 64) 1 s)

/-- xori, literal form (R113, R24). -/
def execXoriLit (d a : SReg) (lit : Word) (s : State) : Host.Outcome State Fault Refusal :=
  finish s (regVal aluXor d a lit 3 s)

/-- li (R113). -/
def execLi (d : SReg) (i : BitVec 16) (s : State) : Host.Outcome State Fault Refusal :=
  finish s (regSet d (i.signExtend 64) 1 s)

/-- li, literal form (R113, R24). -/
def execLiLit (d : SReg) (lit : Word) (s : State) : Host.Outcome State Fault Refusal := finish s (regSet d lit 3 s)

/-! ### Shifts by a constant, bit fields, lea (R114..R116) -/

/-- shli (R114). -/
def execShli (d a : SReg) (n : Fin 64) (s : State) : Host.Outcome State Fault Refusal :=
  finish s (regVal aluShl d a (BitVec.ofNat 64 n.val) 1 s)

/-- shri (R114). -/
def execShri (d a : SReg) (n : Fin 64) (s : State) : Host.Outcome State Fault Refusal :=
  finish s (regVal aluShr d a (BitVec.ofNat 64 n.val) 1 s)

/-- srai (R114). -/
def execSrai (d a : SReg) (n : Fin 64) (s : State) : Host.Outcome State Fault Refusal :=
  finish s (regVal aluSra d a (BitVec.ofNat 64 n.val) 1 s)

/-- bext (R115); the width field holds width − 1. -/
def execBext (d a : SReg) (p w : Fin 64) (s : State) : Host.Outcome State Fault Refusal :=
  finish s (regVal (fun x _ => bitExt x p.val (w.val + 1)) d a 0 1 s)

/-- bins (R115): the destination is a source too. -/
def execBins (d a : SReg) (p w : Fin 64) (s : State) : Host.Outcome State Fault Refusal :=
  finish s (regReg (fun x old => bitIns old x p.val (w.val + 1)) d a d s)

/-- lea: the line's address plus the immediate; no access and no check (R116). -/
def execLea (d : SReg) (i : BitVec 16) (s : State) : Host.Outcome State Fault Refusal :=
  finish s (regSet d (lineAddr s.ctx.pc + i.signExtend 64) 1 s)

/-- lea, literal form (R116, R24). -/
def execLeaLit (d : SReg) (lit : Word) (s : State) : Host.Outcome State Fault Refusal := finish s (regSet d lit 3 s)

end Sys2Proof.Machine
end

