-- ==== Sys2Proof/Machine/Dispatch.lean ====
section
/-! DEFINITION. The dispatch: one arm per constructor of `Instr`, each one direct call of that row's meaning. -/

namespace Sys2Proof.Machine

open Sys2Proof

/-- One step of the table, in a state where it is due. -/
def exec (i : Instr) (s : State) : Host.Outcome State Fault Refusal :=
  match i with
  | .add d a b => Sys2Proof.Machine.execAdd d a b s
  | .addLit d a lit => Sys2Proof.Machine.execAddLit d a lit s
  | .sub d a b => Sys2Proof.Machine.execSub d a b s
  | .subLit d a lit => Sys2Proof.Machine.execSubLit d a lit s
  | .mul d a b => Sys2Proof.Machine.execMul d a b s
  | .mulLit d a lit => Sys2Proof.Machine.execMulLit d a lit s
  | .mulh d a b => Sys2Proof.Machine.execMulh d a b s
  | .mulhLit d a lit => Sys2Proof.Machine.execMulhLit d a lit s
  | .mulhu d a b => Sys2Proof.Machine.execMulhu d a b s
  | .mulhuLit d a lit => Sys2Proof.Machine.execMulhuLit d a lit s
  | .div d a b => Sys2Proof.Machine.execDiv d a b s
  | .divLit d a lit => Sys2Proof.Machine.execDivLit d a lit s
  | .divu d a b => Sys2Proof.Machine.execDivu d a b s
  | .divuLit d a lit => Sys2Proof.Machine.execDivuLit d a lit s
  | .rem d a b => Sys2Proof.Machine.execRem d a b s
  | .remLit d a lit => Sys2Proof.Machine.execRemLit d a lit s
  | .remu d a b => Sys2Proof.Machine.execRemu d a b s
  | .remuLit d a lit => Sys2Proof.Machine.execRemuLit d a lit s
  | .and d a b => Sys2Proof.Machine.execAnd d a b s
  | .andLit d a lit => Sys2Proof.Machine.execAndLit d a lit s
  | .or d a b => Sys2Proof.Machine.execOr d a b s
  | .orLit d a lit => Sys2Proof.Machine.execOrLit d a lit s
  | .xor d a b => Sys2Proof.Machine.execXor d a b s
  | .xorLit d a lit => Sys2Proof.Machine.execXorLit d a lit s
  | .shl d a b => Sys2Proof.Machine.execShl d a b s
  | .shlLit d a lit => Sys2Proof.Machine.execShlLit d a lit s
  | .shr d a b => Sys2Proof.Machine.execShr d a b s
  | .shrLit d a lit => Sys2Proof.Machine.execShrLit d a lit s
  | .sra d a b => Sys2Proof.Machine.execSra d a b s
  | .sraLit d a lit => Sys2Proof.Machine.execSraLit d a lit s
  | .min d a b => Sys2Proof.Machine.execMin d a b s
  | .minLit d a lit => Sys2Proof.Machine.execMinLit d a lit s
  | .max d a b => Sys2Proof.Machine.execMax d a b s
  | .maxLit d a lit => Sys2Proof.Machine.execMaxLit d a lit s
  | .minu d a b => Sys2Proof.Machine.execMinu d a b s
  | .minuLit d a lit => Sys2Proof.Machine.execMinuLit d a lit s
  | .maxu d a b => Sys2Proof.Machine.execMaxu d a b s
  | .maxuLit d a lit => Sys2Proof.Machine.execMaxuLit d a lit s
  | .cmpeq d a b => Sys2Proof.Machine.execCmpeq d a b s
  | .cmpeqLit d a lit => Sys2Proof.Machine.execCmpeqLit d a lit s
  | .cmplt d a b => Sys2Proof.Machine.execCmplt d a b s
  | .cmpltLit d a lit => Sys2Proof.Machine.execCmpltLit d a lit s
  | .cmpltu d a b => Sys2Proof.Machine.execCmpltu d a b s
  | .cmpltuLit d a lit => Sys2Proof.Machine.execCmpltuLit d a lit s
  | .clz d a => Sys2Proof.Machine.execClz d a s
  | .popc d a => Sys2Proof.Machine.execPopc d a s
  | .sel d a b c => Sys2Proof.Machine.execSel d a b c s
  | .selLit d a c lit => Sys2Proof.Machine.execSelLit d a c lit s
  | .addi d a imm => Sys2Proof.Machine.execAddi d a imm s
  | .addiLit d a lit => Sys2Proof.Machine.execAddiLit d a lit s
  | .andi d a imm => Sys2Proof.Machine.execAndi d a imm s
  | .andiLit d a lit => Sys2Proof.Machine.execAndiLit d a lit s
  | .ori d a imm => Sys2Proof.Machine.execOri d a imm s
  | .oriLit d a lit => Sys2Proof.Machine.execOriLit d a lit s
  | .xori d a imm => Sys2Proof.Machine.execXori d a imm s
  | .xoriLit d a lit => Sys2Proof.Machine.execXoriLit d a lit s
  | .li d imm => Sys2Proof.Machine.execLi d imm s
  | .liLit d lit => Sys2Proof.Machine.execLiLit d lit s
  | .shli d a n => Sys2Proof.Machine.execShli d a n s
  | .shri d a n => Sys2Proof.Machine.execShri d a n s
  | .srai d a n => Sys2Proof.Machine.execSrai d a n s
  | .bext d a p w => Sys2Proof.Machine.execBext d a p w s
  | .bins d a p w => Sys2Proof.Machine.execBins d a p w s
  | .lea d imm => Sys2Proof.Machine.execLea d imm s
  | .leaLit d lit => Sys2Proof.Machine.execLeaLit d lit s
  | .b delta w => Sys2Proof.Machine.execB delta w s
  | .bLit t => Sys2Proof.Machine.execBLit t s
  | .bc c a b delta w => Sys2Proof.Machine.execBc c a b delta w s
  | .bcLit c a b t => Sys2Proof.Machine.execBcLit c a b t s
  | .call l delta w => Sys2Proof.Machine.execCall l delta w s
  | .callLit l t => Sys2Proof.Machine.execCallLit l t s
  | .callr d a => Sys2Proof.Machine.execCallr d a s
  | .ret a => Sys2Proof.Machine.execRet a s
  | .done => Sys2Proof.Machine.execDone s
  | .cont a delta w => Sys2Proof.Machine.execCont a delta w s
  | .contLit a t => Sys2Proof.Machine.execContLit a t s
  | .nput a r => Sys2Proof.Machine.execNput a r s
  | .nget d r => Sys2Proof.Machine.execNget d r s
  | .send d a b n => Sys2Proof.Machine.execSend d a b n s
  | .sendLit d a n lit => Sys2Proof.Machine.execSendLit d a n lit s
  | .ldl d a sz off => Sys2Proof.Machine.execLdl d a sz off s
  | .stl d a sz off => Sys2Proof.Machine.execStl d a sz off s
  | .ldlV v a n => Sys2Proof.Machine.execLdlV v a n s
  | .ldlVLit v a lit => Sys2Proof.Machine.execLdlVLit v a lit s
  | .stlV v a n => Sys2Proof.Machine.execStlV v a n s
  | .stlVLit v a lit => Sys2Proof.Machine.execStlVLit v a lit s
  | .ldp d a b sz => Sys2Proof.Machine.execLdp d a b sz s
  | .ldpLit d a sz lit => Sys2Proof.Machine.execLdpLit d a sz lit s
  | .stp d a b sz => Sys2Proof.Machine.execStp d a b sz s
  | .stpLit d a sz lit => Sys2Proof.Machine.execStpLit d a sz lit s
  | .stpN d a b k => Sys2Proof.Machine.execStpN d a b k s
  | .stpNLit d a k lit => Sys2Proof.Machine.execStpNLit d a k lit s
  | .amol o dbl r d a b => Sys2Proof.Machine.execAmol o dbl r d a b s
  | .amolLit o dbl r d a lit => Sys2Proof.Machine.execAmolLit o dbl r d a lit s
  | .qbindC h d a b => Sys2Proof.Machine.execQbindC h d a b s
  | .qbindP h d a => Sys2Proof.Machine.execQbindP h d a s
  | .qwait h d => Sys2Proof.Machine.execQwait h d s
  | .qadv h => Sys2Proof.Machine.execQadv h s
  | .qres h d => Sys2Proof.Machine.execQres h d s
  | .qpub h d a => Sys2Proof.Machine.execQpub h d a s
  | .qeos h => Sys2Proof.Machine.execQeos h s
  | .cpy d a b src dst => Sys2Proof.Machine.execCpy d a b src dst s
  | .cpyBar d a b src dst bhome boff => Sys2Proof.Machine.execCpyBar d a b src dst bhome boff s
  | .cgat d a b src dst idx => Sys2Proof.Machine.execCgat d a b src dst idx s
  | .cscat d a b src dst idx => Sys2Proof.Machine.execCscat d a b src dst idx s
  | .cwait d a => Sys2Proof.Machine.execCwait d a s
  | .cpoll d a => Sys2Proof.Machine.execCpoll d a s
  | .ldg d a sz off => Sys2Proof.Machine.execLdg d a sz off s
  | .stg d a sz off => Sys2Proof.Machine.execStg d a sz off s
  | .ldgV v a n => Sys2Proof.Machine.execLdgV v a n s
  | .ldgVLit v a lit => Sys2Proof.Machine.execLdgVLit v a lit s
  | .stgV v a n => Sys2Proof.Machine.execStgV v a n s
  | .stgVLit v a lit => Sys2Proof.Machine.execStgVLit v a lit s
  | .gred v a n => Sys2Proof.Machine.execGred v a n s
  | .gredLit v a lit => Sys2Proof.Machine.execGredLit v a lit s
  | .amo o dbl r d a b => Sys2Proof.Machine.execAmo o dbl r d a b s
  | .amoLit o dbl r d a lit => Sys2Proof.Machine.execAmoLit o dbl r d a lit s
  | .pref a b => Sys2Proof.Machine.execPref a b s
  | .prefLit a lit => Sys2Proof.Machine.execPrefLit a lit s
  | .rset d a gen fmt r sp tr uses ncol1 => Sys2Proof.Machine.execRset d a gen fmt r sp tr uses ncol1 s
  | .rfeed d a b gen fmt r kb t row0 m1 => Sys2Proof.Machine.execRfeed d a b gen fmt r kb t row0 m1 s
  | .tarm d wide kbn1 t row0 m1 ovw => Sys2Proof.Machine.execTarm d wide kbn1 t row0 m1 ovw s
  | .rstat d r => Sys2Proof.Machine.execRstat d r s
  | .rcancel r => Sys2Proof.Machine.execRcancel r s
  | .rcancelArm t => Sys2Proof.Machine.execRcancelArm t s
  | .pload d a b r => Sys2Proof.Machine.execPload d a b r s
  | .pnnz d a r => Sys2Proof.Machine.execPnnz d a r s
  | .tcfg t ty dnz => Sys2Proof.Machine.execTcfg t ty dnz s
  | .tzero t => Sys2Proof.Machine.execTzero t s
  | .tdrain d a b t fmt1 fmt2 rnd1 rnd2 sc1 sc2 => Sys2Proof.Machine.execTdrain d a b t fmt1 fmt2 rnd1 rnd2 sc1 sc2 s
  | .vadd v a n => Sys2Proof.Machine.execVadd v a n s
  | .vaddLit v a lit => Sys2Proof.Machine.execVaddLit v a lit s
  | .vsub v a n => Sys2Proof.Machine.execVsub v a n s
  | .vsubLit v a lit => Sys2Proof.Machine.execVsubLit v a lit s
  | .vmul v a n => Sys2Proof.Machine.execVmul v a n s
  | .vmulLit v a lit => Sys2Proof.Machine.execVmulLit v a lit s
  | .vfma v a n => Sys2Proof.Machine.execVfma v a n s
  | .vfmaLit v a lit => Sys2Proof.Machine.execVfmaLit v a lit s
  | .vmin v a n => Sys2Proof.Machine.execVmin v a n s
  | .vminLit v a lit => Sys2Proof.Machine.execVminLit v a lit s
  | .vmax v a n => Sys2Proof.Machine.execVmax v a n s
  | .vmaxLit v a lit => Sys2Proof.Machine.execVmaxLit v a lit s
  | .vabs v a => Sys2Proof.Machine.execVabs v a s
  | .vneg v a => Sys2Proof.Machine.execVneg v a s
  | .vand v a n => Sys2Proof.Machine.execVand v a n s
  | .vandLit v a lit => Sys2Proof.Machine.execVandLit v a lit s
  | .vor v a n => Sys2Proof.Machine.execVor v a n s
  | .vorLit v a lit => Sys2Proof.Machine.execVorLit v a lit s
  | .vxor v a n => Sys2Proof.Machine.execVxor v a n s
  | .vxorLit v a lit => Sys2Proof.Machine.execVxorLit v a lit s
  | .vshl v a n => Sys2Proof.Machine.execVshl v a n s
  | .vshlLit v a lit => Sys2Proof.Machine.execVshlLit v a lit s
  | .vshr v a n => Sys2Proof.Machine.execVshr v a n s
  | .vshrLit v a lit => Sys2Proof.Machine.execVshrLit v a lit s
  | .vmov v n => Sys2Proof.Machine.execVmov v n s
  | .vmovLit v lit => Sys2Proof.Machine.execVmovLit v lit s
  | .vsel v a n => Sys2Proof.Machine.execVsel v a n s
  | .vselLit v a lit => Sys2Proof.Machine.execVselLit v a lit s
  | .vshuf v a n => Sys2Proof.Machine.execVshuf v a n s
  | .vshufLit v a lit => Sys2Proof.Machine.execVshufLit v a lit s
  | .vcmpEq v a n => Sys2Proof.Machine.execVcmpEq v a n s
  | .vcmpEqLit v a lit => Sys2Proof.Machine.execVcmpEqLit v a lit s
  | .vcmpNe v a n => Sys2Proof.Machine.execVcmpNe v a n s
  | .vcmpNeLit v a lit => Sys2Proof.Machine.execVcmpNeLit v a lit s
  | .vcmpLt v a n => Sys2Proof.Machine.execVcmpLt v a n s
  | .vcmpLtLit v a lit => Sys2Proof.Machine.execVcmpLtLit v a lit s
  | .vcmpLe v a n => Sys2Proof.Machine.execVcmpLe v a n s
  | .vcmpLeLit v a lit => Sys2Proof.Machine.execVcmpLeLit v a lit s
  | .vcmpGt v a n => Sys2Proof.Machine.execVcmpGt v a n s
  | .vcmpGtLit v a lit => Sys2Proof.Machine.execVcmpGtLit v a lit s
  | .vcmpGe v a n => Sys2Proof.Machine.execVcmpGe v a n s
  | .vcmpGeLit v a lit => Sys2Proof.Machine.execVcmpGeLit v a lit s
  | .vcmpUn v a n => Sys2Proof.Machine.execVcmpUn v a n s
  | .vcmpUnLit v a lit => Sys2Proof.Machine.execVcmpUnLit v a lit s
  | .vredAdd v a => Sys2Proof.Machine.execVredAdd v a s
  | .vredMin v a => Sys2Proof.Machine.execVredMin v a s
  | .vredMax v a => Sys2Proof.Machine.execVredMax v a s
  | .vsplat v a => Sys2Proof.Machine.execVsplat v a s
  | .vext d a l => Sys2Proof.Machine.execVext d a l s
  | .vins v a l => Sys2Proof.Machine.execVins v a l s
  | .vnnz d a e => Sys2Proof.Machine.execVnnz d a e s
  | .vcvt v a part tfmt sfmt rnd sat => Sys2Proof.Machine.execVcvt v a part tfmt sfmt rnd sat s
  | .vq v a n tfmt sfmt rnd sat => Sys2Proof.Machine.execVq v a n tfmt sfmt rnd sat s
  | .vscale v a n fmt rnd sat => Sys2Proof.Machine.execVscale v a n fmt rnd sat s
  | .vcord v a f n => Sys2Proof.Machine.execVcord v a f n s
  | .sopen d a sh count1 h p => Sys2Proof.Machine.execSopen d a sh count1 h p s
  | .ssend d a b p => Sys2Proof.Machine.execSsend d a b p s
  | .sclose p => Sys2Proof.Machine.execSclose p s
  | .bred o t d a b => Sys2Proof.Machine.execBred o t d a b s
  | .bbar d b => Sys2Proof.Machine.execBbar d b s
  | .bjoin d a => Sys2Proof.Machine.execBjoin d a s
  | .barv d a b => Sys2Proof.Machine.execBarv d a b s
  | .barvLit d a lit => Sys2Proof.Machine.execBarvLit d a lit s
  | .bdrop d a b => Sys2Proof.Machine.execBdrop d a b s
  | .bdropLit d a lit => Sys2Proof.Machine.execBdropLit d a lit s
  | .bexp a b => Sys2Proof.Machine.execBexp a b s
  | .bexpLit a lit => Sys2Proof.Machine.execBexpLit a lit s
  | .bwait d a b => Sys2Proof.Machine.execBwait d a b s
  | .bwaitLit d a lit => Sys2Proof.Machine.execBwaitLit d a lit s
  | .binit a b => Sys2Proof.Machine.execBinit a b s
  | .binitLit a lit => Sys2Proof.Machine.execBinitLit a lit s
  | .spawn d a b => Sys2Proof.Machine.execSpawn d a b s
  | .spawnLit d a lit => Sys2Proof.Machine.execSpawnLit d a lit s
  | .spawnPark d a b => Sys2Proof.Machine.execSpawnPark d a b s
  | .spawnParkLit d a lit => Sys2Proof.Machine.execSpawnParkLit d a lit s
  | .join d a => Sys2Proof.Machine.execJoin d a s
  | .await d a b => Sys2Proof.Machine.execAwait d a b s
  | .awaitLit d a lit => Sys2Proof.Machine.execAwaitLit d a lit s
  | .migrate d a b => Sys2Proof.Machine.execMigrate d a b s
  | .migrateLit d a lit => Sys2Proof.Machine.execMigrateLit d a lit s
  | .yield d => Sys2Proof.Machine.execYield d s
  | .whlAt d a b => Sys2Proof.Machine.execWhlAt d a b s
  | .whlAtLit d a lit => Sys2Proof.Machine.execWhlAtLit d a lit s
  | .launch d a b cls => Sys2Proof.Machine.execLaunch d a b cls s
  | .lend a => Sys2Proof.Machine.execLend a s
  | .reclaim => Sys2Proof.Machine.execReclaim s
  | .hvon => Sys2Proof.Machine.execHvon s
  | .hvoff => Sys2Proof.Machine.execHvoff s
  | .trap code => Sys2Proof.Machine.execTrap code s
  | .rte d => Sys2Proof.Machine.execRte d s
  | .rteAt d a => Sys2Proof.Machine.execRteAt d a s
  | .csrr d n => Sys2Proof.Machine.execCsrr d n s
  | .csrw n a => Sys2Proof.Machine.execCsrw n a s
  | .tlbi all sc a b => Sys2Proof.Machine.execTlbi all sc a b s
  | .tlbv all sc b => Sys2Proof.Machine.execTlbv all sc b s
  | .halt => Sys2Proof.Machine.execHalt s
  | .svc d a n => Sys2Proof.Machine.execSvc d a n s
  | .fence o sc => Sys2Proof.Machine.execFence o sc s
  | .srseedWrite a => Sys2Proof.Machine.execSrseedWrite a s
  | .rdvtoWrite a => Sys2Proof.Machine.execRdvtoWrite a s
  | .hvctlWrite a => Sys2Proof.Machine.execHvctlWrite a s
  | .ebudWrite a => Sys2Proof.Machine.execEbudWrite a s
  | .pwrstatWrite a => Sys2Proof.Machine.execPwrstatWrite a s
  | .pstepWrite a => Sys2Proof.Machine.execPstepWrite a s
  | .rampWrite a => Sys2Proof.Machine.execRampWrite a s
  | .fabmodeWrite a => Sys2Proof.Machine.execFabmodeWrite a s
  | .bconfWrite a => Sys2Proof.Machine.execBconfWrite a s
  | .trimcWrite a => Sys2Proof.Machine.execTrimcWrite a s
  | .statusWrite a => Sys2Proof.Machine.execStatusWrite a s
  | .vflagRead d => Sys2Proof.Machine.execVflagRead d s
  | .grd k => Sys2Proof.Machine.execGrd k s
  | .gwr k => Sys2Proof.Machine.execGwr k s
  | .gat k => Sys2Proof.Machine.execGat k s
  | .gredPacket k => Sys2Proof.Machine.execGredPacket k s
  | .drd k => Sys2Proof.Machine.execDrd k s
  | .dwr k => Sys2Proof.Machine.execDwr k s
  | .dat k => Sys2Proof.Machine.execDat k s
  | .qbindConsumerDoor k => Sys2Proof.Machine.execQbindConsumerDoor k s
  | .qbindProducerDoor k => Sys2Proof.Machine.execQbindProducerDoor k s
  | .qresDoor k => Sys2Proof.Machine.execQresDoor k s
  | .qpubDoor k => Sys2Proof.Machine.execQpubDoor k s
  | .qeosDoor k => Sys2Proof.Machine.execQeosDoor k s
  | .qwaitDoor k => Sys2Proof.Machine.execQwaitDoor k s
  | .qadvDoor k => Sys2Proof.Machine.execQadvDoor k s
  | .binitDoor k => Sys2Proof.Machine.execBinitDoor k s
  | .bjoinDoor k => Sys2Proof.Machine.execBjoinDoor k s
  | .barvDoor k => Sys2Proof.Machine.execBarvDoor k s
  | .bdropDoor k => Sys2Proof.Machine.execBdropDoor k s
  | .bexpDoor k => Sys2Proof.Machine.execBexpDoor k s
  | .bwaitDoor k => Sys2Proof.Machine.execBwaitDoor k s
  | .barrierCredit k => Sys2Proof.Machine.execBarrierCredit k s
  | .joinDoorOp k => Sys2Proof.Machine.execJoinDoorOp k s
  | .parkFrameWrite k => Sys2Proof.Machine.execParkFrameWrite k s
  | .msg k => Sys2Proof.Machine.execMsg k s
  | .rdl k => Sys2Proof.Machine.execRdl k s
  | .rreq k => Sys2Proof.Machine.execRreq k s
  | .rply k => Sys2Proof.Machine.execRply k s
  | .ack k => Sys2Proof.Machine.execAck k s
  | .cwr k => Sys2Proof.Machine.execCwr k s
  | .eack k => Sys2Proof.Machine.execEack k s
  | .rack k => Sys2Proof.Machine.execRack k s
  | .rdef k => Sys2Proof.Machine.execRdef k s
  | .sres k => Sys2Proof.Machine.execSres k s
  | .sopn k => Sys2Proof.Machine.execSopn k s
  | .sdat k => Sys2Proof.Machine.execSdat k s
  | .streamSlotPublish cn stream => Sys2Proof.Machine.execStreamSlotPublish cn stream s
  | .smrk k => Sys2Proof.Machine.execSmrk k s
  | .unassignedKind cn kind => Sys2Proof.Machine.execUnassignedKind cn kind s
  | .trim k => Sys2Proof.Machine.execTrim k s
  | .trimmedHeader k => Sys2Proof.Machine.execTrimmedHeader k s
  | .rreqSend cn src => Sys2Proof.Machine.execRreqSend cn src s
  | .tokenRefill cn src => Sys2Proof.Machine.execTokenRefill cn src s
  | .retransmitTimeout cn k => Sys2Proof.Machine.execRetransmitTimeout cn k s
  | .linkReplay cn r => Sys2Proof.Machine.execLinkReplay cn r s
  | .linkRetrain cn r => Sys2Proof.Machine.execLinkRetrain cn r s
  | .tlbWalk cn who => Sys2Proof.Machine.execTlbWalk cn who s
  | .lineFill cn hv => Sys2Proof.Machine.execLineFill cn hv s
  | .migration cn hv => Sys2Proof.Machine.execMigration cn hv s
  | .copyStart cn op => Sys2Proof.Machine.execCopyStart cn op s
  | .copyComplete cn op => Sys2Proof.Machine.execCopyComplete cn op s
  | .copyStop cn op above => Sys2Proof.Machine.execCopyStop cn op above s
  | .drainComplete cn op => Sys2Proof.Machine.execDrainComplete cn op s
  | .vcordComplete cn v => Sys2Proof.Machine.execVcordComplete cn v s
  | .sideQueueHead reed north => Sys2Proof.Machine.execSideQueueHead reed north s
  | .latchLoaded reed => Sys2Proof.Machine.execLatchLoaded reed s
  | .rowStart reed => Sys2Proof.Machine.execRowStart reed s
  | .rowComputed reed => Sys2Proof.Machine.execRowComputed reed s
  | .deliveryResend reed slot => Sys2Proof.Machine.execDeliveryResend reed slot s
  | .rdvtoTimeout reed w => Sys2Proof.Machine.execRdvtoTimeout reed w s
  | .laneWordArrival cn r => Sys2Proof.Machine.execLaneWordArrival cn r s
  | .laneCreditReturn cn r => Sys2Proof.Machine.execLaneCreditReturn cn r s
  | .presenceTimeout cn hv => Sys2Proof.Machine.execPresenceTimeout cn hv s
  | .sopenSetupTimeout stream => Sys2Proof.Machine.execSopenSetupTimeout stream s
  | .ssendServe cn p => Sys2Proof.Machine.execSsendServe cn p s
  | .ssendComplete cn p => Sys2Proof.Machine.execSsendComplete cn p s
  | .bellowsContribute cn op => Sys2Proof.Machine.execBellowsContribute cn op s
  | .bellowsNodeCombine op node => Sys2Proof.Machine.execBellowsNodeCombine op node s
  | .bellowsResult op cn => Sys2Proof.Machine.execBellowsResult op cn s
  | .pick cn hv => Sys2Proof.Machine.execPick cn hv s
  | .hardwarePost n => Sys2Proof.Machine.execHardwarePost n s
  | .quantumBoundary slice => Sys2Proof.Machine.execQuantumBoundary slice s
  | .wheelTick slice => Sys2Proof.Machine.execWheelTick slice s
  | .launchAccept req g => Sys2Proof.Machine.execLaunchAccept req g s
  | .hostLaunchDoorbell slot desc => Sys2Proof.Machine.execHostLaunchDoorbell slot desc s
  | .launchEnd l => Sys2Proof.Machine.execLaunchEnd l s
  | .harvestPark cn => Sys2Proof.Machine.execHarvestPark cn s
  | .harvestResume cn => Sys2Proof.Machine.execHarvestResume cn s
  | .asyncFaultTake cn hv => Sys2Proof.Machine.execAsyncFaultTake cn hv s
  | .svcReply cn hv v => Sys2Proof.Machine.execSvcReply cn hv v s
  | .read cn hv it l => Sys2Proof.Machine.execRead cn hv it l s
  | .write cn hv it v => Sys2Proof.Machine.execWrite cn hv it v s
  | .restart cn hv at_ => Sys2Proof.Machine.execRestart cn hv at_ s
  | .repost cn akind aid => Sys2Proof.Machine.execRepost cn akind aid s
  | .preempt cn l => Sys2Proof.Machine.execPreempt cn l s
  | .permit cn v => Sys2Proof.Machine.execPermit cn v s
  | .retire cn => Sys2Proof.Machine.execRetire cn s
  | .teardown l => Sys2Proof.Machine.execTeardown l s
  | .reset cn => Sys2Proof.Machine.execReset cn s
  | .powerWindow avg mw => Sys2Proof.Machine.execPowerWindow avg mw s
  | .throttleStepChange loaf => Sys2Proof.Machine.execThrottleStepChange loaf s
  | .rampPeriod loaf => Sys2Proof.Machine.execRampPeriod loaf s
  | .coldStart imm => Sys2Proof.Machine.execColdStart imm s
  | .warmStart imm => Sys2Proof.Machine.execWarmStart imm s
  | .warmreq v => Sys2Proof.Machine.execWarmreq v s
  | .imageFetchRestart => Sys2Proof.Machine.execImageFetchRestart s
  | .gatewayDatagram dev seq off data => Sys2Proof.Machine.execGatewayDatagram dev seq off data s
  | .gatewayRetransmit dev seq => Sys2Proof.Machine.execGatewayRetransmit dev seq s
  | .ptpMessage offset => Sys2Proof.Machine.execPtpMessage offset s
  | .pageReturn pte entry => Sys2Proof.Machine.execPageReturn pte entry s
  | .keyInstall id => Sys2Proof.Machine.execKeyInstall id s

end Sys2Proof.Machine
end

