-- ==== Sys2Proof/Machine/Agents.lean ====
section
/-! DEFINITION. Turns of agents that no row of the opcode table names: engine operations (R99, R101), routers, memory
upsets (R71, R82, R360), failed hand-overs (R364), the resident kernel, the start's image, the PCIe host, and the far device of a gateway
(R367). -/

namespace Sys2Proof.Machine

open Sys2Proof

/-- An upset of local memory: corrected and counted, or an uncorrectable error of its unit (R82, R339). -/
def upsetLocal (s : State) (cn off : Nat) (correctable : Bool) : State :=
  if Config.cores ≤ cn then s
  else if correctable then s.modCore cn (fun c => { c with corrected := (c.corrected + 1) % 2 ^ 32 })
  else s.modCore cn (fun c => { c with lm := { c.lm with bad := addNew c.lm.bad (off % lmSize / 16) } })

/-- An upset of HBM: corrected and counted by the base die, or an uncorrectable error of its granule (R71, R339). -/
def upsetHbm (s : State) (pa : Nat) (correctable : Bool) : State :=
  let die := pa / 2 ^ 36
  if correctable then
    { s with hbm := { s.hbm with corrected := mset s.hbm.corrected die ((mget s.hbm.corrected die 0 + 1) % 2 ^ 32) } }
  else { s with hbm := { s.hbm with bad := addNew s.hbm.bad (pa / 32) } }

/-- `n` cycles pass: TIME, and the stalls that the throttle holds (R11, R302, R353). -/
def elapse (s : State) (n : Nat) : State := slew (holdStalls s n) n

/-- A hand-over at a base die will fail on the next access that a unit of the part makes there (R364). -/
def failUnit (s : State) (die : Nat) (reported : Bool) : State := { s with hbm := { s.hbm with drops := s.hbm.drops ++ [(die, reported)] } }

/-- A turn of an agent that is neither a context nor an event of the table. -/
def agentTurn (s : State) (a : Agent) : State :=
  match a with
  | .issue .. | .event .. | .idle => s
  | .engine cn op => engineMove s cn op
  | .write cn op n => engineWrite s cn op n
  | .credit cn op => engineCredit s cn op
  | .upsetLocal cn off k => upsetLocal s cn off k
  | .upsetHbm pa k => upsetHbm s pa k
  | .kernel a => kernelAct s a
  | .gwAck dev seq ok => gatewayAck s dev seq ok
  | .gwSend i => gatewaySend s i
  | .route k => routePacket s k
  | .flit cn port => flitTurn s cn port
  | .door cn => doorTurn s cn
  | .handover k reported => handover s k reported
  | .handUnit die reported => failUnit s die reported
  | .imageBlock => blockComes s
  | .image img => imageComes s img
  | .barRead off => barRead s off
  | .upsetCrust i b => upsetCrust s i b

end Sys2Proof.Machine
end

