-- ==== Sys2Proof/Machine/Energy.lean ====
section
/-! DEFINITION. The energy that a turn charges to a launch (R357): which event of which launch the turn has made. Filler rows, idle cycles and
turns in which nothing comes about are charged to none. -/

namespace Sys2Proof.Machine

open Sys2Proof

/-- Kinds of events with a coefficient of their own (R357): instructions, row starts, moves of copies and drains, accesses at homes, flits, bytes
of local memory, bytes through a stream port, and HBM accesses of the part's units. -/
inductive EnergyKind where
  | issue | rowStart | engine | home | flit | localByte | portByte | unit
  deriving DecidableEq, Repr

/-- Number of a kind. -/
def EnergyKind.num : EnergyKind → Nat
  | .issue => 0
  | .rowStart => 1
  | .engine => 2
  | .home => 3
  | .flit => 4
  | .localByte => 5
  | .portByte => 6
  | .unit => 7

/-- A charge: the launch, and the calibrated coefficient of an event's kind and of what qualifies it. -/
def coeff (launch : Nat) (k : EnergyKind) (q : Nat) : Nat × Nat := (launch, Config.energy k.num q)

/-- The charge of `n` bytes, or of `n` equal accesses. -/
def coeffs (launch : Nat) (k : EnergyKind) (n : Nat) : Nat × Nat := (launch, n * Config.energy k.num 0)

/-- HBM accesses that the part's units have made for launches: walks, queue areas, trap tables and launch tables. -/
def unitCharge (s t : State) : List (Nat × Nat) :=
  t.crust.uses.filterMap (fun u =>
    let n := u.2 - mget s.crust.uses u.1 0
    if n == 0 then none else some (coeffs u.1 .unit n))

/-- Bytes of own local memory that an instruction moves. -/
def localBytes : Instr → Nat
  | .ldl _ _ sz _ => szBytes sz
  | .stl _ _ sz _ => stBytes sz
  | .ldlV .. | .ldlVLit .. | .stlV .. | .stlVLit .. => 64
  | _ => 0

/-- The packet at which an event moves a home, a door or a sink. -/
def packetOf : Instr → Option Nat
  | .grd k | .gwr k | .gat k | .gredPacket k | .drd k | .dwr k | .dat k | .qbindConsumerDoor k | .qbindProducerDoor k | .qresDoor k
  | .qpubDoor k | .qeosDoor k | .qwaitDoor k | .qadvDoor k | .binitDoor k | .bjoinDoor k | .barvDoor k | .bdropDoor k | .bexpDoor k
  | .bwaitDoor k | .barrierCredit k | .joinDoorOp k | .parkFrameWrite k | .msg k | .rdl k | .cwr k | .sdat k => some k
  | _ => none

/-- Bytes of a core's local memory that a packet's request names at its door, or that it brings there. -/
def Packet.doorBytes (p : Packet) : Nat :=
  match p.body, p.place with
  | .sdat _ _ _ _ data, _ => data.length
  | _, some (.door _, _, n) => n
  | _, _ => 0

/-- A home has acted on a packet, whose launch is charged: an HBM access, a bank operation or a door operation, and its bytes of local
memory. -/
def homeCharge (s t : State) (k : Nat) : List (Nat × Nat) :=
  match s.pkt k with
  | some p => if t.pkt k == some p then [] else [coeff p.launch .home p.body.kind, coeffs p.launch .localByte p.doorBytes]
  | none => []

/-- A row of a reed has started, with its format pair and the bytes that its stream port has read. -/
def rowCharge (s t : State) (reed : Nat) : List (Nat × Nat) :=
  let r := s.reed reed
  match r.run, (t.reed reed).run.bind (·.row) with
  | some p, some (vs, ss) =>
    if p.row.isNone then
      [coeff p.cmd.launch .rowStart (16 * r.latch.cmd.fmt + p.feed.fmt), coeffs p.cmd.launch .portByte (vs.length + ss.length)]
    else []
  | _, _ => []

/-- A latch has loaded through its stream port. -/
def loadCharge (s t : State) (reed : Nat) : List (Nat × Nat) :=
  let l := (t.reed reed).latch
  if s.reed reed == t.reed reed then [] else [coeffs (s.reed reed).latch.launch .portByte (l.vals.length + l.scales.length)]

/-- A stream port of a core has read an ssend's bytes. -/
def portCharge (s t : State) (cn : Nat) : List (Nat × Nat) :=
  (List.finRange 2).filterMap (fun i =>
    match (s.core cn).ports[i].serving, (t.core cn).ports[i].serving with
    | none, some (.send _ n ..) => some (coeffs (s.core cn).launch .portByte n)
    | _, _ => none)

/-- A member's bytes have been read for the bellows. -/
def bellowsCharge (s t : State) (op : Nat) : List (Nat × Nat) :=
  match s.bellows.find? (fun b => b.op == op) with
  | some b => if t.bellows.contains b then [] else [coeffs b.launch .localByte 64]
  | none => []

/-- An engine operation has moved an element, or sent a credit, and its issuer's launch is charged by the element's bytes. -/
def opCharge (s t : State) (cn op : Nat) : List (Nat × Nat) :=
  match s.copyOp cn op with
  | some c => if t.copyOp cn op == some c then [] else [coeffs c.launch .engine (c.bytesOf 1)]
  | none => []

/-- A flit of a packet has gone over an output. -/
def flitCharge (s t : State) (cn port : Nat) : List (Nat × Nat) :=
  let sent (p : Packet) : Bool := match p.at_ with
    | .queue c q left => c == cn && q == port && (t.pkt p.id).any (fun x => x.at_ == .queue c q (left - 1) && left != 0)
    | .router .. | .arrived => false
  match s.net.find? sent with
  | some p => [coeff p.launch .flit 0]
  | none => []

/-- The instruction of the issuing context has issued: it neither stalls nor waits. One that does not trap has moved its bytes. -/
def issueCharge (s t : State) (i : Instr) : List (Nat × Nat) :=
  let c := t.ctxOf s.cur.core s.cur.hv
  let trapped := c.stop || (c.inh && !s.ctx.inh)
  if c.stall.isNone && c.units.isNone then
    [coeff s.ctx.launch .issue ((firstWord i).toNat / 4 % 64), coeffs s.ctx.launch .localByte (if trapped then 0 else localBytes i)]
  else []

/-- What an event from `s` to `t` charges. -/
def eventCharge (s t : State) : Instr → List (Nat × Nat)
  | .rowStart reed => rowCharge s t reed
  | .latchLoaded reed => loadCharge s t reed
  | .ssendServe cn _ => portCharge s t cn
  | .bellowsContribute _ op => bellowsCharge s t op
  | i => ((packetOf i).map (homeCharge s t)).getD []

/-- What a turn of another agent from `s` to `t` charges. -/
def agentCharge (s t : State) (a : Agent) : List (Nat × Nat) :=
  match a with
  | .engine cn op | .write cn op _ | .credit cn op => opCharge s t cn op
  | .flit cn port => flitCharge s t cn port
  | .issue .. | .event _ | .upsetLocal .. | .upsetHbm .. | .kernel _ | .gwAck .. | .gwSend _ | .route _ | .door _ | .handover .. | .handUnit ..
  | .imageBlock | .image _ | .barRead _ | .upsetCrust .. | .idle => []

/-- Launches pay what a list of charges names. -/
def pay (s : State) (cs : List (Nat × Nat)) : State := cs.foldl (fun u c => charge u c.1 c.2) s

/-- The state in which a context executes an instruction that ends as `r`: where it issues, its launch has paid for it (R357). -/
def payIssue (s : State) (i : Instr) (r : Host.Outcome State Fault Refusal) : State :=
  match r with
  | .next t => pay s (issueCharge s t i ++ unitCharge s t)
  | .fault _ | .refused _ => s

/-- The state in which an event that ends as `r` is executed: what it does is paid for (R357). -/
def payEvent (s : State) (i : Instr) (r : Host.Outcome State Fault Refusal) : State :=
  match r with
  | .next t => pay s (eventCharge s t i ++ unitCharge s t)
  | .fault _ | .refused _ => s

/-- What a turn without an instruction's meaning comes to, with what the units did in it paid for (R357). -/
def payUnits (s : State) (r : Host.Outcome State Fault Refusal) : Host.Outcome State Fault Refusal :=
  match r with
  | .next t => .next (pay t (unitCharge s t))
  | .fault f => .fault f
  | .refused x => .refused x

end Sys2Proof.Machine
end

