-- ==== Sys2Proof/Machine/Step.lean ====
section
/-! DEFINITION. One step of the whole part: one turn of one agent. What a turn does before an instruction's meaning stands in
Sys2Proof/Machine/Issue.lean, and the meanings in the family files. -/

namespace Sys2Proof.Machine

open Sys2Proof

/-- An issue turn of one context: it executes its next instruction, whose energy is charged (R357), or comes to another state. -/
def issueStep (s : State) (cn : Nat) (hv : Bool) : Host.Outcome State Fault Refusal :=
  match issueFetch { s with cur := ⟨cn, hv⟩ } with
  | .stop t => .next (pay t (unitCharge s t))
  | .run t i => exec i (payIssue t i (exec i t))
  | .due u t i => payUnits s (pickDue u t (exec i t))

/-- What a turn's agent does. -/
def turnStep (s : State) (a : Agent) : Host.Outcome State Fault Refusal :=
  match a with
  | .issue cn hv => issueStep s cn hv
  | .event i => if isEvent i then exec i (payEvent s i (exec i s)) else .next s
  | .engine .. | .write .. | .credit .. | .upsetLocal .. | .upsetHbm .. | .kernel .. | .gwAck .. | .gwSend _ | .route _ | .flit .. | .door _
  | .handover .. | .handUnit .. | .imageBlock | .image _ | .barRead _ | .upsetCrust .. | .idle =>
    let t := agentTurn s a
    .next (pay t (agentCharge s t a ++ unitCharge s t))

/-- One step: the next turn's cycles pass, and its agent moves. -/
def step (s : State) : Host.Outcome State Fault Refusal :=
  let (s, t) := nextTurn s
  turnStep (elapse s t.wait) t.who

/-- The state with the instruction whose bits are `w` as the next one that a step runs: on core 0's owner context, in a task
of launch 1, at word 2 of a line that its instruction cache holds. -/
def State.withFetchWord (s : State) (nbits w : Nat) : State := placeWords s (wordsOf 5 (w % 2 ^ nbits))

end Sys2Proof.Machine
end

