-- ==== Sys2Proof/Safety/Numbers.lean ====
section
/-! DEFINITION. What the rules say of values (spec/06, and the value rules of spec/07, spec/10 and spec/13), in exact rationals and apart
from the part's own arithmetic: numbers of codes, rounding, NaNs, lanes, conversions, block scales, the CORDIC functions, partial sums,
and the bellows' folds. Statements about values are written in these terms. -/

namespace Sys2Proof.Machine

open Sys2Proof

/-! ### Lanes (R207) -/

/-- Lane width of a tile type. -/
def ruleWidth : TileType → Nat
  | .f32 | .i32 => 32
  | .f16 | .bf16 | .i16 => 16
  | .i8 => 8

/-- Lane count of a tile type. -/
def ruleLanes : TileType → Nat
  | .f32 | .i32 => 16
  | .f16 | .bf16 | .i16 => 32
  | .i8 => 64

/-- Lane k of a row: bytes k·w/8 onward, little-endian. -/
def ruleLane (ty : TileType) (r : RowBits) (k : Nat) : Nat := r.toNat / 2 ^ (k * ruleWidth ty) % 2 ^ ruleWidth ty

/-- A number of `w` bits read as two's complement. -/
def ruleInt (w x : Nat) : Int := if x < 2 ^ (w - 1) then x else (x : Int) - 2 ^ w

/-- A lane read as two's complement. -/
def ruleSigned (ty : TileType) (x : Nat) : Int := ruleInt (ruleWidth ty) x

/-- A two's-complement number as a lane. -/
def ruleWrap (ty : TileType) (x : Int) : Nat := (x % 2 ^ ruleWidth ty).toNat

/-- A literal repeated eight times in place of a row (R24). -/
def ruleLitRow (l : Word) : RowBits := l ++ l ++ l ++ l ++ l ++ l ++ l ++ l

/-! ### Numbers in exact rationals (spec/06): what the rules say of a code, apart from the part's own arithmetic -/

/-- What a floating code stands for (R131..R135): a NaN, an infinity, or a rational; a zero keeps its sign. -/
inductive RuleNum where
  | nan
  | inf (neg : Bool)
  | fin (neg : Bool) (q : ℚ)
  deriving DecidableEq

/-- 2^e for any whole e. -/
def rulePow (e : Int) : ℚ := if 0 ≤ e then 2 ^ e.toNat else 1 / 2 ^ (-e).toNat

/-- The number of a code (R131, R132). -/
def ruleNum (f : Fmt) (x : Nat) : RuleNum :=
  let m := x % 2 ^ f.mb
  let e := x / 2 ^ f.mb % 2 ^ f.eb
  let neg := decide (x / 2 ^ (f.mb + f.eb) % 2 = 1)
  let s : ℚ := if neg then -1 else 1
  if f.inf = true ∧ e = 2 ^ f.eb - 1 then (if m = 0 then .inf neg else .nan)
  else if f.e4m3 = true ∧ e = 15 ∧ m = 7 then .nan
  else if e = 0 then .fin neg (s * m * rulePow (1 - f.bias - f.mb))
  else .fin neg (s * (2 ^ f.mb + m) * rulePow (e - f.bias - f.mb))

/-- A code of a format stands for a number. -/
def RuleCode (f : Fmt) (r : Nat) (n : RuleNum) : Prop := r < 2 ^ f.width ∧ ruleNum f r = n

/-- The largest finite value (R132..R135). -/
def ruleMax (f : Fmt) : ℚ :=
  if f.e4m3 = true then 448
  else (2 ^ (f.mb + 1) - 1) * rulePow (((if f.inf = true then 2 ^ f.eb - 2 else 2 ^ f.eb - 1 : Nat) : Int) - f.bias - f.mb)

/-- The distance of neighbouring values of a format around a non-zero number, subnormals included, with an unbounded exponent
(R142). -/
def ruleStep (f : Fmt) (v : ℚ) : ℚ := rulePow (max (Int.log 2 |v|) (1 - f.bias) - f.mb)

/-- A number rounded to a multiple of `u` under the code of a mode; `w` is the word that Step gave for it (R142, R144). -/
def ruleGrid (u : ℚ) (mode w : Nat) (v : ℚ) : ℚ :=
  let k := ⌊v / u⌋
  let lo := k * u
  let hi := (k + 1) * u
  let near := if v < 0 then hi else lo
  let far := if v < 0 then lo else hi
  if lo = v then v
  else match mode with
    | 0 => if v - lo < hi - v then lo else if hi - v < v - lo then hi else if k % 2 = 0 then lo else hi
    | 1 => near
    | 2 => lo
    | 3 => hi
    | _ => if (w : Int) < ⌊|v - near| / u * 2 ^ 32⌋ then far else near

/-- Round of R142. -/
def ruleRound (f : Fmt) (mode w : Nat) (v : ℚ) : ℚ := ruleGrid (ruleStep f v) mode w v

/-- An overflow gives the largest finite value and not an infinity or a NaN (R152). -/
def ruleToMax (f : Fmt) (mode : Nat) (sat : Bool) (v : ℚ) : Prop :=
  sat = true ∨ (f.inf = false ∧ f.e4m3 = false) ∨ mode = 1 ∨ (mode = 2 ∧ 0 < v) ∨ (mode = 3 ∧ v < 0)

/-- The code that a finite number is converted to (R151, R152); `neg` is the sign of a zero. -/
def RuleRounded (f : Fmt) (mode w : Nat) (sat neg : Bool) (v : ℚ) (r : Nat) : Prop :=
  let y := ruleRound f mode w v
  let s : ℚ := if v < 0 then -1 else 1
  (v = 0 → RuleCode f r (.fin neg 0))
    ∧ (v ≠ 0 → |y| ≤ ruleMax f → RuleCode f r (.fin (decide (v < 0)) y))
    ∧ (v ≠ 0 → ruleMax f < |y| →
      (ruleToMax f mode sat v → RuleCode f r (.fin (decide (v < 0)) (s * ruleMax f)))
      ∧ (¬ ruleToMax f mode sat v → f.inf = true → RuleCode f r (.inf (decide (v < 0))))
      ∧ (¬ ruleToMax f mode sat v → f.inf = false → r = if v < 0 then 0xFF else 0x7F))

/-- The events of such a conversion (R151, R152): NX 1, UF 2, OF 4, NV 8. -/
def ruleEvents (f : Fmt) (mode w : Nat) (sat : Bool) (v : ℚ) : BitVec 6 :=
  let y := ruleRound f mode w v
  if v = 0 then 0
  else if ruleMax f < |y| then
    if sat = true ∨ f.inf = true ∨ f.e4m3 = false ∨ mode = 1 ∨ (mode = 2 ∧ 0 < v) ∨ (mode = 3 ∧ v < 0) then 5 else 13
  else if y = v then 0
  else if |y| < rulePow (1 - f.bias) then 3 else 1

/-! ### NaNs (R147..R150) -/

/-- ProvNaN (R147). -/
def ruleProv (cn kb : Nat) : Nat := 0x7FC00000 + cn % 32768 * 128 + kb % 128

/-- Widen32 of a NaN of a lane type (R150). -/
def ruleWiden (ty : TileType) (x : Nat) : Nat :=
  match ty with
  | .f16 => x / 2 ^ 15 % 2 * 2 ^ 31 + 0x7FC00000 + x % 512 * 2 ^ 13
  | .bf16 => x / 2 ^ 15 % 2 * 2 ^ 31 + 0x7FC00000 + x % 64 * 2 ^ 16
  | _ => if x.testBit 22 then x else x + 2 ^ 22

/-- An FP32 NaN narrowed to a lane type (R150). -/
def ruleNarrow (ty : TileType) (x : Nat) : Nat :=
  match ty with
  | .f16 => x / 2 ^ 31 % 2 * 2 ^ 15 + 0x7E00
  | .bf16 => x / 2 ^ 31 % 2 * 2 ^ 15 + 0x7FC0 + x / 2 ^ 16 % 64
  | _ => if x.testBit 22 then x else x + 2 ^ 22

/-- NanPick of two NaNs (R149). -/
def rulePick (a b : Nat) : Nat := if b % 2 ^ 22 < a % 2 ^ 22 then b else a

/-! ### Lane arithmetic (R214..R217) -/

/-- x + y; none where it is undefined. The sign is that of an exact zero under round to nearest. -/
def ruleAdd (x y : RuleNum) : Option RuleNum :=
  match x, y with
  | .inf a, .inf b => if a = b then some (.inf a) else none
  | .inf a, .fin .. => some (.inf a)
  | .fin .., .inf b => some (.inf b)
  | .fin a p, .fin b q => some (.fin (decide (p = 0 ∧ q = 0) && a && b) (p + q))
  | _, _ => some .nan

/-- The negative. -/
def ruleNeg (x : RuleNum) : RuleNum :=
  match x with
  | .nan => .nan
  | .inf a => .inf (!a)
  | .fin a q => .fin (!a) (-q)

/-- x × y; none where it is undefined. -/
def ruleMul (x y : RuleNum) : Option RuleNum :=
  match x, y with
  | .inf a, .inf b => some (.inf (a != b))
  | .inf a, .fin b q => if q = 0 then none else some (.inf (a != b))
  | .fin a q, .inf b => if q = 0 then none else some (.inf (a != b))
  | .fin a p, .fin b q => some (.fin (a != b) (p * q))
  | _, _ => some .nan

/-- The NaNs among the inputs of a lane operation, widened (R214). -/
def ruleNans (ty : TileType) (ins : List Nat) : List Nat := (ins.filter (fun x => ruleNum (tyFmt ty) x = .nan)).map (ruleWiden ty)

/-- FloatLane (R214): the code that an operation of core `cn` gives, from its inputs and its exact result; `kb` is the k-block of a NaN
that it makes (R147), 127 but in a reed. -/
def RuleLane (ty : TileType) (cn kb : Nat) (ins : List Nat) (res : Option RuleNum) (r : Nat) : Prop :=
  match ruleNans ty ins, res with
  | n :: rest, _ => r = ruleNarrow ty (rest.foldl rulePick n)
  | [], none => r = ruleNarrow ty (ruleProv cn kb)
  | [], some (.inf neg) => RuleCode (tyFmt ty) r (.inf neg)
  | [], some (.fin neg q) => RuleRounded (tyFmt ty) 0 0 false neg q r
  | [], some .nan => False

/-- The events of FloatLane. -/
def ruleLaneEvents (ty : TileType) (ins : List Nat) (res : Option RuleNum) : BitVec 6 :=
  match ruleNans ty ins, res with
  | [], none => 8
  | [], some (.fin _ q) => ruleEvents (tyFmt ty) 0 0 false q
  | _, _ => 0

/-- A code is subnormal. -/
def ruleSub (f : Fmt) (x : Nat) : Bool := decide (x / 2 ^ f.mb % 2 ^ f.eb = 0 ∧ x % 2 ^ f.mb ≠ 0)

/-- FlushDNZ (R156): a subnormal becomes the zero of its sign. -/
def ruleFlush (dnz : Bool) (f : Fmt) (x : Nat) : Nat :=
  if dnz && ruleSub f x then x / 2 ^ (f.mb + f.eb) * 2 ^ (f.mb + f.eb) else x

/-- The event of a flush. -/
def ruleFlushEvent (dnz : Bool) (f : Fmt) (x : Nat) : BitVec 6 := if dnz && ruleSub f x then 2 else 0

/-- x lies below y as IEEE 754 orders numbers, in which the zeros are equal. -/
def ruleLt (x y : RuleNum) : Bool :=
  match x, y with
  | .nan, _ | _, .nan => false
  | .inf a, .inf b => a && !b
  | .inf a, .fin .. => a
  | .fin .., .inf b => !b
  | .fin _ p, .fin _ q => decide (p < q)

/-- x lies below y in the order of vmin and vmax, in which −0 lies below +0 (R215). -/
def ruleBelow (x y : RuleNum) : Bool :=
  match x, y with
  | .fin a p, .fin b q => decide (p < q) || (decide (p = q ∧ p = 0) && a && !b)
  | _, _ => ruleLt x y

/-- The code of vmin or vmax on two codes that are no NaN (R215). -/
def ruleMinMax (mx : Bool) (f : Fmt) (x y : Nat) : Nat :=
  let p := ruleNum f x
  let q := ruleNum f y
  if mx then (if ruleBelow p q then y else x) else (if ruleBelow q p then y else x)

/-- vmin or vmax of a lane: as FloatLane where an input is a NaN (R215). -/
def RuleMinMax (mx : Bool) (ty : TileType) (x y r : Nat) : Prop :=
  r = match ruleNans ty [x, y] with
    | n :: rest => ruleNarrow ty (rest.foldl rulePick n)
    | [] => ruleMinMax mx (tyFmt ty) x y

/-- A lane lies below another: floating lanes in IEEE 754 order, integer lanes as signed (R216). -/
def ruleLess (ty : TileType) (x y : Nat) : Bool :=
  match ty with
  | .f32 | .f16 | .bf16 => ruleLt (ruleNum (tyFmt ty) x) (ruleNum (tyFmt ty) y)
  | .i32 | .i16 | .i8 => decide (ruleSigned ty x < ruleSigned ty y)

/-- Two lanes are unordered: one is a NaN (R216). -/
def ruleUnordered (ty : TileType) (x y : Nat) : Bool :=
  match ty with
  | .f32 | .f16 | .bf16 => decide (ruleNum (tyFmt ty) x = .nan ∨ ruleNum (tyFmt ty) y = .nan)
  | .i32 | .i16 | .i8 => false

/-! ### Folds -/

/-- `r` is what the values of a list, taken in order, make of an accumulator under a relation; `ev` joins the events of the steps. -/
def RuleChain (step : Nat → Nat → Nat → Prop) (event : Nat → Nat → BitVec 6) : Nat → List Nat → Nat → BitVec 6 → Prop
  | acc, [], r, ev => r = acc ∧ ev = 0
  | acc, x :: xs, r, ev => ∃ y e, step acc x y ∧ RuleChain step event y xs r e ∧ ev = event acc x ||| e

/-- The events of a list, joined. -/
def ruleJoin (l : List (BitVec 6)) : BitVec 6 := l.foldr (· ||| ·) 0

/-- LaneAdd of floating codes (R214). -/
def RuleAdd (ty : TileType) (cn kb x y r : Nat) : Prop :=
  RuleLane ty cn kb [x, y] (ruleAdd (ruleNum (tyFmt ty) x) (ruleNum (tyFmt ty) y)) r

/-- The events of LaneAdd. -/
def ruleAddEvents (ty : TileType) (x y : Nat) : BitVec 6 :=
  ruleLaneEvents ty [x, y] (ruleAdd (ruleNum (tyFmt ty) x) (ruleNum (tyFmt ty) y))

/-- x × y + z, rounded once (R215). -/
def ruleFma (x y z : RuleNum) : Option RuleNum := (ruleMul x y).bind (fun p => ruleAdd p z)

/-! ### Conversions (R144, R150..R154) -/

/-- Bits of an element code (R129). -/
def ruleBits (code : Nat) : Nat :=
  match code with
  | 0 | 1 | 12 => 16
  | 2 | 3 | 7 => 8
  | 4 | 5 => 6
  | 6 | 8 => 4
  | _ => 32

/-- Element k of a code in packed bytes, read as one little-endian number (R130). -/
def ruleElem (code bytes k : Nat) : Nat := bytes / 2 ^ (k * ruleBits code) % 2 ^ ruleBits code

/-- The number of an element: an integer code counts as a finite value (R136). -/
def ruleElemNum (code x : Nat) : RuleNum :=
  match Fmt.ofCode code with
  | some f => ruleNum f x
  | none => .fin false (ruleInt (ruleBits code) x)

/-- One step of the stochastic sequence (R144). -/
def ruleXorshift (x : BitVec 32) : BitVec 32 :=
  let y := x ^^^ (x <<< 13)
  let z := y ^^^ (y >>> 17)
  z ^^^ (z <<< 5)

/-- STATE after n steps. -/
def ruleSeed (seed : BitVec 32) : Nat → BitVec 32
  | 0 => seed
  | n + 1 => ruleXorshift (ruleSeed seed n)

/-- The word that Step returns for result element k of an instruction in mode SR (R144). -/
def ruleWord (seed : BitVec 32) (k : Nat) : Nat := (ruleSeed seed (k + 1)).toNat

/-- SRSEED after an instruction with n result elements: only mode SR takes steps (R144). -/
def ruleSeedAfter (rnd : Nat) (seed : BitVec 32) (n : Nat) : BitVec 32 := if rnd = 4 then ruleSeed seed n else seed

/-- A NaN of one code converted to another (R150, R153). -/
def ruleConvNan (src dst cn x : Nat) : Nat :=
  let s := x / 2 ^ (ruleBits src - 1) % 2
  match dst with
  | 10 =>
    match src with
    | 0 => ruleWiden .f16 x
    | 1 => ruleWiden .bf16 x
    | 10 => ruleWiden .f32 x
    | _ => ruleProv cn 127
  | 0 => s * 2 ^ 15 + 0x7E00 + (if src = 0 then x % 512 else 0)
  | 1 => s * 2 ^ 15 + 0x7FC0 + (if src = 1 then x % 64 else if src = 10 then x / 2 ^ 16 % 64 else 0)
  | 2 | 3 => s * 128 + 0x7F
  | _ => 0

/-- The range of an integer code (R136). -/
def ruleIntMin (code : Nat) : Int := -2 ^ (ruleBits code - 1)

/-- The range of an integer code (R136). -/
def ruleIntMax (code : Nat) : Int := 2 ^ (ruleBits code - 1) - 1

/-- An integer clamped to a code's range, as a code (R136, R154). -/
def ruleIntCode (code : Nat) (v : Int) : Nat := (max (ruleIntMin code) (min (ruleIntMax code) v) % 2 ^ ruleBits code).toNat

/-- A source element times 2^scale converted to a target code (R151..R154); `w` is the word that Step gave for it. -/
def RuleConv (src dst cn mode w : Nat) (sat : Bool) (scale : Int) (x r : Nat) : Prop :=
  match ruleElemNum src x, Fmt.ofCode dst with
  | .nan, _ => r = ruleConvNan src dst cn x
  | .inf neg, some f =>
    if f.inf = true then RuleCode f r (.inf neg)
    else if f.e4m3 = true ∧ sat = false then r = (if neg then 0xFF else 0x7F)
    else RuleCode f r (.fin neg (if neg then -ruleMax f else ruleMax f))
  | .inf neg, none => r = ruleIntCode dst (if neg then ruleIntMin dst else ruleIntMax dst)
  | .fin neg q, some f => RuleRounded f mode w sat neg (q * rulePow scale) r
  | .fin _ q, none => r = ruleIntCode dst ⌊ruleGrid 1 mode w (q * rulePow scale)⌋

/-- The events of a conversion. -/
def ruleConvEvents (src dst mode w : Nat) (sat : Bool) (scale : Int) (x : Nat) : BitVec 6 :=
  match ruleElemNum src x, Fmt.ofCode dst with
  | .nan, f => if f.any (fun f => f.inf || f.e4m3) then 0 else 8
  | .inf _, some f => if f.inf = true then 0 else if f.e4m3 = true ∧ sat = false then 8 else 4
  | .inf _, none => 4
  | .fin _ q, some f => ruleEvents f mode w sat (q * rulePow scale)
  | .fin _ q, none =>
    let v := q * rulePow scale
    let y := ruleGrid 1 mode w v
    (if y = v then 0 else 1) ||| (if (ruleIntMin dst : ℚ) ≤ y ∧ y ≤ ruleIntMax dst then 0 else 4)

/-- What LaneWrite leaves of a converted element: it is flushed where its code is the floating type of the tile (R219, R156). -/
def ruleWritten (ty : TileType) (dnz : Bool) (code x : Nat) : Nat :=
  if ty.isFloat && code == tyCode ty then ruleFlush dnz (tyFmt ty) x else x

/-- The event of that. -/
def ruleWrittenEvent (ty : TileType) (dnz : Bool) (code x : Nat) : BitVec 6 :=
  if ty.isFloat && code == tyCode ty then ruleFlushEvent dnz (tyFmt ty) x else 0

/-! ### Block scales (R221, R222) -/

/-- EMAX of a target code (R221). -/
def ruleEmax (code : Nat) : Int :=
  match code with
  | 2 => 8
  | 3 => 15
  | 4 => 4
  | 5 => 2
  | 6 => 2
  | _ => 0

/-- ScaleFor (R221) of a block of numbers. -/
def RuleScale (xs : List RuleNum) (code s : Nat) : Prop :=
  let finite := ∀ x ∈ xs, ∃ n q, x = .fin n q
  (¬ finite → s = 255)
    ∧ (finite → (∀ x ∈ xs, ∃ n, x = .fin n 0) → s = 127)
    ∧ (finite → ∀ n a, a ≠ 0 → .fin n a ∈ xs → (∀ m b, .fin m b ∈ xs → |b| ≤ |a|) →
        (s : Int) = max 0 (min 254 (Int.log 2 |a| - ruleEmax code + 127)))

/-- The event of ScaleFor. -/
def ruleScaleEvent (s : Nat) : BitVec 6 := if s = 255 then 8 else 0

/-- The +0 code under a scale of 0xFF, and otherwise the conversion of the element times 2^(127 − s) (R221, R227). -/
def RuleScaled (src dst cn mode w : Nat) (sat : Bool) (s x r : Nat) : Prop :=
  if s = 255 then r = 0 else RuleConv src dst cn mode w sat (127 - s) x r

/-- The events of that element. -/
def ruleScaledEvents (src dst mode w : Nat) (sat : Bool) (s x : Nat) : BitVec 6 :=
  if s = 255 then 0 else ruleConvEvents src dst mode w sat (127 - s) x

/-- Sign bit and magnitude bit of a VQ2 weight (R221); the +0 code under a scale of 0xFF. -/
def RuleVq2 (s : Nat) (x : RuleNum) (sign big : Bool) : Prop :=
  match x with
  | .fin neg q => if s = 255 then sign = false ∧ big = false else sign = neg ∧ (big = true ↔ 1 ≤ |q| * rulePow (127 - s))
  | .inf _ | .nan => sign = false ∧ big = false

/-- NX when the decoded weight differs from x (R221, R139). -/
def ruleVq2Event (s : Nat) (x : RuleNum) (sign big : Bool) : BitVec 6 :=
  match x with
  | .fin _ q =>
    if s = 255 then 0 else if (if sign then -1 else 1) * (if big then 3 / 2 else 1 / 2) = q * rulePow (127 - s) then 0 else 1
  | .inf _ | .nan => 0

/-- A lane of vscale (R222): 0xFF makes a NaN, a NaN or an infinity keeps its value (a NaN with M's top bit set, R150), and a product is
converted. -/
def RuleVscale (fmt cn mode w : Nat) (sat : Bool) (s x r : Nat) : Prop :=
  if s = 255 then r = ruleConvNan 10 fmt cn (ruleProv cn 127)
  else match ruleElemNum fmt x with
    | .nan => r = ruleConvNan fmt fmt cn x
    | .inf _ => r = x
    | .fin .. => RuleConv fmt fmt cn mode w sat ((s : Int) - 127) x r

/-- The events of such a lane. -/
def ruleVscaleEvents (fmt mode w : Nat) (sat : Bool) (s x : Nat) : BitVec 6 :=
  if s = 255 then 8
  else match ruleElemNum fmt x with
    | .nan | .inf _ => 0
    | .fin .. => ruleConvEvents fmt fmt mode w sat ((s : Int) - 127) x

/-! ### The CORDIC functions (R223, R224) -/

/-- A real value to the nearest whole number, ties to even. -/
def ruleNear (v : ℚ) : Int := ⌊ruleGrid 1 0 0 v⌋

/-- A real value to fixed: the nearest multiple of 2^−40, in units of it (R223). -/
def ruleFixed (v : ℚ) : Int := ruleNear (v * 2 ^ 40)

/-- The value of a fixed number. -/
def ruleOfFixed (n : Int) : ℚ := n / 2 ^ 40

/-- π/2 as the part's reduction takes it (log 132). -/
def ruleHalfPi : ℚ := halfPiExact.n / halfPiExact.d

/-- ln 2 as it is held, to the nearest multiple of 2^−40 (R223). -/
def ruleLn2 : ℚ := ruleOfFixed 762123384786

/-- π/2 as it is held, to the nearest multiple of 2^−40 (R223). -/
def ruleHeldPi : ℚ := ruleOfFixed 1727108826179

/-- seq: the entries of n iterations, with 4 and 13 twice in the hyperbolic mode (R223). -/
def ruleSeq (hyp : Bool) (n : Nat) : List Nat :=
  if hyp then ([1, 2, 3, 4] ++ (List.range 10).map (· + 4) ++ (List.range 18).map (· + 13)).take n else List.range n

/-- ATAB: atan(2^−i), or atanh(2^−i), to the nearest multiple of 2^−40; from 14 on, both are 2^−i (R223). -/
def ruleAngle (hyp : Bool) (i : Nat) : Int :=
  if 14 ≤ i then 2 ^ 40 / 2 ^ i
  else if hyp then
    [0, 603968492904, 280829356548, 138161568061, 68809165523, 34370929737, 17181267490, 8590109361, 4294989142, 2147486379,
      1073742165, 536870955, 268435461, 134217729].getD i 0
  else
    [863554413089, 509785937287, 269356888665, 136729762476, 68630207382, 34348560106, 17178471287, 8589759836, 4294945451,
      2147480917, 1073741483, 536870869, 268435451, 134217727].getD i 0

/-- The iterations of Cordic, on integers with 40 fractional bits; / rounds toward −∞ (R223). -/
def ruleCordic (hyp vec : Bool) : List Nat → Int → Int → Int → Int × Int × Int
  | [], x, y, z => (x, y, z)
  | i :: seq, x, y, z =>
    let d : Int := if vec then (if y < 0 then 1 else -1) else if 0 ≤ z then 1 else -1
    let m : Int := if hyp then -1 else 1
    ruleCordic hyp vec seq (x - m * d * (y / 2 ^ i)) (y + d * (x / 2 ^ i)) (z - d * ruleAngle hyp i)

/-- The square of what KINV(m, n) inverts: the product of 1 + m·2^−2i over seq (R223). -/
def ruleGain (hyp : Bool) (n : Nat) : ℚ :=
  ((ruleSeq hyp n).map (fun i => if hyp then 1 - 1 / 4 ^ i else (1 + 1 / 4 ^ i : ℚ))).prod

/-- KINV as it is held (R223): the statement says that it is the nearest. -/
def ruleKinv (hyp : Bool) (n : Nat) : Nat := (if hyp then kinvHyp else kinvCirc).getD n 0

/-- The exp steps on x, unrounded (R224). -/
def ruleExp (n : Nat) (x : ℚ) : ℚ :=
  let k := ruleNear (x / ruleLn2)
  let r := ruleFixed (x - k * ruleLn2)
  let (c, s, _) := ruleCordic true false (ruleSeq true n) (ruleKinv true n) 0 r
  ruleOfFixed (c + s) * rulePow k

/-- What a CORDIC function gives: a number, or a new NaN with its event (R224). -/
inductive RuleCord where
  | num (x : RuleNum)
  | bad (ev : BitVec 6)
  deriving DecidableEq

/-- A finite result. -/
def RuleCord.val (q : ℚ) : RuleCord := .num (.fin false q)

/-- The functions of R224 on an input that is no NaN. -/
def ruleCord (f : CordFn) (n : Nat) (x : RuleNum) : RuleCord :=
  match f, x with
  | _, .nan => .bad 8
  | .sin, .inf _ | .cos, .inf _ => .bad 8
  | .sin, .fin _ q | .cos, .fin _ q =>
    if 2 ^ 24 < |q| then .bad 32
    else
      let p := ruleNear (q / ruleHalfPi)
      let (c, s, _) := ruleCordic false false (ruleSeq false n) (ruleKinv false n) 0 (ruleFixed (q - p * ruleHalfPi))
      let co := if p % 4 = 0 then c else if p % 4 = 1 then -s else if p % 4 = 2 then -c else s
      let si := if p % 4 = 0 then s else if p % 4 = 1 then c else if p % 4 = 2 then -s else -c
      .val (ruleOfFixed (if f = .sin then si else co))
  | .atan, .inf neg => .val (if neg then -ruleHeldPi else ruleHeldPi)
  | .atan, .fin _ q =>
    let (_, _, z) := ruleCordic false true (ruleSeq false n) (2 ^ 40) (ruleFixed (if |q| ≤ 1 then q else 1 / q)) 0
    .val (if |q| ≤ 1 then ruleOfFixed z else (if q < 0 then -ruleHeldPi else ruleHeldPi) - ruleOfFixed z)
  | .exp, .inf neg => if neg then .val 0 else .num (.inf false)
  | .exp, .fin _ q => .val (ruleExp n q)
  | .ln, .inf neg => if neg then .bad 8 else .num (.inf false)
  | .ln, .fin _ q =>
    if q = 0 then .num (.inf true) else if q < 0 then .bad 8
    else
      let k := Int.log 2 q + 1
      let fx := ruleFixed (q * rulePow (-k))
      let (_, _, z) := ruleCordic true true (ruleSeq true n) (fx + 2 ^ 40) (fx - 2 ^ 40) 0
      .val (2 * ruleOfFixed z + k * ruleLn2)
  | .tanh, .inf neg => .val (if neg then -1 else 1)
  | .tanh, .fin _ q =>
    if 16 ≤ |q| then .val (if q < 0 then -1 else 1)
    else .val ((ruleExp n (2 * q) - 1) / (ruleExp n (2 * q) + 1))
  | .sigm, .inf neg => .val (if neg then 0 else 1)
  | .sigm, .fin _ q => .val (1 / (1 + ruleExp n (-q)))
  | .sqrt, .inf neg => if neg then .bad 8 else .num (.inf false)
  | .sqrt, .fin neg q =>
    if q = 0 then .num (.fin neg 0) else if q < 0 then .bad 8
    else
      let e := Int.log 2 q + 1
      let k := (e + 1) / 2
      let fx := ruleFixed (q * rulePow (-2 * k))
      let (w, _, _) := ruleCordic true true (ruleSeq true n) (fx + 2 ^ 38) (fx - 2 ^ 38) 0
      .val (ruleOfFixed w * ruleOfFixed (ruleKinv true n) * rulePow k)

/-- A lane of vcord before LaneWrite (R224). -/
def RuleCordLane (ty : TileType) (cn : Nat) (f : CordFn) (n x r : Nat) : Prop :=
  match ruleNum (tyFmt ty) x, ruleCord f n (ruleNum (tyFmt ty) x) with
  | .nan, _ => r = ruleNarrow ty (ruleWiden ty x)
  | _, .num y => RuleLane ty cn 127 [] (some y) r
  | _, .bad _ => r = ruleNarrow ty (ruleProv cn 127)

/-- The events of such a lane. -/
def ruleCordEvents (ty : TileType) (f : CordFn) (n x : Nat) : BitVec 6 :=
  match ruleNum (tyFmt ty) x, ruleCord f n (ruleNum (tyFmt ty) x) with
  | .nan, _ => 0
  | _, .num y => ruleLaneEvents ty [] (some y)
  | _, .bad ev => ev

/-! ### Pattern sets (R192 to R196) -/

/-- A set of positions of U, as a test. -/
abbrev RuleSet := Nat → Nat → Bool

/-- Mix (R193). -/
def ruleMix (i j s : Nat) : Nat :=
  let x := s ^^^ (i * 0x9E3779B1 % 2 ^ 32) ^^^ (j * 0x85EBCA6B % 2 ^ 32)
  let x := (x ^^^ x / 2 ^ 16) * 0x7FEB352D % 2 ^ 32
  let x := (x ^^^ x / 2 ^ 15) * 0x846CA68B % 2 ^ 32
  x ^^^ x / 2 ^ 16

/-- The chain of WalkColumn(j) from `x` meets position i (R194); the first number bounds its steps, of which each gains one at least. -/
def ruleWalk (g j seed i : Nat) : Nat → Nat → Bool
  | 0, _ => false
  | n + 1, x => x == i || (decide (x < i) && ruleWalk g j seed i n (x + 1 + ruleMix x j seed % g))

/-- The N-subsets of a list in lexicographic order (R196). -/
def ruleSubsets : Nat → List Nat → List (List Nat)
  | 0, _ => [[]]
  | _ + 1, [] => []
  | k + 1, x :: xs => (ruleSubsets k xs).map (x :: ·) ++ ruleSubsets (k + 1) xs

/-- Bit t of a little-endian bit stream at a byte offset (R196). -/
def ruleBit (byte : Nat → Nat) (off t : Nat) : Bool := (byte (off + t / 8)).testBit (t % 8)

/-- The positions of a stored form: bitmap chunks of 128 bits (R195), or numbers of w bits (R196). -/
def ruleStored (byte : Nat → Nat) (nrow mo w : Nat) : RuleSet := fun i j =>
  if w.testBit 14 then
    let m := 4 * 2 ^ (w / 2 ^ 12 % 4)
    let sets := ruleSubsets (w / 2 ^ 9 % 8) (List.range m)
    let b := ((List.range 12).find? (fun b => sets.length ≤ 2 ^ b)).getD 0
    let at_ := (j * (nrow / m) + i / m) * b
    let number := ((List.range b).map (fun k => if ruleBit byte mo (at_ + k) then 2 ^ k else 0)).sum
    (sets.getD number []).contains (i % m)
  else ruleBit byte (mo + (j * ((nrow + 127) / 128) + i / 128) * 16) (i % 128)

/-- A 16-bit field as two's complement (R192). -/
def ruleS16 (x : Nat) : Int := ruleInt 16 (x % 2 ^ 16)

/-- One pattern word on the stack of sets, top first (R192): `p` are the parameters, `byte` the metadata. -/
def rulePat (nrow ncol : Nat) (p byte : Nat → Nat) (w : Nat) (st : List RuleSet) : List RuleSet :=
  let a := p (w / 2 ^ 23 % 16)
  let b := p (w / 2 ^ 19 % 16)
  let lo := fun x : Nat => x % 2 ^ 16
  let hi := fun x : Nat => x / 2 ^ 16
  let inU : RuleSet → RuleSet := fun f i j => decide (i < nrow) && decide (j < ncol) && f i j
  let d := fun i j : Nat => (i : Int) - j
  match w / 2 ^ 27, st with
  | 1, st => inU (fun i j => decide (ruleS16 a ≤ d i j) && decide (d i j ≤ ruleS16 (hi a))) :: st
  | 2, st => inU (fun i j => (List.range (lo b)).any (fun t => d i j == ruleS16 a + hi a * t)) :: st
  | 3, st => inU (fun i j => i / lo a == j / hi a) :: st
  | 4, st => inU (fun i j => decide (ruleMix i j (p 1) < a)) :: st
  | 5, st => inU (fun i j => ruleWalk (a % 256) j (p 1) i (i + 1) (ruleMix 0xFFFFFFFF j (p 1) % (a % 256))) :: st
  | 6, st => inU (ruleStored byte nrow (lo a) w) :: st
  | 7, st => inU (fun _ _ => true) :: st
  | 8, y :: x :: st => inU (fun i j => x i j || y i j) :: st
  | 9, y :: x :: st => inU (fun i j => x i j && y i j) :: st
  | 10, y :: x :: st => inU (fun i j => x i j && !y i j) :: st
  | 11, x :: st =>
    let n := w / 8 % 8 + 1
    let m := w % 8 + 1
    inU (fun i j => x (i / n) (j / m)
      && (if i % n < 4 then a / 2 ^ (8 * (i % n)) else b / 2 ^ (8 * (i % n - 4))).testBit (j % m)) :: st
  | 12, x :: st =>
    inU (fun i j => decide (ruleS16 a ≤ i) && decide (ruleS16 (hi a) ≤ j)
      && x ((i : Int) - ruleS16 a).toNat ((j : Int) - ruleS16 (hi a)).toNat) :: st
  | 13, x :: st =>
    inU (fun i j => x i j && decide (lo a ≤ i) && decide (i ≤ hi a) && decide (lo b ≤ j) && decide (j ≤ hi b)) :: st
  | 14, x :: st => inU (fun i j => x i j && decide ((List.range i).countP (fun k => x k j) < w % 2 ^ 9)) :: st
  | 15, x :: st => inU (fun i j => x j i) :: st
  | _, st => st

/-- The words of a program up to its first `end` (R191). -/
def rulePattern (nrow ncol : Nat) (p byte : Nat → Nat) : List Nat → List RuleSet → List RuleSet
  | [], st => st
  | w :: ws, st => if w / 2 ^ 27 = 0 then st else rulePattern nrow ncol p byte ws (rulePat nrow ncol p byte w st)

/-! ### Partial sums of a reed (R145, R146, R173) -/

/-- An element of a reed operand: its number, and the FP32 NaN that it contributes where it is one (R130, R139, R145). -/
def ruleReedElem (fmt cn kb bytes k : Nat) : RuleNum × Nat :=
  if fmt = 9 then
    let x := bytes / 2 ^ (16 * (k / 8)) % 2 ^ 16
    let w : ℚ := if x.testBit (8 + k % 8) then 3 / 2 else 1 / 2
    (.fin (x.testBit (k % 8)) (if x.testBit (k % 8) then -w else w), 0)
  else
    let x := ruleElem fmt bytes k
    (ruleElemNum fmt x, if fmt = 0 then ruleWiden .f16 x else if fmt = 1 then ruleWiden .bf16 x else ruleProv cn (kb % 128))

/-- A term of a block: a holder element and a feeder element. -/
abbrev RuleTerm := (RuleNum × Nat) × (RuleNum × Nat)

/-- The NaNs that a term contributes (R145). -/
def ruleTermNans (cn kb : Nat) (t : RuleTerm) : List Nat :=
  match (if t.1.1 = .nan then [t.1.2] else []) ++ (if t.2.1 = .nan then [t.2.2] else []) with
  | [] => if ruleMul t.1.1 t.2.1 = none then [ruleProv cn (kb % 128)] else []
  | l => l

/-- ExactSum (R145). -/
def RuleExactSum (cn kb sa sb : Nat) (terms : List RuleTerm) (r : Nat) : Prop :=
  let products := terms.filterMap (fun t => ruleMul t.1.1 t.2.1)
  if sa = 255 ∨ sb = 255 then r = ruleProv cn (kb % 128)
  else match terms.flatMap (ruleTermNans cn kb) with
    | n :: rest => r = rest.foldl rulePick n
    | [] =>
      if .inf true ∈ products ∧ .inf false ∈ products then r = ruleProv cn (kb % 128)
      else if .inf true ∈ products then RuleCode fp32 r (.inf true)
      else if .inf false ∈ products then RuleCode fp32 r (.inf false)
      else
        let sum : ℚ := (products.map (fun p => match p with
          | .fin _ q => q
          | _ => 0)).sum
        RuleRounded fp32 0 0 false (decide (∀ p ∈ products, p = .fin true 0))
          (sum * rulePow ((sa : Int) - 127) * rulePow ((sb : Int) - 127)) r

/-- The exact integer sum of a block's products (R146). -/
def ruleIntSum (terms : List RuleTerm) : Int :=
  (terms.map (fun t => match t.1.1, t.2.1 with
    | .fin _ p, .fin _ q => ⌊p * q⌋
    | _, _ => 0)).sum

/-- SatI32 (R146). -/
def ruleSat (x : Int) : Int := max (-2 ^ 31) (min (2 ^ 31 - 1) x)

/-- Integer block sums added in ascending order with SatI32, and whether one of the additions saturated (R146, R173). -/
def ruleSatSum : Int → List Int → Int × Bool
  | acc, [] => (acc, false)
  | acc, x :: xs =>
    let r := ruleSatSum (ruleSat (acc + x)) xs
    (r.1, decide (ruleSat (acc + x) ≠ acc + x) || r.2)

/-- A partial sum (R173, R202): blocks of terms with their two scales, folded in ascending order; +0 without a block. -/
def RulePartial (int : Bool) (cn kb : Nat) (blocks : List (List RuleTerm × Nat × Nat)) (r : BitVec 32) : Prop :=
  match blocks with
  | [] => r = 0
  | b :: rest =>
    if int then r = BitVec.ofInt 32 (ruleSatSum (ruleIntSum b.1) (rest.map (fun b => ruleIntSum b.1))).1
    else ∃ p ps, RuleExactSum cn kb b.2.1 b.2.2 b.1 p ∧ List.Forall₂ (fun b q => RuleExactSum cn kb b.2.1 b.2.2 b.1 q) rest ps
      ∧ RuleChain (RuleAdd .f32 cn (kb % 128)) (fun _ _ => 0) p ps r.toNat 0

/-! ### The bellows (R256) -/

/-- Bits of a lane of a reduction. -/
def ruleRedWidth : RedType → Nat
  | .f32 | .i32 => 32
  | .i64 => 64

/-- Comb of one lane (R256); `cn` is the lowest core number among the members of the second value. -/
def RuleComb (o : RedOp) (t : RedType) (cn x y r : Nat) : Prop :=
  let w := ruleRedWidth t
  match o, t with
  | .add, .f32 => RuleAdd .f32 cn 127 x y r
  | .min, .f32 => RuleMinMax false .f32 x y r
  | .max, .f32 => RuleMinMax true .f32 x y r
  | .add, .i32 | .add, .i64 => r = (x + y) % 2 ^ w
  | .min, .i32 | .min, .i64 => r < 2 ^ w ∧ ruleInt w r = min (ruleInt w x) (ruleInt w y)
  | .max, .i32 | .max, .i64 => r < 2 ^ w ∧ ruleInt w r = max (ruleInt w x) (ruleInt w y)

/-- Fold of one lane (R256): the accumulated value first; every further value comes with the lowest core number among its members. -/
def RuleFold (o : RedOp) (t : RedType) : Nat → List (Nat × Nat) → Nat → Prop
  | acc, [], r => r = acc
  | acc, (x, cn) :: rest, r => ∃ y, RuleComb o t cn acc x y ∧ RuleFold o t y rest r

/-- Lane i of a value on the bellows. -/
def ruleRedLane (t : RedType) (bs : List Byte) (i : Nat) : Nat := leNat bs / 2 ^ (i * ruleRedWidth t) % 2 ^ ruleRedWidth t

end Sys2Proof.Machine
end

