-- ==== Sys2Proof/Safety.lean ====
section
/-! DEFINITION. The terms in which statements about the part are written: canonical memory, registers that are ready, the state
that an instruction which has taken effect leaves, and the parts of a state that stay as they were. -/

namespace Sys2Proof.Machine

open Sys2Proof

/-! ### Memory -/

/-- Local memory of a core and of the launches it keeps in save frames is in canonical form. -/
def Core.memoryWf (c : Core) : Bool := Memory.wf c.lm.bytes && c.frames.all (fun f => Memory.wf f.lm.bytes)

/-- Every memory of the part is in canonical form. -/
def State.memoryWf (s : State) : Bool :=
  Memory.wf s.hbm.bytes && s.crust.svcMems.all (fun p => Memory.wf p.2) && s.cores.all (fun p => p.2.memoryWf)

/-- One byte of a core's local memory as it stands in the array (R80). -/
def State.lmByte (s : State) (cn off : Nat) : Byte := cellGet (s.core cn).lm.bytes off

/-- One byte of HBM as it stands in the array (R51). -/
def State.hbmByte (s : State) (pa : Nat) : Byte := cellGet s.hbm.bytes pa

/-- No byte of any local memory or of HBM has changed. -/
def SameMemory (s t : State) : Prop := (∀ cn off, t.lmByte cn off = s.lmByte cn off) ∧ ∀ pa, t.hbmByte pa = s.hbmByte pa

/-! ### Registers of the issuing context -/

/-- The value of a register of the issuing context. -/
def State.val (s : State) (r : SReg) : Word := s.ctx.regs[r].val

/-- A register of the issuing context is present. -/
def Present (s : State) (r : SReg) : Prop := s.ctx.regs[r].present = true

/-- No BAR_OVER is taken at a read of the register: a handler runs, or no refused arrival left its ALL1 there (R262). -/
def NoBarAt (s : State) (r : SReg) : Prop := s.ctx.inh = true ∨ ∀ b ∈ s.ctx.bops, b.reg ≠ some r

/-- A source register can be read at issue (R109, R262). -/
def Readable (s : State) (r : SReg) : Prop := Present s r ∧ NoBarAt s r

/-- No BAR_OVER can be taken by an instruction that issues (R262). -/
def NoBar (s : State) : Prop := s.ctx.inh = true ∨ s.ctx.bops = []

/-- A row of the issuing core is present. -/
def RowPresent (s : State) (v : VReg) : Prop := (s.me.row v).present = true

/-! ### What an instruction leaves -/

/-- The state of an instruction that has taken effect: its context is not stalled. -/
def State.ran (t : State) : State := t.modCtx (fun c => { c with stall := none })

/-- The state after an instruction of `len` words that writes one register. -/
def wrote (s : State) (d : SReg) (v : Word) (len : Nat) : State := ((s.setReg d v).advance len).ran

/-- Nothing but the issuing context differs. -/
def OnlyCtx (s t : State) : Prop := t = s.modCtx (fun _ => t.ctx)

/-- The issuing context differs at most in its registers, pc, stall, and what a register's write does to noted arrivals. -/
def SameCtxButRegs (s t : State) : Prop :=
  t.ctx = { s.ctx with regs := t.ctx.regs, pc := t.ctx.pc, closedFrom := t.ctx.closedFrom, stall := t.ctx.stall,
                       bops := t.ctx.bops }

/-- Every register but `d` is as before. -/
def SameRegsBut (s t : State) (d : SReg) : Prop := ∀ r : SReg, r ≠ d → t.ctx.regs[r] = s.ctx.regs[r]

/-- Every register is as before. -/
def SameRegs (s t : State) : Prop := ∀ r : SReg, t.ctx.regs[r] = s.ctx.regs[r]

/-- The destination of an instruction that writes one scalar register and has no other effect (R112..R116). -/
def scalarDest : Instr → Option SReg
  | .add d .. | .addLit d .. | .sub d .. | .subLit d .. | .mul d .. | .mulLit d .. | .mulh d .. | .mulhLit d ..
  | .mulhu d .. | .mulhuLit d .. | .div d .. | .divLit d .. | .divu d .. | .divuLit d .. | .rem d .. | .remLit d ..
  | .remu d .. | .remuLit d .. | .and d .. | .andLit d .. | .or d .. | .orLit d .. | .xor d .. | .xorLit d ..
  | .shl d .. | .shlLit d .. | .shr d .. | .shrLit d .. | .sra d .. | .sraLit d .. | .min d .. | .minLit d ..
  | .max d .. | .maxLit d .. | .minu d .. | .minuLit d .. | .maxu d .. | .maxuLit d .. | .cmpeq d .. | .cmpeqLit d ..
  | .cmplt d .. | .cmpltLit d .. | .cmpltu d .. | .cmpltuLit d .. | .clz d .. | .popc d .. | .sel d .. | .selLit d ..
  | .addi d .. | .addiLit d .. | .andi d .. | .andiLit d .. | .ori d .. | .oriLit d .. | .xori d .. | .xoriLit d ..
  | .li d .. | .liLit d .. | .shli d .. | .shri d .. | .srai d .. | .bext d .. | .bins d .. | .lea d .. | .leaLit d .. =>
    some d
  | _ => none

/-- The context takes its oldest pending BAR_OVER at its pc (R262). -/
def barTaken (s : State) (b : Bop) (rest : List Bop) : State :=
  takeTrap (s.modCtx (fun c => { c with bops := rest })) s.cur.core s.cur.hv .barOver .pending b.epc s.ctx.pc b.obj

/-- The registers whose presence those instructions wait for, in the order in which they do: sources, then the destination (R109). -/
def scalarReads : Instr → List SReg
  | .add d a b | .sub d a b | .mul d a b | .mulh d a b | .mulhu d a b | .div d a b | .divu d a b | .rem d a b | .remu d a b
  | .and d a b | .or d a b | .xor d a b | .shl d a b | .shr d a b | .sra d a b | .min d a b | .max d a b | .minu d a b
  | .maxu d a b | .cmpeq d a b | .cmplt d a b | .cmpltu d a b => [a, b, d]
  | .addLit d a _ | .subLit d a _ | .mulLit d a _ | .mulhLit d a _ | .mulhuLit d a _ | .divLit d a _ | .divuLit d a _
  | .remLit d a _ | .remuLit d a _ | .andLit d a _ | .orLit d a _ | .xorLit d a _ | .shlLit d a _ | .shrLit d a _
  | .sraLit d a _ | .minLit d a _ | .maxLit d a _ | .minuLit d a _ | .maxuLit d a _ | .cmpeqLit d a _ | .cmpltLit d a _
  | .cmpltuLit d a _ | .clz d a | .popc d a | .addi d a _ | .addiLit d a _ | .andi d a _ | .andiLit d a _ | .ori d a _
  | .oriLit d a _ | .xori d a _ | .xoriLit d a _ | .shli d a _ | .shri d a _ | .srai d a _ | .bext d a _ _ | .bins d a _ _ =>
    [a, d]
  | .sel d a b c => [a, b, c, d]
  | .selLit d a c _ => [a, c, d]
  | .li d _ | .liLit d _ | .lea d _ | .leaLit d _ => [d]
  | _ => []

/-! ### Control flow -/

/-- The condition of bc as R42 lists it. -/
def ruleCond (c : Cond) (x y : Word) : Prop :=
  match c with
  | .eq => x = y
  | .ne => x ≠ y
  | .lt => x.toInt < y.toInt
  | .ge => x.toInt ≥ y.toInt
  | .ltu => x.toNat < y.toNat
  | .geu => x.toNat ≥ y.toNat
  | .z => x = 0
  | .nz => x ≠ 0

/-- The target of a B-format instruction without a literal (R42): 128 bytes a line, 4 bytes a word, from the line of the pc. -/
def ruleTarget (pc : Word) (delta : BitVec 7) (w : Fin 32) : Word :=
  BitVec.ofInt 64 ((pc.toNat / 128 * 128 : Nat) + delta.toInt * 128 + w.val * 4)

/-- A target that passes R36 and R37: canonical, word 2..31 of a line that is translated, cached and well formed, and marked
as the arrival demands. `u` is the state with the translation in the ITLB. -/
def TargetReady (s : State) (t : Word) (a : Arrive) (u : State) : Prop :=
  isCanon t = true ∧ t.toNat % 4 = 0 ∧ 2 ≤ t.toNat / 4 % 32
    ∧ ∃ l, fetchLine s t t = .ok (u, l) ∧ l.state = .ok ∧ arriveOk a l (t.toNat / 4 % 32) = true

/-- A transfer of control that has come to the check of its target: the instruction, its target and what the arrival demands
(R36, R117..R122). -/
inductive Transfers (s : State) : Instr → Word → Arrive → Prop where
  | b (d : BitVec 7) (w : Fin 32) : Transfers s (.b d w) (ruleTarget s.ctx.pc d w) .target
  | bLit (t : Word) : Transfers s (.bLit t) t .target
  | bc (c : Cond) (a b : SReg) (d : BitVec 7) (w : Fin 32) (ha : Readable s a) (hb : c ≠ .z → c ≠ .nz → Readable s b)
      (h : ruleCond c (s.val a) (s.val b)) : Transfers s (.bc c a b d w) (ruleTarget s.ctx.pc d w) .target
  | bcLit (c : Cond) (a b : SReg) (t : Word) (ha : Readable s a) (hb : c ≠ .z → c ≠ .nz → Readable s b)
      (h : ruleCond c (s.val a) (s.val b)) : Transfers s (.bcLit c a b t) t .target
  | call (l : SReg) (d : BitVec 7) (w : Fin 32) (hl : Present s l) :
      Transfers s (.call l d w) (ruleTarget s.ctx.pc d w) .function
  | callLit (l : SReg) (t : Word) (hl : Present s l) : Transfers s (.callLit l t) t .function
  | callr (l a : SReg) (hl : Present s l) (ha : Readable s a) : Transfers s (.callr l a) (s.val a) .function
  | ret (a : SReg) (ha : Readable s a) : Transfers s (.ret a) (s.val a) .target
  | cont (a : SReg) (d : BitVec 7) (w : Fin 32) (h : NoBar s) : Transfers s (.cont a d w) (ruleTarget s.ctx.pc d w) .target
  | contLit (a : SReg) (t : Word) (h : NoBar s) : Transfers s (.contLit a t) t .target

/-- No earlier access of the issuing context is outstanding, and no fault of one waits (R121). -/
def Quiet (s : State) : Prop := (∀ o ∈ s.ctx.out, o.tag = none) ∧ s.ctx.held = []

/-- The issuing context has passed the commit point of a task-ending instruction (R321). -/
def State.ended (s : State) (e : Ending) : State := s.modCtx (fun c => { c with ending := some e })

/-- What a context leaves whose task ends with a record: it is free, and its post, a release, clears the core's race tags and puts the
record into its queue, or waits: for room, or for messages and lane words of the context that have not arrived (R121, R280, R290). -/
def postedEnd (s : State) (cn : Nat) (hv : Bool) (r : CR) : State := releasePost (freeCtx s cn hv) cn hv r

/-- A task that has passed its commit point ends in the context's turn: the context may issue, no fault is due, no access is
outstanding and no refused arrival waits (R121, R262, R336). -/
def EndDue (s : State) (cn : Nat) (hv : Bool) (e : Ending) : Prop :=
  let c := s.ctxOf cn hv
  mayIssue s cn hv = true ∧ fallen s cn hv = none ∧ dueFault s cn hv = none ∧ asyncAfter s cn hv = none ∧ c.units = none
    ∧ c.ending = some e ∧ c.held = [] ∧ (c.inh = true ∨ c.bops = [])

/-! ### Split-phase requests -/

/-- No acquire of the issuing context is outstanding: a load may issue (R270). -/
def LoadReady (s : State) : Prop := ∀ o ∈ s.ctx.out, o.acq = false

/-- A store or a synchronising access may issue (R270, R273, R283). -/
def StoreReady (s : State) : Prop := LoadReady s ∧ s.ctx.loadOut = false ∧ s.ctx.rels = []

/-- A tag of the space is free for the issuing context (R66, R89, R310), and in mode E there is room for a kept copy (R241). -/
def SendReady (s : State) (peer : Bool) (dst : Nat) : Prop :=
  (∃ n, takeTag s peer = .ok n) ∧ canSend s s.cur.core dst 1 = true

/-- In mode E fewer than 16 GAT and DAT requests of the issuing core to the home are unacknowledged (R242). -/
def DatRoom (s : State) (dst : Nat) : Prop := datOpen s s.cur.core dst < 16

/-- The issuing context has sent one request on VN1 and has moved on by `len` words; its access is outstanding under a tag, with
its destination, its order, the address that its faults name and the address of its instruction. No byte of memory has changed. -/
def Sent (s t : State) (dst : Nat) (b : Body) (peer : Bool) (dest : Dest) (addr : Word) (acq rel : Bool) (len : Nat) : Prop :=
  ∃ p o, t.net = s.net ++ [p] ∧ p.src = s.cur.core ∧ p.dst = dst ∧ p.vn = 1 ∧ p.launch = s.myLaunch
    ∧ p.who = .ctx s.cur.hv ∧ p.rel = rel ∧ p.trim = false ∧ p.body = b
    ∧ t.ctx.out = s.ctx.out ++ [o] ∧ o.id = p.id ∧ o.dest = dest ∧ (∃ n, o.tag = some (peer, n)) ∧ o.acq = acq
    ∧ o.epc = s.ctx.pc ∧ o.addr = addr ∧ o.handler = s.ctx.inh
    ∧ (t.ctx.pc, t.ctx.closedFrom) = s.ctx.nextPc len ∧ SameMemory s t

/-- The same, with register `d` non-present and every other register as it was: a split-phase instruction with a result. -/
def SentFor (s t : State) (d : SReg) (dst : Nat) (b : Body) (peer : Bool) (dest : Dest) (addr : Word) (acq rel : Bool)
    (len : Nat) : Prop :=
  Sent s t dst b peer dest addr acq rel len ∧ ¬ Present t d ∧ SameRegsBut s t d

/-- An exact sum is the address of `n` aligned bytes of an unretired core of the launch (R86, R92). -/
def PeerPlace (s : State) (sum n : Nat) : Prop :=
  sum < 2147483648 ∧ s.placed s.myLaunch (sum / 65536) = true ∧ sum % 65536 % n = 0

/-- The acquire bit of an atomic's order (R77). -/
def atomAcq : AtomOrd → Bool
  | .acq | .ar => true
  | .none | .rel => false

/-- The release bit of an atomic's order (R77). -/
def atomRel : AtomOrd → Bool
  | .rel | .ar => true
  | .none | .acq => false

/-! ### Local memory -/

/-- No request of the issuing context to its own door that touches bytes `off .. off + n − 1` is unperformed (R86, R271). -/
def OwnDoorClear (s : State) (off n : Nat) : Prop :=
  ∀ q ∈ unperformed s s.cur.core, ∀ d b m, q.who = .ctx s.cur.hv → q.place = some (.door d, b, m) → d = s.cur.core →
    off + n ≤ b ∨ b + m ≤ off

/-- The issuing core may read or write the `n` bytes at `off` of its own local memory: in range and on its side of the loan, with
no scoreboard entry, no request of the context to its own door on them, no race tag of another core and no uncorrectable error (R82, R85,
R90, R96, R271, R281, R319). -/
def LocalReady (s : State) (off n : Nat) : Prop :=
  areaOk s off n = true ∧ OwnDoorClear s off n ∧ (s.me.board.all (fun r => decide (r.hi < off) || decide (off + n ≤ r.lo))) = true
    ∧ lmRace s s.cur.core off n s.cur.core s.myLaunch = false ∧ lmBadIn s s.cur.core off n = none

/-- The `n` bytes at `off` were written under the keystream of the issuing context's launch (R363); a service core has none. -/
def OwnKeys (s : State) (off n : Nat) : Prop :=
  isSvc s.cur.core = true ∨ (s.myLaunch ≠ 0 ∧ ∀ i, i < n → mget s.me.lm.keys (off + i) 0 = s.myLaunch)

/-- A value of a load, zero- or sign-extended from its size (R75, R90). -/
def ruleExtend (z : LoadSize) (v : Nat) : Word :=
  match z with
  | .b => (BitVec.ofNat 8 v).setWidth 64
  | .h => (BitVec.ofNat 16 v).setWidth 64
  | .w => (BitVec.ofNat 32 v).setWidth 64
  | .d => BitVec.ofNat 64 v
  | .sb => (BitVec.ofNat 8 v).signExtend 64
  | .sh => (BitVec.ofNat 16 v).signExtend 64
  | .sw => (BitVec.ofNat 32 v).signExtend 64

/-- After `s`, the bytes of one core's local memory from `off` on are `bs`; every other byte of every memory is as before. -/
def StoredAt (s t : State) (cn off : Nat) (bs : List Byte) : Prop :=
  (∀ i (h : i < bs.length), t.lmByte cn (off + i) = bs[i])
    ∧ (∀ c x, (c ≠ cn ∨ x < off ∨ off + bs.length ≤ x) → t.lmByte c x = s.lmByte c x)
    ∧ ∀ pa, t.hbmByte pa = s.hbmByte pa

/-- An ldl.v or stl.v takes four turns of its context, one 16-byte unit each; between them the context stays at the instruction (R83, R91,
R268). -/
def FourTurns (s : State) (i : Instr) (t : State) : Prop :=
  let Within : State → Prop := fun u => u.ctx.pc = s.ctx.pc ∧ u.ctx.units.isSome
  ∃ t1 t2 t3, exec i s = .next t1 ∧ exec i t1 = .next t2 ∧ exec i t2 = .next t3 ∧ exec i t3 = .next t
    ∧ Within t1 ∧ Within t2 ∧ Within t3 ∧ t.ctx.units = none

/-- The pc has moved on by `len` words. -/
def MovedOn (s t : State) (len : Nat) : Prop := (t.ctx.pc, t.ctx.closedFrom) = s.ctx.nextPc len

/-! ### Global memory -/

/-- The `n` aligned bytes at an exact sum are a global access of kind `k` that can be sent: canonical in one half that the mode may
reach, translated by the TLB entry `e`, and not on a migrate page of another loaf (R53, R58, R62, R74). -/
def GlobalReady (s : State) (sum : Int) (n : Nat) (k : AccKind) (e : TlbEntry) : Prop :=
  let va := BitVec.ofInt 64 sum
  let la := va + BitVec.ofNat 64 (n - 1)
  0 ≤ sum ∧ sum + n ≤ 18446744073709551616 ∧ sum % (n : Int) = 0 ∧ isCanon va = true ∧ isCanon la = true
    ∧ va.toNat.testBit 47 = la.toNat.testBit 47 ∧ (va.toNat.testBit 47 = true → s.ctx.mode = true)
    ∧ walkBusy s = false ∧ lookup s s.cur.core s.myLaunch va k = .hit e
    ∧ migrates (s.modMe (fun c => c.addTlb false e)) e = false

/-! ### Copies -/

/-- A record stands at `off` of the issuing core's local memory, under its own keystream and without an error. -/
def RecordAt (s : State) (off : Nat) (r : Nat) : Prop :=
  areaOk s off 48 = true ∧ OwnDoorClear s off 48 ∧ OwnKeys s off 48 ∧ lmBadIn s s.cur.core off 48 = none ∧ recOk off r = true
    ∧ r = leNat (cellRead s.me.lm.bytes off 48)

/-- A copy passes every check at issue (R95, R96, R97, R100, R101): `ra` and `rb` are its records. -/
def CopyReady (s : State) (obj a b : Word) (src dst : Space) (kind : CopyKind) (ra rb : Nat) : Prop :=
  obj.toNat % 8 = 0 ∧ areaOk s obj.toNat 8 = true ∧ lmBad s s.cur.core (obj.toNat / 16) = false ∧ OwnDoorClear s obj.toNat 8
    ∧ RecordAt s a.toNat ra ∧ RecordAt s b.toNat rb
    ∧ (LRec.ofNum ra).lesize = (LRec.ofNum rb).lesize
    ∧ (kind.idx = none → (LRec.ofNum ra).span = (LRec.ofNum rb).span)
    ∧ localBox s src (LRec.ofNum ra) a = .ok () ∧ localBox s dst (LRec.ofNum rb) b = .ok ()
    ∧ idxBox s kind (copyCount kind (LRec.ofNum ra) (LRec.ofNum rb)) = .ok ()
    ∧ peerBox s src (LRec.ofNum ra) = .ok () ∧ peerBox s dst (LRec.ofNum rb) = .ok () ∧ barBox s kind = .ok ()
    ∧ engineRoom s (dst == .loc && (LRec.ofNum rb).hull.isSome) = .ok () ∧ StoreReady s

/-- A copy has joined the engine's queue, its object holds STATUS 0, and the scoreboard covers a local destination. -/
def CopyQueued (s t : State) (obj : Word) (src dst : Space) (kind : CopyKind) (ra rb : Nat) : Prop :=
  (∃ op : CopyOp, t.me.copies = s.me.copies ++ [op] ∧ op.work = .copy kind src dst (LRec.ofNum ra) (LRec.ofNum rb)
      ∧ op.obj = obj.toNat ∧ op.hv = s.cur.hv ∧ op.launch = s.myLaunch ∧ op.running = false ∧ op.fin = 0
      ∧ op.elems = [] ∧ op.credited = 0 ∧ op.failed = none
      ∧ ∀ lo hi, dst = .loc → (LRec.ofNum rb).hull = some (lo, hi) →
          t.me.board = s.me.board ++ [⟨op.op, s.cur.hv, lo.toNat, hi.toNat⟩])
    ∧ StoredAt s t s.cur.core obj.toNat (List.replicate 8 0) ∧ SameRegs s t ∧ MovedOn s t 3

/-! ### Rows and lanes -/

/-- The type of the tile that holds a row (R209). -/
def rowType (s : State) (v : VReg) : TileType := s.me.tiles[v.val / 16].ty

/-- A row that the issuing context may use and that is present (R109, R210). -/
def RowReady (s : State) (v : VReg) : Prop := rowBarred s v = false ∧ RowPresent s v

/-- Row `v` is the only thing that the instruction has changed but for the context's pc, VFLAG and SRSEED: it is present, and every
other row, every tile type, every register and every byte of memory is as before. -/
def RowWritten (s t : State) (v : VReg) (len : Nat) : Prop :=
  RowPresent t v ∧ (∀ x : VReg, x ≠ v → t.me.row x = s.me.row x) ∧ (∀ x : VReg, rowType t x = rowType s x)
    ∧ SameRegs s t ∧ SameMemory s t ∧ MovedOn s t len

/-- Every lane of row `v` is given by `f`. -/
def LanesAre (s t : State) (v : VReg) (f : Nat → Nat) : Prop :=
  ∀ k, k < ruleLanes (rowType s v) → ruleLane (rowType s v) (t.me.row v).bits k = f k

/-- No row of a tile waits for a value (R172, R212). -/
def TilePresent (s : State) (x : TileNo) : Prop := ∀ i : Fin 16, (s.me.tiles[x].rows[i]).present = true

/-- A copy-engine operation has joined the queue with its object, and the object holds STATUS 0. -/
def ObjectStarted (s t : State) (obj : Nat) : Prop := StoredAt s t s.cur.core obj (List.replicate 8 0)

/-- The object of an instruction can be written at issue: aligned, in the context's part of local memory, without an error (R97). -/
def ObjectReady (s : State) (obj : Word) : Prop :=
  obj.toNat % 8 = 0 ∧ areaOk s obj.toNat 8 = true ∧ lmBad s s.cur.core (obj.toNat / 16) = false ∧ OwnDoorClear s obj.toNat 8
    ∧ StoreReady s

/-- A tdrain passes every check at issue: `w1` and `w2` are its two writes, and FMT2 15 leaves the second out (R227, R228). -/
def DrainReady (s : State) (d a b : SReg) (x : TileNo) (f1 f2 : Fin 16) (r1 r2 : Fin 8) (c1 c2 : BitVec 16)
    (w1 w2 : DrainWrite) (areas : List (Nat × Nat)) : Prop :=
  let l := ruleLanes s.me.tiles[x].ty
  w1 = ⟨f1.val, r1.val, (s.val a).toNat, c1.toNat, 16, l⟩ ∧ w2 = ⟨f2.val, r2.val, (s.val b).toNat, c2.toNat, l, 16⟩
    ∧ areas = w1.areas ++ (if f2.val ≠ 15 then w2.areas else [])
    ∧ Memory.wf s.me.lm.bytes = true ∧ rowBarred s (tileRow0 x) = false ∧ TilePresent s x ∧ Readable s d ∧ Readable s a
    ∧ (f2.val ≠ 15 → Readable s b) ∧ ObjectReady s (s.val d) ∧ (s.val a).toNat % 32 = 0
    ∧ (f2.val ≠ 15 → (s.val b).toNat % 32 = 0) ∧ c1.toNat % 32 = 0 ∧ c2.toNat % 32 = 0
    ∧ (∀ p ∈ areas, areaOk s (p.1 : Nat) p.2 = true) ∧ engineRoom s true = .ok ()

/-- The values and scales of one vector of a drain, and its events (R227): `x` are the vector's elements, `word k` the word that Step gives
for element k. -/
def RuleDrained (src : Nat) (w : DrainWrite) (cn : Nat) (word x : Nat → Nat) (vals scs : List Byte) (ev : BitVec 6) : Prop :=
  let sc := fun j => (scs.getD j 0).toNat
  vals.length = w.bytes ∧ scs.length = w.scales ∧ leNat vals < 2 ^ (w.len * ruleBits w.fmt)
    ∧ ∃ g : Nat → Nat, (∀ k, k < w.len → ruleElem w.fmt (leNat vals) k = g k)
      ∧ ((2 ≤ w.fmt ∧ w.fmt ≤ 6) →
          (∀ j, j < w.scales → RuleScale ((List.range (min 32 (w.len - 32 * j))).map (fun i => ruleElemNum src (x (32 * j + i))))
            w.fmt (sc j))
          ∧ (∀ k, k < w.len → RuleScaled src w.fmt cn w.rnd (word k) true (sc (k / 32)) (x k) (g k))
          ∧ ev = ruleJoin ((List.range w.scales).map (fun j => ruleScaleEvent (sc j))
              ++ (List.range w.len).map (fun k => ruleScaledEvents src w.fmt w.rnd (word k) true (sc (k / 32)) (x k))))
      ∧ (¬ (2 ≤ w.fmt ∧ w.fmt ≤ 6) →
          (∀ b ∈ scs, b = 0x7F) ∧ (∀ k, k < w.len → RuleConv src w.fmt cn w.rnd (word k) true 0 (x k) (g k))
          ∧ ev = ruleJoin ((List.range w.len).map (fun k => ruleConvEvents src w.fmt w.rnd (word k) true 0 (x k))))

/-- The unit writes of a drain's vectors, each vector's values and then its scales (R228). -/
def drainUnits (w : DrainWrite) (vals scs : Nat → List Byte) : List (Nat × List Byte) :=
  (List.range w.vecs).flatMap (fun i => unitWrites 16 (w.base + 256 * i) (vals i) ++ unitWrites 2 (w.sc + 32 * i) (scs i))

/-! ### Reeds -/

/-- The COLS and SCL fields of an operand register name areas of `nv` and `ns` bytes that the context may use (R163). -/
def AreasReady (s : State) (x : Word) (nv ns : Nat) : Prop :=
  x.toNat < 2 ^ 32 ∧ x.toNat % 65536 % 32 = 0 ∧ x.toNat / 65536 % 32 = 0 ∧ areaOk s (x.toNat % 65536 : Nat) nv = true
    ∧ areaOk s (x.toNat / 65536 : Nat) ns = true

/-- A command has joined the tail of one side's queue of a reed, with its issuing core and launch (R159). -/
def CommandQueued (s t : State) (reed : Nat) (east : Bool) (body : LoadCmd ⊕ FeedCmd) : Prop :=
  ∃ c, ((t.reed reed).queue east).getLast? = some c ∧ c.core = s.cur.core ∧ c.launch = s.myLaunch ∧ c.body = body
    ∧ ((t.reed reed).queue east).length = ((s.reed reed).queue east).length + 1

/-- The terms of one block of a dense product: elements 32j to 32j + 31 of a latched column and of a streamed row (R173). -/
def denseTerms (hf ff cn kb col row j : Nat) : List RuleTerm :=
  (List.range 32).map (fun e => (ruleReedElem hf cn kb col (32 * j + e), ruleReedElem ff cn kb row (32 * j + e)))

/-- The blocks of the partial sum of column `c` of a dense latch and a streamed row: their terms and their two scales (R162, R163, R173). -/
def denseBlocks (l : Latch) (ff cn kb : Nat) (vs ss : List Byte) (c : Nat) : List (List RuleTerm × Nat × Nat) :=
  let hf := l.cmd.fmt
  let w := usedBytes hf (passDepth hf)
  let col := leNat ((l.vals.drop (c * w)).take w)
  (List.range (min (passDepth hf) (passDepth ff) / 32)).map (fun j =>
    (denseTerms hf ff cn kb col (leNat vs) j, (l.scales.getD (c * (passDepth hf / 32) + j) 0).toNat, (ss.getD j 0).toNat))

/-- The members of a lane of a sparse latch, ascending: the place in the streamed row, and the value index q (R198, R202). -/
def sparseMembers (b : Binding) (tr : Bool) (lane : Nat) : List (Nat × Nat) :=
  let q := fun i j => ((List.range j).map (fun c => (b.cols.getD c []).length)).sum + ((b.cols.getD j []).filter (· < i)).length
  if tr then (if b.nrow ≤ lane then [] else
      ((List.range b.ncol).filter (fun j => (b.cols.getD j []).contains lane)).map (fun j => (j, q lane j)))
  else if b.ncol ≤ lane then [] else (b.cols.getD lane []).map (fun i => (i, q i lane))

/-- The blocks of the partial sum of a lane of a sparse latch: those of 32 places that hold a member (R202). -/
def sparseBlocks (l : Latch) (b : Binding) (ff cn kb : Nat) (vs ss : List Byte) (lane : Nat) : List (List RuleTerm × Nat × Nat) :=
  let ms := sparseMembers b l.cmd.tr lane
  ((List.range 16).filter (fun k => ms.any (fun m => m.1 / 32 == k))).map (fun k =>
    ((ms.filter (fun m => m.1 / 32 == k)).map (fun m =>
        (ruleReedElem l.cmd.fmt cn kb (leNat l.vals) m.2, ruleReedElem ff cn kb (leNat vs) m.1)),
      (l.scales.getD (if l.cmd.tr then lane / 32 else k) 0).toNat, (ss.getD k 0).toNat))

/-- The children of a node of the bellows above the slices, in the order in which it folds them: slices by sx, row nodes by sy, loaf roots by
number; those without a member are left out (R250, R256). -/
def ruleChildren (cores : List Nat) : BellowsNode → List BellowsNode
  | .slice _ => []
  | .srow l sy =>
    ((List.range 8).filter (fun sx => cores.any (fun c => loafOf c == l && c / 256 % 64 / 8 == sy && c % 64 / 8 == sx))).map
      (fun sx => .slice ((l / 4 * 8 + sy) * 32 + l % 4 * 8 + sx))
  | .loaf l => ((List.range 8).filter (fun sy => cores.any (fun c => loafOf c == l && c / 256 % 64 / 8 == sy))).map (.srow l)
  | .root => ((List.range 8).filter (fun l => cores.any (fun c => loafOf c == l))).map .loaf

/-! ### The results of R112 in the words of its table -/

/-- mulh: bits [127:64] of the 128-bit two's-complement product. -/
def ruleMulh (x y : Word) : Word := (x.signExtend 128 * y.signExtend 128).extractLsb' 64 64

/-- mulhu: bits [127:64] of the unsigned product. -/
def ruleMulhu (x y : Word) : Word := (x.setWidth 128 * y.setWidth 128).extractLsb' 64 64

/-- div: all ones for a zero divisor, x for the one overflow, else the quotient truncated toward zero. -/
def ruleDiv (x y : Word) : Word :=
  if y = 0 then 0xFFFFFFFFFFFFFFFF else if x.toInt = -2 ^ 63 ∧ y.toInt = -1 then x else BitVec.ofInt 64 (x.toInt.tdiv y.toInt)

/-- divu. -/
def ruleDivu (x y : Word) : Word := if y = 0 then 0xFFFFFFFFFFFFFFFF else BitVec.ofNat 64 (x.toNat / y.toNat)

/-- rem: x for a zero divisor, zero for the one overflow, else the remainder with the sign of x. -/
def ruleRem (x y : Word) : Word :=
  if y = 0 then x else if x.toInt = -2 ^ 63 ∧ y.toInt = -1 then 0 else BitVec.ofInt 64 (x.toInt - y.toInt * x.toInt.tdiv y.toInt)

/-- remu. -/
def ruleRemu (x y : Word) : Word := if y = 0 then x else BitVec.ofNat 64 (x.toNat % y.toNat)

/-- shl: the count is the whole of y. -/
def ruleShl (x y : Word) : Word := if 64 ≤ y.toNat then 0 else BitVec.ofNat 64 (x.toNat * 2 ^ y.toNat)

/-- shr. -/
def ruleShr (x y : Word) : Word := if 64 ≤ y.toNat then 0 else BitVec.ofNat 64 (x.toNat / 2 ^ y.toNat)

/-- sra: the floor of the quotient, with the count at most 63. -/
def ruleSra (x y : Word) : Word := BitVec.ofInt 64 (x.toInt / 2 ^ min y.toNat 63)

/-- clz: the count n of leading zero bits of x. -/
def LeadingZeros (x : Word) (n : Nat) : Prop :=
  n ≤ 64 ∧ (∀ i, i < 64 → 64 ≤ i + n → x.getLsbD i = false) ∧ (n < 64 → x.getLsbD (63 - n) = true)

/-- popc: the number of one bits. -/
def rulePopc (x : Word) : Word := BitVec.ofNat 64 ((List.range 64).countP (fun i => x.getLsbD i))

/-! ### Requests at their home (R69, R87, R241, R242) -/

/-- A request that has arrived and that its home may perform now: it is whole, the home may answer, it was not performed before, it overtakes
no earlier request to a common granule, and no earlier access holds its release. -/
def Serviceable (s : State) (k : Nat) (p : Packet) : Prop :=
  s.got k = some p ∧ p.trim = false ∧ canSend s p.dst p.src 2 = true ∧ s.isDone p = false
    ∧ overtakes s p = false ∧ relWaits s p = false ∧ cacheFull s p = false

/-- A request has left the fabric, and its answer is on its way on VN2 to the agent that sent it. -/
def Answered (t : State) (p : Packet) (r : Result) : Prop :=
  p ∉ t.net ∧ ∃ a ∈ t.net, a.src = p.dst ∧ a.dst = p.src ∧ a.vn = 2 ∧ a.who = p.who ∧ a.req = p.req
    ∧ a.body = if p.body.acked then .ack r else .rply r

/-- The `n` bytes of HBM at a place stand under its key and address, virtual or physical (R63, R363). -/
def Labelled (s : State) (g : GLoc) (n : Nat) : Prop :=
  ∀ i, i < n → mfind s.hbm.labels ((g.pa + i) / 32) = some (labelOf s g.key (g.va + i) g.phys)

/-- After `s`, the bytes of HBM from `pa` on are `bs`; every other byte of every memory is as before. -/
def HbmStored (s t : State) (pa : Nat) (bs : List Byte) : Prop :=
  (∀ i (h : i < bs.length), t.hbmByte (pa + i) = bs[i])
    ∧ (∀ x, (x < pa ∨ pa + bs.length ≤ x) → t.hbmByte x = s.hbmByte x)
    ∧ ∀ c x, t.lmByte c x = s.lmByte c x

/-- A page-table entry `x` stands at a physical address, without an error (R55, R363). -/
def EntryAt (s : State) (pte x : Nat) : Prop :=
  Memory.wf s.hbm.bytes = true ∧ pte % 8 = 0 ∧ hbmBadIn s pte 8 = false ∧ Labelled s (pteLoc pte) 8 ∧ x < 2 ^ 64
    ∧ leNat (cellRead s.hbm.bytes pte 8) = x

/-- The `n` bytes at `off` of a core were written under a launch's keystream (R363). -/
def KeysOf (s : State) (cn l off n : Nat) : Prop :=
  isSvc cn = true ∨ (l ≠ 0 ∧ ∀ i, i < n → mget (s.core cn).lm.keys (off + i) 0 = l)

/-- What memory of `w` bits holds after an atomic (R77). -/
def ruleAtom (o : AtomOp) (w old v c : Nat) : Nat :=
  match o with
  | .ld => old
  | .swp => v
  | .cas => if old = c then v else old
  | .add => (old + v) % 2 ^ w
  | .and => old &&& v
  | .or => old ||| v
  | .max => if (BitVec.ofNat w old).toInt < (BitVec.ofNat w v).toInt then v else old
  | .min => if (BitVec.ofNat w v).toInt < (BitVec.ofNat w old).toInt then v else old

/-- A door serves a request's bytes, and none of them has an uncorrectable error (R87, R82, R319, R325). -/
def DoorOpen (s : State) (p : Packet) (off n : Nat) : Prop :=
  doorView s p.dst p.launch p.hv p.req off n = .serve ∧ lmBadIn s p.dst off n = none

/-- The 32 bytes of an object, as the number that R103 and R258 lay out. -/
def objNum (s : State) (cn off : Nat) : Nat := leNat (cellRead (s.core cn).lm.bytes off 32)

/-- A fault of a door operation names the peer address of its offset (R88). -/
def peerNum (p : Packet) (off : Nat) : Word := BitVec.ofNat 64 (p.dst * 65536 + off)

/-- An engine may write the object at `obj` of a core for a party of a launch: the launch is on the core, or the party is the
harvest, and the unit has no uncorrectable error (R97, R82). -/
def ObjectOpen (s : State) (cn launch obj : Nat) (hv : Bool) : Prop :=
  Memory.wf (s.core cn).lm.bytes = true ∧ (hv = true ∨ (s.core cn).launch = launch) ∧ lmBad s cn (obj / 16) = false

/-- An object holds STATUS, CAUSE and COUNT (R97), and nothing else of any memory has changed. -/
def ObjectHolds (s t : State) (cn obj status cause count : Nat) : Prop :=
  StoredAt s t cn obj (natLe 8 (status * 2 ^ 56 + cause * 2 ^ 48 + count % 2 ^ 48))

/-- A fault waits for a context: it is the last of its list, or the list was full and POVF is set (R336). -/
def FaultPending (s t : State) (cn : Nat) (hv : Bool) (p : Pend) : Prop :=
  if (s.ctxOf cn hv).async.length < 8 then (t.ctxOf cn hv).async = (s.ctxOf cn hv).async ++ [p] else (t.ctxOf cn hv).povf = true

/-! ### Launches and issue -/

/-- The crust has taken a request and reads its tables under the launcher's root (R307). -/
def probing (s : State) (req : Nat) (r : LReq) (g : Grant) : State :=
  { s with lreqs := s.lreqs.filter (fun x => x.id != req), launches := s.launches ++ [probeLaunch s r g] }

/-- A mapped queue of a core's slice, with its slot, holds a record and is eligible for the core (R293). -/
def Eligible (s : State) (cn : Nat) (m : Nat × QSlot × Launch) : Prop :=
  (m.1, m.2.1) ∈ (s.slice (sliceOf cn)).slots ∧ s.launch m.2.1.name.launch = some m.2.2 ∧ m.2.1.head ≠ m.2.1.tail
    ∧ eligibleFor s m.2.2 m.2.1.name.idx cn = true

/-- A channel that a context may pick from has an eligible record (R293, R294). -/
def ReadyChan (s : State) (cn : Nat) (hv : Bool) (c : Nat) : Prop :=
  (if hv then c = 7 else c < 7) ∧ ∃ m, Eligible s cn m ∧ effChan m.2.2 m.2.1.name.idx = c

/-- Since(c) of a core (R294). -/
def sinceOf (s : State) (cn c : Nat) : Nat := ((s.core cn).since[c]?).getD 0

/-- The pick of R294: channel `k` is the aged one with the smallest Since, or without an aged one the lowest, and slot `n`, which holds queue `q`
of launch `l`, is the first after Last of the channel. -/
def PickOf (s : State) (cn : Nat) (hv : Bool) (k n : Nat) (q : QSlot) (l : Launch) : Prop :=
  let aged := fun c => ReadyChan s cn hv c ∧ 64000 ≤ s.time - sinceOf s cn c
  let after := fun m => (m + 127 - (((s.core cn).lastChan[k]?).getD 0) % 64) % 64
  ReadyChan s cn hv k ∧ ((∀ c, ¬ aged c) → ∀ c, ReadyChan s cn hv c → k ≤ c)
    ∧ (∀ c, aged c → aged k ∧ (sinceOf s cn k < sinceOf s cn c ∨ (sinceOf s cn k = sinceOf s cn c ∧ k ≤ c)))
    ∧ n < 64 ∧ mfind (s.slice (sliceOf cn)).slots n = some q ∧ Eligible s cn (n, q, l) ∧ effChan l q.name.idx = k
    ∧ ∀ m, Eligible s cn m → effChan m.2.2 m.2.1.name.idx = k → m.1 < 64 → after n ≤ after m.1

/-- A register of a context waits for an access's reply, which the context takes (R66, R345). -/
def WaitsFor (s : State) (cn : Nat) (hv : Bool) (out : Nat) (d : SReg) : Prop :=
  ∃ o, (s.ctxOf cn hv).out.find? (fun x => x.id == out) = some o ∧ o.dest = .reg d .d
    ∧ (o.handler = true ∨ ((s.ctxOf cn hv).inh = false ∧ (s.ctxOf cn hv).stop = false))
    ∧ (s.core cn).banked hv = false

/-- A context whose turn it is fetches: it may issue, no fault is due whatever its next instruction is, its task goes on, no arrival is unchecked, and the line of
its pc is there and well formed (R33..R38). `u` is the state with the line's translation, `l` the line. -/
def Fetches (s u : State) (l : Line) : Prop :=
  mayIssue s s.cur.core s.cur.hv = true ∧ dueFault s s.cur.core s.cur.hv = none
    ∧ s.ctx.units = none ∧ s.ctx.ending = none ∧ s.ctx.pflt = none
    ∧ s.ctx.moving = none ∧ s.ctx.arrive = .none ∧ s.ctx.closedFrom = none
    ∧ fetchLine s s.ctx.pc s.ctx.pc = .ok (u, l) ∧ l.state = .ok

end Sys2Proof.Machine
end

