-- ==== Sys2Proof/Certificates/Slice0/Obligations.lean ====
section
/-! DEFINITION. The statements about the part, for the provers. -/

open Sys2Proof Sys2Proof.Machine

/-! ### Scalar arithmetic (spec/05) -/

/-- R112 with R24: the result of every register operation, from its sources as they were at issue, for every choice of registers; and every
literal form has the result of its register form with the literal as y, and is three words long. R113 to R116: the immediate operations
with a sign-extended 16-bit immediate and with a 64-bit literal; constant shifts, the extracted field, the inserted field bit by bit, and
lea's address of a line. -/
def Obligations.ScalarOperationResults : Prop :=
  (∀ (s : State) (d a b c : SReg), Readable s a → Readable s b → Readable s c → Present s d →
    let x := s.val a
    let y := s.val b
    exec (.add d a b) s = .next (wrote s d (x + y) 1)
    ∧ exec (.sub d a b) s = .next (wrote s d (x - y) 1)
    ∧ exec (.mul d a b) s = .next (wrote s d (x * y) 1)
    ∧ exec (.mulh d a b) s = .next (wrote s d (ruleMulh x y) 1)
    ∧ exec (.mulhu d a b) s = .next (wrote s d (ruleMulhu x y) 1)
    ∧ exec (.div d a b) s = .next (wrote s d (ruleDiv x y) 1)
    ∧ exec (.divu d a b) s = .next (wrote s d (ruleDivu x y) 1)
    ∧ exec (.rem d a b) s = .next (wrote s d (ruleRem x y) 1)
    ∧ exec (.remu d a b) s = .next (wrote s d (ruleRemu x y) 1)
    ∧ exec (.and d a b) s = .next (wrote s d (x &&& y) 1)
    ∧ exec (.or d a b) s = .next (wrote s d (x ||| y) 1)
    ∧ exec (.xor d a b) s = .next (wrote s d (x ^^^ y) 1)
    ∧ exec (.shl d a b) s = .next (wrote s d (ruleShl x y) 1)
    ∧ exec (.shr d a b) s = .next (wrote s d (ruleShr x y) 1)
    ∧ exec (.sra d a b) s = .next (wrote s d (ruleSra x y) 1)
    ∧ exec (.min d a b) s = .next (wrote s d (if x.toInt ≤ y.toInt then x else y) 1)
    ∧ exec (.max d a b) s = .next (wrote s d (if x.toInt ≥ y.toInt then x else y) 1)
    ∧ exec (.minu d a b) s = .next (wrote s d (if x.toNat ≤ y.toNat then x else y) 1)
    ∧ exec (.maxu d a b) s = .next (wrote s d (if x.toNat ≥ y.toNat then x else y) 1)
    ∧ exec (.cmpeq d a b) s = .next (wrote s d (if x = y then 1 else 0) 1)
    ∧ exec (.cmplt d a b) s = .next (wrote s d (if x.toInt < y.toInt then 1 else 0) 1)
    ∧ exec (.cmpltu d a b) s = .next (wrote s d (if x.toNat < y.toNat then 1 else 0) 1)
    ∧ (∃ n, LeadingZeros x n ∧ exec (.clz d a) s = .next (wrote s d (BitVec.ofNat 64 n) 1))
    ∧ exec (.popc d a) s = .next (wrote s d (rulePopc x) 1)
    ∧ exec (.sel d a b c) s = .next (wrote s d (if s.val c ≠ 0 then x else y) 1))
  ∧ (∀ (s : State) (d a c : SReg) (y : Word), Readable s a → Readable s c → Present s d →
    let x := s.val a
    exec (.addLit d a y) s = .next (wrote s d (x + y) 3)
    ∧ exec (.subLit d a y) s = .next (wrote s d (x - y) 3)
    ∧ exec (.mulLit d a y) s = .next (wrote s d (x * y) 3)
    ∧ exec (.mulhLit d a y) s = .next (wrote s d (ruleMulh x y) 3)
    ∧ exec (.mulhuLit d a y) s = .next (wrote s d (ruleMulhu x y) 3)
    ∧ exec (.divLit d a y) s = .next (wrote s d (ruleDiv x y) 3)
    ∧ exec (.divuLit d a y) s = .next (wrote s d (ruleDivu x y) 3)
    ∧ exec (.remLit d a y) s = .next (wrote s d (ruleRem x y) 3)
    ∧ exec (.remuLit d a y) s = .next (wrote s d (ruleRemu x y) 3)
    ∧ exec (.andLit d a y) s = .next (wrote s d (x &&& y) 3)
    ∧ exec (.orLit d a y) s = .next (wrote s d (x ||| y) 3)
    ∧ exec (.xorLit d a y) s = .next (wrote s d (x ^^^ y) 3)
    ∧ exec (.shlLit d a y) s = .next (wrote s d (ruleShl x y) 3)
    ∧ exec (.shrLit d a y) s = .next (wrote s d (ruleShr x y) 3)
    ∧ exec (.sraLit d a y) s = .next (wrote s d (ruleSra x y) 3)
    ∧ exec (.minLit d a y) s = .next (wrote s d (if x.toInt ≤ y.toInt then x else y) 3)
    ∧ exec (.maxLit d a y) s = .next (wrote s d (if x.toInt ≥ y.toInt then x else y) 3)
    ∧ exec (.minuLit d a y) s = .next (wrote s d (if x.toNat ≤ y.toNat then x else y) 3)
    ∧ exec (.maxuLit d a y) s = .next (wrote s d (if x.toNat ≥ y.toNat then x else y) 3)
    ∧ exec (.cmpeqLit d a y) s = .next (wrote s d (if x = y then 1 else 0) 3)
    ∧ exec (.cmpltLit d a y) s = .next (wrote s d (if x.toInt < y.toInt then 1 else 0) 3)
    ∧ exec (.cmpltuLit d a y) s = .next (wrote s d (if x.toNat < y.toNat then 1 else 0) 3)
    ∧ exec (.selLit d a c y) s = .next (wrote s d (if s.val c ≠ 0 then x else y) 3))
  ∧ (∀ (s : State) (d a : SReg) (i : BitVec 16) (l : Word), Readable s a → Present s d →
    exec (.addi d a i) s = .next (wrote s d (s.val a + i.signExtend 64) 1)
    ∧ exec (.andi d a i) s = .next (wrote s d (s.val a &&& i.signExtend 64) 1)
    ∧ exec (.ori d a i) s = .next (wrote s d (s.val a ||| i.signExtend 64) 1)
    ∧ exec (.xori d a i) s = .next (wrote s d (s.val a ^^^ i.signExtend 64) 1)
    ∧ exec (.li d i) s = .next (wrote s d (i.signExtend 64) 1)
    ∧ exec (.addiLit d a l) s = .next (wrote s d (s.val a + l) 3)
    ∧ exec (.andiLit d a l) s = .next (wrote s d (s.val a &&& l) 3)
    ∧ exec (.oriLit d a l) s = .next (wrote s d (s.val a ||| l) 3)
    ∧ exec (.xoriLit d a l) s = .next (wrote s d (s.val a ^^^ l) 3)
    ∧ exec (.liLit d l) s = .next (wrote s d l 3))
  ∧ (∀ (s : State) (d a : SReg) (n p w : Fin 64) (i : BitVec 16) (l : Word), Readable s a → Present s d →
    exec (.shli d a n) s = .next (wrote s d (ruleShl (s.val a) (BitVec.ofNat 64 n)) 1)
    ∧ exec (.shri d a n) s = .next (wrote s d (ruleShr (s.val a) (BitVec.ofNat 64 n)) 1)
    ∧ exec (.srai d a n) s = .next (wrote s d (ruleSra (s.val a) (BitVec.ofNat 64 n)) 1)
    ∧ (p.val + w.val < 64 → ∃ x : Word,
        exec (.bext d a p w) s = .next (wrote s d x 1)
        ∧ ∀ j, x.getLsbD j = (decide (j ≤ w.val) && (s.val a).getLsbD (p.val + j)))
    ∧ (p.val + w.val < 64 → NoBarAt s d → ∃ x : Word,
        exec (.bins d a p w) s = .next (wrote s d x 1)
        ∧ ∀ j, j < 64 → x.getLsbD j =
            if p.val ≤ j ∧ j ≤ p.val + w.val then (s.val a).getLsbD (j - p.val) else (s.val d).getLsbD j)
    ∧ exec (.lea d i) s = .next (wrote s d (BitVec.ofNat 64 (s.ctx.pc.toNat / 128 * 128) + i.signExtend 64) 1)
    ∧ exec (.leaLit d l) s = .next (wrote s d l 3))

/-- The frame of the scalar instructions of R112..R116, in every form: when no BAR_OVER is pending and the instruction's wait has not passed
its bound, whether it completes or waits, nothing but the issuing context changes, no byte of memory changes, and in the context no
register but the destination, no special register, no handle and nothing of the reserve bank. R109 and R110: the first register that is
not present, among the sources in their order and then the destination, makes the instruction wait under its number; once the wait has
passed its bound, PRESENCE_TIMEOUT is taken instead, with that number as EVAL. -/
def Obligations.ScalarFrameAndWait : Prop :=
  (∀ (s t : State) (i : Instr) (d : SReg), scalarDest i = some d → NoBar s → s.ctx.overdue = false → exec i s = .next t →
    OnlyCtx s t ∧ SameMemory s t ∧ SameCtxButRegs s t ∧ SameRegsBut s t d)
  ∧ (∀ (s : State) (i : Instr) (d r : SReg) (before after : List SReg), scalarDest i = some d → NoBar s →
    scalarReads i = before ++ r :: after → (∀ x ∈ before, Present s x) → ¬ Present s r →
    (s.ctx.overdue = false →
      ∃ t, exec i s = .next t ∧ SameRegs s t ∧ SameMemory s t ∧ OnlyCtx s t ∧ t.ctx.pc = s.ctx.pc
        ∧ (t.ctx.stall.bind (·.code)) = some r.val)
    ∧ (s.ctx.overdue = true → exec i s = .next (precise s .presenceTimeout (BitVec.ofNat 64 r.val))))

/-! ### Control flow (spec/05, spec/02) -/

/-- R118, R119 and R120: a taken branch, a call and a return go to a target that passes its checks, and a call writes its link
register with the address of the next instruction; a branch that is not taken goes on and checks nothing of its target. -/
def Obligations.BranchCallAndReturn : Prop :=
  (∀ (s u : State) (δ : BitVec 7) (w : Fin 32), TargetReady s (ruleTarget s.ctx.pc δ w) .target u →
      exec (.b δ w) s = .next (u.jump (ruleTarget s.ctx.pc δ w)).ran)
  ∧ (∀ (s u : State) (t : Word), TargetReady s t .target u → exec (.bLit t) s = .next (u.jump t).ran)
  ∧ (∀ (s : State) (c : Cond) (a b : SReg) (δ : BitVec 7) (w : Fin 32) (t : Word), Readable s a →
      (c ≠ .z → c ≠ .nz → Readable s b) →
      (ruleCond c (s.val a) (s.val b) → ∀ u, TargetReady s (ruleTarget s.ctx.pc δ w) .target u →
        exec (.bc c a b δ w) s = .next (u.jump (ruleTarget s.ctx.pc δ w)).ran)
      ∧ (ruleCond c (s.val a) (s.val b) → ∀ u, TargetReady s t .target u →
        exec (.bcLit c a b t) s = .next (u.jump t).ran)
      ∧ (¬ ruleCond c (s.val a) (s.val b) →
        exec (.bc c a b δ w) s = .next (s.advance 1).ran ∧ exec (.bcLit c a b t) s = .next (s.advance 3).ran))
  ∧ (∀ (s u : State) (l : SReg) (δ : BitVec 7) (w : Fin 32), Present s l →
      TargetReady s (ruleTarget s.ctx.pc δ w) .function u →
      exec (.call l δ w) s = .next ((u.setReg l (s.ctx.pc + 4)).jump (ruleTarget s.ctx.pc δ w)).ran)
  ∧ (∀ (s u : State) (l : SReg) (t : Word), Present s l → TargetReady s t .function u →
      exec (.callLit l t) s = .next ((u.setReg l (s.ctx.pc + 12)).jump t).ran)
  ∧ (∀ (s u : State) (l a : SReg), Present s l → Readable s a → TargetReady s (s.val a) .function u →
      exec (.callr l a) s = .next ((u.setReg l (s.ctx.pc + 4)).jump (s.val a)).ran)
  ∧ (∀ (s u : State) (a : SReg), Readable s a → TargetReady s (s.val a) .target u →
      exec (.ret a) s = .next (u.jump (s.val a)).ran)

/-- R37: the first failing check of a transfer's target decides its precise fault, whose EVAL is the target, and the
transferring instruction has no effect of its own before the trap is taken: canonical address, place of the word, translation,
error of the line, form of the line, mark of the word. -/
def Obligations.TargetFaultOrder : Prop :=
  ∀ (s : State) (i : Instr) (t : Word) (a : Arrive), Transfers s i t a →
    (isCanon t = false → exec i s = .next (precise s .addrNoncanon t))
    ∧ (isCanon t = true → (t.toNat % 4 ≠ 0 ∨ t.toNat / 4 % 32 < 2) → exec i s = .next (precise s .targetUnmarked t))
    ∧ (isCanon t = true → t.toNat % 4 = 0 → 2 ≤ t.toNat / 4 % 32 →
      (∀ c v, fetchLine s t t = .error (.trap c v) → v = t ∧ exec i s = .next (precise s c t))
      ∧ ∀ u x, fetchLine s t t = .ok (u, x) →
        (x.state = .ecc → exec i s = .next (precise s .eccUncorr t))
        ∧ (x.state = .malformed → exec i s = .next (precise s .lineMalformed t))
        ∧ (x.state = .ok → arriveOk a x (t.toNat / 4 % 32) = false → exec i s = .next (precise s .targetUnmarked t)))

/-- R121 and R122: done and cont end their task. With no access outstanding the context is free at once, and the record that cont posts
goes to its queue, or waits for room; otherwise the context keeps what it has to do: nothing, or that record, with the target, the mask,
the registers of the mask in number order, and the task's channel, affinity, EXCL and LOAN_LOST. That a post waits for the context's
earlier messages and lane words too is R290 as log 138 reads it. -/
def Obligations.TaskEndByDoneAndCont : Prop :=
  (∀ s : State, NoBar s →
    (Quiet s → exec .done s = .next (freeCtx (s.ended .drop) s.cur.core s.cur.hv).ran)
    ∧ (¬ Quiet s → ∃ t, exec .done s = .next t ∧ t.ctx.ending = some .drop ∧ t.ctx.task = s.ctx.task ∧ SameRegs s t))
  ∧ (∀ (s : State) (a : SReg) (δ : BitVec 7) (w : Fin 32) (x : Word) (k : Task), NoBar s → Readable s a → s.ctx.task = some k →
      (∀ r : SReg, (s.val a).getLsbD r.val = true → Present s r) →
      let Ends : Instr → Word → Prop := fun i y =>
        let r := endRecord k s.ctx.regs ((s.val a).setWidth 16) y
        ∀ u, TargetReady s y .target u → needRoom u r none = .ok () →
          r.pc = y.setWidth 48 ∧ r.mask = (s.val a).setWidth 16 ∧ r.launch = k.launch ∧ r.chan = k.chan ∧ r.akind = k.akind
            ∧ r.aid = k.aid ∧ r.excl = k.excl ∧ r.loanLost = k.loanLost
            ∧ (∀ i : SReg, r.saved[i] = if (s.val a).getLsbD i.val then s.val i else 0)
            ∧ (Quiet s → exec i s = .next (postedEnd (u.ended (.post r)) s.cur.core s.cur.hv r).ran)
            ∧ (¬ Quiet s → ∃ t, exec i s = .next t ∧ t.ctx.ending = some (.post r) ∧ t.ctx.task = s.ctx.task ∧ SameRegs s t)
      Ends (.cont a δ w) (ruleTarget s.ctx.pc δ w) ∧ Ends (.contLit a x) x)

/-! ### Lanes and messages (spec/05) -/

/-- R126 with R123 and R124: nput sends its register's value on the lane to the neighbour and spends one credit; nget makes its destination
non-present and waits for a word, or takes the oldest buffered word at once and starts a credit back to the sender. A word of the owner
launch leaves the link for the receiver's buffer, or for the register of the nget that waits, and a credit that returns can be spent
again; neither moves while the link waits for a retrain (R240). -/
def Obligations.LaneInstructionsAndEvents : Prop :=
  (∀ (s : State) (a : SReg) (r : Dir) (m : Nat), s.cur.hv = false → nbr s.cur.core r = some m →
    s.placed s.myLaunch m = true → Readable s a → StoreReady s → 0 < (s.me.lane r).credits →
    ∃ t w, exec (.nput a r) s = .next t ∧ w.word = s.val a ∧ w.launch = s.myLaunch
      ∧ ((t.core m).lane (dirBack r)).link = ((s.core m).lane (dirBack r)).link ++ [w]
      ∧ (t.me.lane r).credits + 1 = (s.me.lane r).credits
      ∧ (t.ctx.pc, t.ctx.closedFrom) = s.ctx.nextPc 1 ∧ SameRegs s t ∧ SameMemory s t)
  ∧ (∀ (s : State) (d : SReg) (r : Dir) (m : Nat), s.cur.hv = false → nbr s.cur.core r = some m →
    s.placed s.myLaunch m = true → Present s d → LoadReady s → (∀ g ∈ s.ctx.ngets, g.dir ≠ r) →
    ((s.me.lane r).buf = [] →
      ∃ t g, exec (.nget d r) s = .next t ∧ t.ctx.ngets = s.ctx.ngets ++ [g] ∧ g.dir = r ∧ g.dest = some d
        ∧ g.epc = s.ctx.pc ∧ ¬ Present t d ∧ SameRegsBut s t d ∧ SameMemory s t
        ∧ (t.ctx.pc, t.ctx.closedFrom) = s.ctx.nextPc 1)
    ∧ (∀ w rest, (s.me.lane r).buf = w :: rest → s.ctx.stop = false →
      ∃ t, exec (.nget d r) s = .next t ∧ t.val d = w.word ∧ Present t d ∧ SameRegsBut s t d ∧ SameMemory s t
        ∧ t.ctx.ngets = s.ctx.ngets ∧ (t.me.lane r).buf = rest
        ∧ ((t.core m).lane (dirBack r)).back = ((s.core m).lane (dirBack r)).back ++ [w.launch]
        ∧ (t.ctx.pc, t.ctx.closedFrom) = s.ctx.nextPc 1))
  ∧ (∀ (s : State) (cn m : Nat) (r : Dir) (w : LaneWord) (rest : List LaneWord), nbr cn r = some m →
    ((s.core cn).lane r).link = w :: rest → w.launch = (s.core cn).launch → laneHeld s cn r = false →
    ((∀ g ∈ (s.ctxOf cn false).ngets, g.dir ≠ r) → ((s.core cn).lane r).buf.length < 4 →
      ∃ t, exec (.laneWordArrival cn r) s = .next t ∧ SameMemory s t ∧ ((t.core cn).lane r).link = rest
        ∧ ((t.core cn).lane r).buf = ((s.core cn).lane r).buf ++ [w] ∧ (t.ctxOf cn false).regs = (s.ctxOf cn false).regs)
    ∧ (∀ g d, ((s.core cn).lane r).buf = [] → (s.ctxOf cn false).ngets.find? (fun g => g.dir == r) = some g → g.dest = some d →
      (s.ctxOf cn false).inh = false → (s.ctxOf cn false).stop = false →
      ∃ t, exec (.laneWordArrival cn r) s = .next t ∧ SameMemory s t ∧ ((t.core cn).lane r).link = rest
        ∧ ((t.core cn).lane r).buf = [] ∧ (t.ctxOf cn false).regs[d] = ⟨w.word, true⟩
        ∧ (∀ x : SReg, x ≠ d → (t.ctxOf cn false).regs[x] = (s.ctxOf cn false).regs[x])
        ∧ (t.ctxOf cn false).ngets = (s.ctxOf cn false).ngets.erase g
        ∧ ((t.core m).lane (dirBack r)).back = ((s.core m).lane (dirBack r)).back ++ [w.launch]))
  ∧ (∀ (s : State) (cn : Nat) (r : Dir) (rest : List Nat),
    ((s.core cn).lane r).back = (s.core cn).launch :: rest → laneHeld s cn r = false →
    ∃ t, exec (.laneCreditReturn cn r) s = .next t ∧ SameMemory s t ∧ ((t.core cn).lane r).back = rest
      ∧ ((t.core cn).lane r).credits = ((s.core cn).lane r).credits + 1)

/-- R127, R128 and R290: send puts one message on VN1 to the destination core, with the handler and the carried registers in order, as a
release, and spends a credit; a message that arrives is posted on channel 1 as a record of its destination core, with the carried values
in s0 upward and the sender's number in s15, and its source has its send credit back. That the credit returns when the record is accepted
is the model's reading (log 46). -/
def Obligations.MessageSendAndArrival : Prop :=
  (∀ (s : State) (d a b : SReg) (n : Fin 8) (h : Word), s.cur.hv = false → Readable s a → Readable s b →
    (∀ i, i < n.val → Readable s (Fin.ofNat 16 (d.val + i))) →
    (s.val a).toNat < 32768 → s.placed s.myLaunch (s.val a).toNat = true → StoreReady s → s.ctx.sends < 8 →
    canSend s s.cur.core (s.val a).toNat 1 = true →
    let Msg : State → Word → Nat → Prop := fun t x len =>
      ∃ p, t.net = s.net ++ [p] ∧ p.src = s.cur.core ∧ p.dst = (s.val a).toNat ∧ p.vn = 1 ∧ p.launch = s.myLaunch
        ∧ p.rel = true ∧ p.body = .msg x ((List.range n.val).map (fun i => s.val (Fin.ofNat 16 (d.val + i))))
        ∧ t.ctx.sends = s.ctx.sends + 1 ∧ (t.ctx.pc, t.ctx.closedFrom) = s.ctx.nextPc len ∧ SameRegs s t ∧ SameMemory s t
    let Handler : Word → Prop := fun x => isCanon x = true ∧ x.toNat % 4 = 0 ∧ 2 ≤ x.toNat / 4 % 32
    (Handler (s.val b) → ∃ t, exec (.send d a b n) s = .next t ∧ Msg t (s.val b) 1)
    ∧ (Handler h → ∃ t, exec (.sendLit d a n h) s = .next t ∧ Msg t h 3))
  ∧ (∀ (s u : State) (k : Nat) (p : Packet) (h : Word) (vals : List Word), s.got k = some p → p.body = .msg h vals → p.trim = false →
    vals.length ≤ 7 → (p.e = true → (s.core p.dst).fab.executed p.src p.vn p.seq = false) → relWaits s p = false →
    messageBehind s p = false → (s.launch p.launch).isSome →
    let r := messageRecord p h vals
    post s r p.dst (some 1) = some u →
    r.launch = p.launch ∧ r.akind = 0 ∧ r.aid = p.dst ∧ r.pc = h.setWidth 48 ∧ r.saved[(15 : Fin 16)] = BitVec.ofNat 64 p.src
      ∧ (∀ i : Fin 15, r.saved[i.castSucc] = vals.getD i.val 0) ∧ r.mask = 0xFFFF
      ∧ ∃ t, exec (.msg k) s = .next t ∧ p ∉ t.net ∧ t.slices = u.slices
        ∧ ∀ hv, p.who = .ctx hv → (t.ctxOf p.src hv).sends = (u.ctxOf p.src hv).sends - 1)

/-! ### Peer memory, rings and barriers (spec/04, spec/13) -/

/-- R92, R93 and R77: ldp, stp and stp.n send one request to the door of the core that the exact sum names, with its offset; ldp makes its
destination non-present. amol sends its operation, its operand and for cas its compare value to the door, with the order that its suffix
names, and makes its destination non-present. -/
def Obligations.PeerAccesses : Prop :=
  (∀ (s : State) (d a b : SReg) (z : LoadSize) (x : StoreSize) (k : Bool) (l : Word), Readable s a → Readable s b →
    let Case : Word → Nat → (SReg → Instr) → (SReg → Instr) → (SReg → Instr) → Prop := fun y len ldp stp stpN =>
      let sum := (s.val a).toNat + y.toNat
      let pa := BitVec.ofNat 64 sum
      (Present s d → LoadReady s → SendReady s true (sum / 65536) → PeerPlace s sum (szBytes z) →
        ∃ t, exec (ldp d) s = .next t
          ∧ SentFor s t d (sum / 65536) (.drd (sum % 65536) (szBytes z)) true (.reg d z) pa false false len)
      ∧ (Readable s d → StoreReady s → SendReady s true (sum / 65536) → PeerPlace s sum (stBytes x) →
        ∃ t, exec (stp d) s = .next t ∧ SameRegs s t
          ∧ Sent s t (sum / 65536) (.dwr (sum % 65536) (natLe (stBytes x) (s.val d).toNat)) true .none pa false false len)
      ∧ (Readable s d → StoreReady s → SendReady s true (sum / 65536) → PeerPlace s sum 1 →
        ∃ t, exec (stpN d) s = .next t ∧ SameRegs s t
          ∧ Sent s t (sum / 65536) (.nibble (sum % 65536) k ((s.val d).setWidth 4)) true .none pa false false len)
    Case (s.val b) 1 (fun d => .ldp d a b z) (fun d => .stp d a b x) (fun d => .stpN d a b k)
    ∧ Case l 3 (fun d => .ldpLit d a z l) (fun d => .stpLit d a x l) (fun d => .stpNLit d a k l))
  ∧ (∀ (s : State) (o : AtomOp) (dbl : Bool) (r : AtomOrd) (d a b : SReg) (l : Word), Readable s a → Present s d →
    (o ≠ .ld → Readable s b) → (o = .cas → Readable s d) → StoreReady s →
    let sum := (s.val a).toNat
    let c : Word := if o = .cas then s.val d else 0
    SendReady s true (sum / 65536) → DatRoom s (sum / 65536) → PeerPlace s sum (if dbl then 8 else 4) →
    (∃ t, exec (.amol o dbl r d a b) s = .next t
      ∧ SentFor s t d (sum / 65536) (.dat (sum % 65536) (.atom o dbl (if o = .ld then 0 else s.val b) c)) true (.reg d .d)
          (s.val a) (atomAcq r) (atomRel r) 1)
    ∧ (∃ t, exec (.amolLit o dbl r d a l) s = .next t
      ∧ SentFor s t d (sum / 65536) (.dat (sum % 65536) (.atom o dbl l c)) true (.reg d .d) (s.val a) (atomAcq r)
          (atomRel r) 3))

/-- R105 and R106: the ring operations send their door operation to the ring's descriptor; qwait is an acquire and qpub a release. A handle of
the other role is ILLEGAL_OP with EVAL the instruction word. qbind sends its request to the descriptor's door: the producer's form goes on
with its destination non-present and the handle waiting for the result; the consumer's form waits at the instruction for the reply, with
the number of producers that the low four bits of its register give. An operation on a handle whose qbind is under way waits, under the
number of that qbind's destination. -/
def Obligations.RingInstructions : Prop :=
  (∀ (s : State) (h : HandleNo) (d a : SReg) (desc : Word) (x y z p : Nat), StoreReady s →
    SendReady s true (peerCore desc) → DatRoom s (peerCore desc) →
    let Plain : State → DoorOp → Prop := fun t op =>
      SameRegs s t ∧ Sent s t (peerCore desc) (.dat (peerOff desc) op) true .none desc false false 1
    let Result : State → DoorOp → Bool → Bool → Prop := fun t op acq rel =>
      SentFor s t d (peerCore desc) (.dat (peerOff desc) op) true (.reg d .d) desc acq rel 1
    (s.ctx.handles[h] = .consumer desc x y z →
      (Present s d → ∃ t, exec (.qwait h d) s = .next t ∧ Result t .qwait true false)
      ∧ (∃ t, exec (.qadv h) s = .next t ∧ Plain t .qadv)
      ∧ exec (.qres h d) s = .next (precise s .illegalOp (firstWord (.qres h d)))
      ∧ exec (.qpub h d a) s = .next (precise s .illegalOp (firstWord (.qpub h d a)))
      ∧ exec (.qeos h) s = .next (precise s .illegalOp (firstWord (.qeos h))))
    ∧ (s.ctx.handles[h] = .producer desc p x y z →
      (Present s d → ∃ t, exec (.qres h d) s = .next t ∧ Result t (.qres p) false false)
      ∧ (Present s d → Readable s a → ∃ t, exec (.qpub h d a) s = .next t ∧ Result t (.qpub p (s.val a)) false true)
      ∧ (∃ t, exec (.qeos h) s = .next t ∧ Plain t (.qeos p))
      ∧ exec (.qwait h d) s = .next (precise s .illegalOp (firstWord (.qwait h d)))
      ∧ exec (.qadv h) s = .next (precise s .illegalOp (firstWord (.qadv h)))))
  ∧ (∀ (s : State) (h : HandleNo) (d a b : SReg), Readable s a → Present s d → StoreReady s →
    (∀ x, s.ctx.handles[h] ≠ .binding x) →
    let desc := s.val a
    SendReady s true (peerCore desc) → DatRoom s (peerCore desc) → PeerPlace s desc.toNat 32 →
    (∃ t, exec (.qbindP h d a) s = .next t
      ∧ SentFor s t d (peerCore desc) (.dat (peerOff desc) .bindP) true (.bindP (some d) h) desc false false 1
      ∧ t.ctx.handles[h] = .binding d)
    ∧ (Readable s b → peerCore desc = s.cur.core → (∀ o ∈ s.ctx.out, o.serial = false) →
      ∃ t p o, exec (.qbindC h d a b) s = .next t ∧ t.net = s.net ++ [p] ∧ p.dst = s.cur.core
        ∧ p.body = .dat (peerOff desc) (.bindC ((s.val b).toNat % 16 + 1)) ∧ t.ctx.out = s.ctx.out ++ [o]
        ∧ o.id = p.id ∧ o.dest = .bindC (some d) h ∧ o.serial = true ∧ t.ctx.handles[h] = .binding d
        ∧ t.ctx.pc = s.ctx.pc ∧ t.ctx.stall.isSome ∧ SameRegs s t ∧ SameMemory s t))
  ∧ (∀ (s : State) (h : HandleNo) (x d a : SReg), s.ctx.handles[h] = .binding x → s.ctx.overdue = false →
    let Waits : Instr → Prop := fun i => exec i s = .next (s.stalled (some x.val))
    Waits (.qbindP h d a) ∧ Waits (.qwait h d) ∧ Waits (.qadv h) ∧ Waits (.qres h d) ∧ Waits (.qpub h d a) ∧ Waits (.qeos h))

/-- R264 with R262 and R263: the barrier operations send their door operation to the object's core; those with a result make the
destination non-present, an arrival is a release and bwait an acquire. -/
def Obligations.BarrierOperations : Prop :=
  ∀ (s : State) (d a b : SReg) (l : Word), Readable s a → StoreReady s →
    let pa := s.val a
    SendReady s true (peerCore pa) → DatRoom s (peerCore pa) → PeerPlace s pa.toNat 32 →
    let Result : Instr → Dest → DoorOp → Bool → Bool → Nat → Prop := fun i dest op acq rel len =>
      ∃ t, exec i s = .next t ∧ SentFor s t d (peerCore pa) (.dat (peerOff pa) op) true dest pa acq rel len
    let Plain : Instr → DoorOp → Nat → Prop := fun i op len =>
      ∃ t, exec i s = .next t ∧ SameRegs s t ∧ Sent s t (peerCore pa) (.dat (peerOff pa) op) true .none pa false false len
    (Present s d →
      Result (.bjoin d a) (.reg d .d) .bjoin false false 1
      ∧ Result (.barvLit d a l) (.arrive (some d)) (.barv l) false true 3
      ∧ Result (.bdropLit d a l) (.arrive (some d)) (.bdrop l) false true 3
      ∧ Result (.bwaitLit d a l) (.reg d .d) (.bwait l) true false 3
      ∧ (Readable s b →
        Result (.barv d a b) (.arrive (some d)) (.barv (s.val b)) false true 1
        ∧ Result (.bdrop d a b) (.arrive (some d)) (.bdrop (s.val b)) false true 1
        ∧ Result (.bwait d a b) (.reg d .d) (.bwait (s.val b)) true false 1))
    ∧ Plain (.bexpLit a l) (.bexp l) 3 ∧ Plain (.binitLit a l) (.binit l) 3
    ∧ (Readable s b → Plain (.bexp a b) (.bexp (s.val b)) 1 ∧ Plain (.binit a b) (.binit (s.val b)) 1)

/-! ### Local memory and copies (spec/04) -/

/-- R90, R91 and R85: ldl and ldl.v read the bytes at their offset and leave all memory as it was; the value is that of the bytes where they
stand under the launch's own keystream. ldl.v takes one turn of its context for each of its four 16-byte units. An offset of ldl, stl,
ldl.v or stl.v that is not a multiple of the size is ALIGN, and one outside local memory LOCAL_RANGE, each with EVAL the exact sum modulo
2^64 and without an effect of its own.
R90 and R91: stl and stl.v store their bytes at their offset, little-endian, and change no other byte of any memory and no
register; the bytes then stand under the launch's keystream (R363). stl.v reads its row at issue and takes one turn of its context for each
of its four 16-byte units. The premise on the memory's form is the invariant that `StepKeepsMemoryForm` states. -/
def Obligations.LocalLoadsAndStores : Prop :=
  ((∀ (s : State) (d a : SReg) (z : LoadSize) (x : BitVec 13) (o : Nat), Readable s a → Present s d → LoadReady s →
    (o : Int) = (s.val a).toNat + x.toInt → o % szBytes z = 0 → LocalReady s o (szBytes z) →
    ∃ t, exec (.ldl d a z x) s = .next t ∧ Present t d ∧ SameRegsBut s t d ∧ SameMemory s t ∧ MovedOn s t 1
      ∧ (OwnKeys s o (szBytes z) → t.val d = ruleExtend z (leNat (cellRead s.me.lm.bytes o (szBytes z)))))
  ∧ (∀ (s : State) (v : VReg) (a : SReg) (n : Fin 64) (l : Word), s.ctx.units = none → Readable s a → RowPresent s v → LoadReady s →
    rowBarred s v = false →
    let Loads : Instr → Nat → Nat → Prop := fun i o len => o % 64 = 0 → LocalReady s o 64 →
      ∃ t, FourTurns s i t ∧ RowPresent t v ∧ SameRegs s t ∧ SameMemory s t ∧ MovedOn s t len
        ∧ (∀ w : VReg, w ≠ v → t.me.row w = s.me.row w)
        ∧ (OwnKeys s o 64 → ∀ i, i < 64 → (t.me.row v).bits.extractLsb' (8 * i) 8 = s.lmByte s.cur.core (o + i))
    Loads (.ldlV v a n) ((s.val a).toNat + n.val * 64) 1 ∧ Loads (.ldlVLit v a l) ((s.val a).toNat + l.toNat) 3)
  ∧ (∀ (s : State) (a : SReg), Readable s a →
    let Faults : Instr → Int → Nat → Prop := fun i o n =>
      (o % (n : Int) ≠ 0 → exec i s = .next (precise s .align (BitVec.ofInt 64 o)))
      ∧ (o % (n : Int) = 0 → (o < 0 ∨ 65536 < o + n) → exec i s = .next (precise s .localRange (BitVec.ofInt 64 o)))
    let base : Int := (s.val a).toNat
    (∀ (d : SReg) (z : LoadSize) (x : BitVec 13), Faults (.ldl d a z x) (base + x.toInt) (szBytes z))
    ∧ (∀ (d : SReg) (z : StoreSize) (x : BitVec 13), Faults (.stl d a z x) (base + x.toInt) (stBytes z))
    ∧ (∀ (v : VReg) (n : Fin 64) (l : Word), s.ctx.units = none →
      Faults (.ldlV v a n) (base + n.val * 64) 64 ∧ Faults (.ldlVLit v a l) (base + l.toNat) 64
      ∧ Faults (.stlV v a n) (base + n.val * 64) 64 ∧ Faults (.stlVLit v a l) (base + l.toNat) 64)))
  ∧ ((∀ (s : State) (d a : SReg) (z : StoreSize) (x : BitVec 13) (o : Nat), Memory.wf s.me.lm.bytes = true →
    Readable s a → Readable s d → StoreReady s → (o : Int) = (s.val a).toNat + x.toInt → o % stBytes z = 0 →
    LocalReady s o (stBytes z) →
    ∃ t, exec (.stl d a z x) s = .next t ∧ StoredAt s t s.cur.core o (natLe (stBytes z) (s.val d).toNat)
      ∧ (∀ i, i < stBytes z → mget t.me.lm.keys (o + i) 0 = s.myLaunch) ∧ SameRegs s t ∧ MovedOn s t 1)
  ∧ (∀ (s : State) (v : VReg) (a : SReg) (n : Fin 64) (l : Word), Memory.wf s.me.lm.bytes = true → s.ctx.units = none →
    Readable s a → RowPresent s v → StoreReady s → rowBarred s v = false →
    let bs := (List.range 64).map (fun i => (s.me.row v).bits.extractLsb' (8 * i) 8)
    let Stores : Instr → Nat → Nat → Prop := fun i o len => o % 64 = 0 → LocalReady s o 64 →
      ∃ t, FourTurns s i t ∧ StoredAt s t s.cur.core o bs ∧ (∀ k, k < 64 → mget t.me.lm.keys (o + k) 0 = s.myLaunch)
        ∧ SameRegs s t ∧ (∀ w : VReg, t.me.row w = s.me.row w) ∧ MovedOn s t len
    Stores (.stlV v a n) ((s.val a).toNat + n.val * 64) 1 ∧ Stores (.stlVLit v a l) ((s.val a).toNat + l.toNat) 3))

/-- R96, R97, R100, R101 and R102: a copy that passes its checks joins the engine's queue, its object is written with STATUS 0, and a local
destination is on the scoreboard; cpoll gives the object's value at once; cwait gives it when STATUS is not 0, and waits with the code
0x101 before, until PRESENCE_TIMEOUT is due. -/
def Obligations.CopyInstructions : Prop :=
  (∀ (s : State) (d a b : SReg) (src dst : Space) (home : BitVec 15) (off idx : BitVec 16) (ra rb : Nat),
    Memory.wf s.me.lm.bytes = true → Readable s d → Readable s a → Readable s b →
    let Queued : CopyKind → Instr → Prop := fun kind i =>
      CopyReady s (s.val d) (s.val a) (s.val b) src dst kind ra rb →
        ∃ t, exec i s = .next t ∧ CopyQueued s t (s.val d) src dst kind ra rb
    Queued .plain (.cpy d a b src dst) ∧ Queued (.bar home.toNat off.toNat) (.cpyBar d a b src dst home off)
    ∧ Queued (.gather idx.toNat) (.cgat d a b src dst idx) ∧ Queued (.scatter idx.toNat) (.cscat d a b src dst idx))
  ∧ (∀ (s : State) (d a : SReg), Readable s a → Present s d → StoreReady s → (s.val a).toNat % 8 = 0 →
    areaOk s (s.val a).toNat 8 = true → lmBadIn s s.cur.core (s.val a).toNat 8 = none → OwnDoorClear s (s.val a).toNat 8 → OwnKeys s (s.val a).toNat 8 →
    let v := leNat (cellRead s.me.lm.bytes (s.val a).toNat 8)
    exec (.cpoll d a) s = .next (wrote s d (BitVec.ofNat 64 v) 1)
    ∧ (v / 2 ^ 56 ≠ 0 → exec (.cwait d a) s = .next (wrote s d (BitVec.ofNat 64 v) 1))
    ∧ (v / 2 ^ 56 = 0 →
      (s.ctx.overdue = false → exec (.cwait d a) s = .next (s.stalled (some 0x101)))
      ∧ (s.ctx.overdue = true → exec (.cwait d a) s = .next (precise s .presenceTimeout 0x101))))

/-! ### Global memory (spec/03) -/

/-- R75 to R79: global loads, stores, atomics and reductions send one request to the base die of the translated address; a load or an atomic
makes its destination non-present. pref changes no register and no memory and sends nothing; it goes on where its address is translated,
and it never faults where the sum leaves the address space. -/
def Obligations.GlobalInstructions : Prop :=
  (∀ (s : State) (a : SReg) (e : TlbEntry), Readable s a →
    let Die : State → Int → Body → Dest → Bool → Bool → Nat → Prop := fun t sum b dest acq rel len =>
      Sent s t (dieCore (e.loc (BitVec.ofInt 64 sum)).pa) b false dest (BitVec.ofInt 64 sum) acq rel len
    let Ready : Int → Prop := fun sum => SendReady s false (dieCore (e.loc (BitVec.ofInt 64 sum)).pa)
    (∀ (d : SReg) (z : LoadSize) (x : BitVec 13), Present s d → LoadReady s →
      let sum : Int := (s.val a).toNat + x.toInt
      Ready sum → GlobalReady s sum (szBytes z) .rd e →
      ∃ t, exec (.ldg d a z x) s = .next t ∧ ¬ Present t d ∧ SameRegsBut s t d
        ∧ Die t sum (.grd (e.loc (BitVec.ofInt 64 sum)) (szBytes z) []) (.reg d z) false false 1)
    ∧ (∀ (d : SReg) (z : StoreSize) (x : BitVec 13), Readable s d → StoreReady s →
      let sum : Int := (s.val a).toNat + x.toInt
      Ready sum → GlobalReady s sum (stBytes z) .w e →
      ∃ t, exec (.stg d a z x) s = .next t ∧ SameRegs s t
        ∧ Die t sum (.gwr (e.loc (BitVec.ofInt 64 sum)) (natLe (stBytes z) (s.val d).toNat)) .none false false 1)
    ∧ (∀ (v : VReg) (n : Fin 64) (l : Word), RowPresent s v → rowBarred s v = false →
      let bits := (s.me.row v).bits
      let Row : Int → AccKind → (Instr → Nat → Body → Dest → Prop) := fun sum k i len b dest =>
        Ready sum → GlobalReady s sum 64 k e → ∃ t, exec i s = .next t ∧ SameRegs s t ∧ Die t sum b dest false false len
          ∧ (dest = .row v → ¬ RowPresent t v) ∧ ∀ x : VReg, x ≠ v → t.me.row x = s.me.row x
      let s1 : Int := (s.val a).toNat + n.val * 64
      let s3 : Int := (s.val a).toNat + l.toNat
      let place : Int → GLoc := fun sum => e.loc (BitVec.ofInt 64 sum)
      let bs := (List.range 64).map (fun i => bits.extractLsb' (8 * i) 8)
      (LoadReady s → Row s1 .rd (.ldgV v a n) 1 (.grd (place s1) 64 []) (.row v)
        ∧ Row s3 .rd (.ldgVLit v a l) 3 (.grd (place s3) 64 []) (.row v))
      ∧ (StoreReady s → Row s1 .w (.stgV v a n) 1 (.gwr (place s1) bs) .none
        ∧ Row s3 .w (.stgVLit v a l) 3 (.gwr (place s3) bs) .none
        ∧ Row s1 .w (.gred v a n) 1 (.gred (place s1) s.me.tiles[v.val / 16].ty bits) .none
        ∧ Row s3 .w (.gredLit v a l) 3 (.gred (place s3) s.me.tiles[v.val / 16].ty bits) .none))
    ∧ (∀ (o : AtomOp) (dbl : Bool) (r : AtomOrd) (d b : SReg) (l : Word), Present s d → (o ≠ .ld → Readable s b) →
      (o = .cas → Readable s d) → StoreReady s →
      let sum : Int := (s.val a).toNat
      let c : Word := if o = .cas then s.val d else 0
      let place := e.loc (BitVec.ofInt 64 sum)
      Ready sum → DatRoom s (dieCore place.pa) → GlobalReady s sum (if dbl then 8 else 4) (if o = .ld then .rd else .w) e →
      (∃ t, exec (.amo o dbl r d a b) s = .next t ∧ ¬ Present t d ∧ SameRegsBut s t d
        ∧ Die t sum (.gat place o dbl (if o = .ld then 0 else s.val b) c) (.reg d .d) (atomAcq r) (atomRel r) 1)
      ∧ (∃ t, exec (.amoLit o dbl r d a l) s = .next t ∧ ¬ Present t d ∧ SameRegsBut s t d
        ∧ Die t sum (.gat place o dbl l c) (.reg d .d) (atomAcq r) (atomRel r) 3)))
  ∧ (∀ (s : State) (a b : SReg) (l : Word) (e : TlbEntry), Readable s a → Readable s b →
    let Done : Instr → Word → Nat → Prop := fun i y len =>
      let va := BitVec.ofInt 64 ((s.val a).toNat + y.toNat)
      (18446744073709551616 ≤ (s.val a).toNat + y.toNat
        ∨ (isCanon va = true ∧ (va.toNat.testBit 47 = true → s.ctx.mode = true) ∧ walkBusy s = false
            ∧ lookup s s.cur.core s.myLaunch va .rd = .hit e)) →
      ∃ t, exec i s = .next t ∧ SameRegs s t ∧ SameMemory s t ∧ t.net = s.net ∧ MovedOn s t len
    Done (.pref a b) (s.val b) 1 ∧ Done (.prefLit a l) l 3)

/-! ### Tiles and the vector unit (spec/10) -/

/-- R215 on tiles of integer lanes: every lane operation, with a row and with a repeated literal, writes each lane of its row from
the lanes of its sources and of the old row, raises no event, and changes nothing else. The operations that move or combine bits act alike
on lanes of every type, floating ones included. -/
def Obligations.IntegerAndBitLaneOperations : Prop :=
  ∀ (s : State) (v a b : VReg) (l : Word), RowReady s v → RowReady s a → RowReady s b →
    let ty := rowType s v
    let w := ruleWidth ty
    let x := ruleLane ty (s.me.row a).bits
    let z := ruleLane ty (s.me.row v).bits
    let Writes : Instr → Nat → (Nat → Nat) → Prop := fun i len f =>
      ∃ t, exec i s = .next t ∧ RowWritten s t v len ∧ LanesAre s t v f ∧ t.ctx.vflag = s.ctx.vflag
    let Op : Instr → Instr → ((Nat → Nat) → Nat → Nat) → Prop := fun i j f =>
      Writes i 1 (f (ruleLane ty (s.me.row b).bits)) ∧ Writes j 3 (f (ruleLane ty (ruleLitRow l)))
    let S := ruleSigned ty
    let W := ruleWrap ty
    ((ty = .i32 ∨ ty = .i16 ∨ ty = .i8) →
      Writes (.vabs v a) 1 (fun k => W |S (x k)|) ∧ Writes (.vneg v a) 1 (fun k => W (-S (x k)))
      ∧ Op (.vadd v a b) (.vaddLit v a l) (fun y k => W (S (x k) + S (y k)))
      ∧ Op (.vsub v a b) (.vsubLit v a l) (fun y k => W (S (x k) - S (y k)))
      ∧ Op (.vmul v a b) (.vmulLit v a l) (fun y k => W (S (x k) * S (y k)))
      ∧ Op (.vfma v a b) (.vfmaLit v a l) (fun y k => W (S (x k) * S (y k) + S (z k)))
      ∧ Op (.vmin v a b) (.vminLit v a l) (fun y k => W (min (S (x k)) (S (y k))))
      ∧ Op (.vmax v a b) (.vmaxLit v a l) (fun y k => W (max (S (x k)) (S (y k)))))
    ∧ Op (.vand v a b) (.vandLit v a l) (fun y k => x k &&& y k)
    ∧ Op (.vor v a b) (.vorLit v a l) (fun y k => x k ||| y k)
    ∧ Op (.vxor v a b) (.vxorLit v a l) (fun y k => x k ^^^ y k)
    ∧ Op (.vshl v a b) (.vshlLit v a l) (fun y k => if y k ≥ w then 0 else x k * 2 ^ y k % 2 ^ w)
    ∧ Op (.vshr v a b) (.vshrLit v a l) (fun y k => W (S (x k) / 2 ^ min (y k) (w - 1)))
    ∧ Op (.vmov v b) (.vmovLit v l) (fun y => y)
    ∧ Op (.vsel v a b) (.vselLit v a l) (fun y k => if z k ≠ 0 then x k else y k)
    ∧ Op (.vshuf v a b) (.vshufLit v a l) (fun y k => if y k < ruleLanes ty then x (y k) else 0)

/-- R215 on tiles of floating lanes: the operations that round complete with their row present and nothing else changed but VFLAG,
whose bits only gain; without DNZ, vabs clears and vneg inverts the sign bit of every lane, NaN included, with no event. -/
def Obligations.FloatingLaneOperations : Prop :=
  ∀ (s : State) (v a b : VReg) (l : Word), RowReady s v → RowReady s a → RowReady s b →
    (rowType s v = .f32 ∨ rowType s v = .f16 ∨ rowType s v = .bf16) →
    let ty := rowType s v
    let h := 2 ^ (ruleWidth ty - 1)
    let Done : Instr → Nat → Prop := fun i len =>
      ∃ t, exec i s = .next t ∧ RowWritten s t v len ∧ s.ctx.vflag &&& t.ctx.vflag = s.ctx.vflag
    Done (.vadd v a b) 1 ∧ Done (.vaddLit v a l) 3 ∧ Done (.vsub v a b) 1 ∧ Done (.vsubLit v a l) 3
    ∧ Done (.vmul v a b) 1 ∧ Done (.vmulLit v a l) 3 ∧ Done (.vfma v a b) 1 ∧ Done (.vfmaLit v a l) 3
    ∧ Done (.vmin v a b) 1 ∧ Done (.vminLit v a l) 3 ∧ Done (.vmax v a b) 1 ∧ Done (.vmaxLit v a l) 3
    ∧ Done (.vredAdd v a) 1 ∧ Done (.vredMin v a) 1 ∧ Done (.vredMax v a) 1
    ∧ Done (.vabs v a) 1 ∧ Done (.vneg v a) 1
    ∧ (s.me.tiles[v.val / 16].dnz = false →
      (∃ t, exec (.vabs v a) s = .next t ∧ LanesAre s t v (fun k => ruleLane ty (s.me.row a).bits k % h)
        ∧ t.ctx.vflag = s.ctx.vflag)
      ∧ (∃ t, exec (.vneg v a) s = .next t
        ∧ LanesAre s t v (fun k => (ruleLane ty (s.me.row a).bits k + h) % 2 ^ ruleWidth ty)
        ∧ t.ctx.vflag = s.ctx.vflag))

/-- R214, R215 and R217 on tiles of floating lanes, in exact rationals: each lane of an operation has the code of its exact result, rounded
once to nearest, of the NaN that its inputs give, or of a new NaN of the core; it is then flushed where the tile's DNZ asks it, and VFLAG
gains the events of all lanes and no other. vred folds the lanes in ascending order into lane 0 and zeroes the others. R78: a reduction at
a base die adds floating lanes alike, unflushed. -/
def Obligations.FloatingLaneValues : Prop :=
  (∀ (s : State) (v a b : VReg) (l : Word), RowReady s v → RowReady s a → RowReady s b →
    (rowType s v = .f32 ∨ rowType s v = .f16 ∨ rowType s v = .bf16) →
    let ty := rowType s v
    let f := tyFmt ty
    let n := ruleNum f
    let cn := s.cur.core
    let dnz := s.me.tiles[v.val / 16].dnz
    let h := 2 ^ (ruleWidth ty - 1)
    let x := ruleLane ty (s.me.row a).bits
    let z := ruleLane ty (s.me.row v).bits
    let Gives : Instr → (Nat → Nat → Prop) → (Nat → BitVec 6) → Prop := fun i lane ev =>
      ∃ (t : State) (g : Nat → Nat), exec i s = .next t ∧ (∀ k, k < ruleLanes ty → lane k (g k))
        ∧ LanesAre s t v (fun k => ruleFlush dnz f (g k))
        ∧ t.ctx.vflag = s.ctx.vflag ||| ruleJoin ((List.range (ruleLanes ty)).map (fun k => ev k ||| ruleFlushEvent dnz f (g k)))
    let Op : Instr → Instr → (Nat → Nat → Nat → Prop) → (Nat → Nat → BitVec 6) → Prop := fun i j lane ev =>
      let row := ruleLane ty (s.me.row b).bits
      let lit := ruleLane ty (ruleLitRow l)
      Gives i (fun k => lane k (row k)) (fun k => ev k (row k)) ∧ Gives j (fun k => lane k (lit k)) (fun k => ev k (lit k))
    let Computes : Instr → Instr → (Nat → Nat → List Nat) → (Nat → Nat → Option RuleNum) → Prop := fun i j ins res =>
      Op i j (fun k y => RuleLane ty cn 127 (ins k y) (res k y)) (fun k y => ruleLaneEvents ty (ins k y) (res k y))
    let Folds : Instr → (Nat → Nat → Nat → Prop) → (Nat → Nat → BitVec 6) → Prop := fun i op ev =>
      ∃ t r e, exec i s = .next t
        ∧ RuleChain op ev (x 0) ((List.range (ruleLanes ty - 1)).map (fun k => x (k + 1))) r e
        ∧ LanesAre s t v (fun k => if k = 0 then ruleFlush dnz f r else 0)
        ∧ t.ctx.vflag = s.ctx.vflag ||| e ||| ruleFlushEvent dnz f r
    Computes (.vadd v a b) (.vaddLit v a l) (fun k y => [x k, y]) (fun k y => ruleAdd (n (x k)) (n y))
    ∧ Computes (.vsub v a b) (.vsubLit v a l) (fun k y => [x k, y]) (fun k y => ruleAdd (n (x k)) (ruleNeg (n y)))
    ∧ Computes (.vmul v a b) (.vmulLit v a l) (fun k y => [x k, y]) (fun k y => ruleMul (n (x k)) (n y))
    ∧ Computes (.vfma v a b) (.vfmaLit v a l) (fun k y => [x k, y, z k]) (fun k y => ruleFma (n (x k)) (n y) (n (z k)))
    ∧ Op (.vmin v a b) (.vminLit v a l) (fun k y => RuleMinMax false ty (x k) y) (fun _ _ => 0)
    ∧ Op (.vmax v a b) (.vmaxLit v a l) (fun k y => RuleMinMax true ty (x k) y) (fun _ _ => 0)
    ∧ Gives (.vabs v a) (fun k r => r = x k % h) (fun _ => 0)
    ∧ Gives (.vneg v a) (fun k r => r = (x k + h) % 2 ^ ruleWidth ty) (fun _ => 0)
    ∧ Folds (.vredAdd v a) (RuleAdd ty cn 127) (ruleAddEvents ty)
    ∧ Folds (.vredMin v a) (RuleMinMax false ty) (fun _ _ => 0)
    ∧ Folds (.vredMax v a) (RuleMinMax true ty) (fun _ _ => 0))
  ∧ (∀ (s : State) (k : Nat) (p : Packet) (g : GLoc) (ty : TileType) (bits : RowBits), Serviceable s k p →
    Memory.wf s.hbm.bytes = true → (ty = .f32 ∨ ty = .f16 ∨ ty = .bf16) → p.body = .gred g ty bits → hbmBadIn s g.pa 64 = false →
    g.va % 32 = g.pa % 32 → Labelled s g 64 →
    let old := rowOfBytes (cellRead s.hbm.bytes g.pa 64)
    ∃ t row, exec (.gredPacket k) s = .next t ∧ HbmStored s t g.pa (rowBytes row)
      ∧ ∀ j, j < ruleLanes ty → RuleAdd ty p.src 127 (ruleLane ty old j) (ruleLane ty bits j) (ruleLane ty row j))

/-- R216: vcmp writes all ones or zero bits in each lane, as its relation holds of the two lanes or not, and raises no event. Floating lanes
compare as numbers, in the order of IEEE 754 in which the zeros are equal, and a lane with a NaN satisfies only ne and un; integer lanes
compare as signed and are never unordered. -/
def Obligations.VectorCompares : Prop :=
  ∀ (s : State) (v a b : VReg) (l : Word), RowReady s v → RowReady s a → RowReady s b →
    let ty := rowType s v
    let x := ruleLane ty (s.me.row a).bits
    let ones := 2 ^ ruleWidth ty - 1
    let lt := ruleLess ty
    let un := ruleUnordered ty
    let Writes : Instr → Nat → (Nat → Nat) → (Nat → Nat → Bool) → Prop := fun i len y rel =>
      ∃ t, exec i s = .next t ∧ RowWritten s t v len ∧ t.ctx.vflag = s.ctx.vflag
        ∧ LanesAre s t v (fun k => if rel (x k) (y k) then ones else 0)
    let Op : Instr → Instr → (Nat → Nat → Bool) → Prop := fun i j rel =>
      Writes i 1 (ruleLane ty (s.me.row b).bits) rel ∧ Writes j 3 (ruleLane ty (ruleLitRow l)) rel
    Op (.vcmpEq v a b) (.vcmpEqLit v a l) (fun p q => !un p q && !lt p q && !lt q p)
    ∧ Op (.vcmpNe v a b) (.vcmpNeLit v a l) (fun p q => un p q || lt p q || lt q p)
    ∧ Op (.vcmpLt v a b) (.vcmpLtLit v a l) lt
    ∧ Op (.vcmpLe v a b) (.vcmpLeLit v a l) (fun p q => !un p q && !lt q p)
    ∧ Op (.vcmpGt v a b) (.vcmpGtLit v a l) (fun p q => lt q p)
    ∧ Op (.vcmpGe v a b) (.vcmpGeLit v a l) (fun p q => !un p q && !lt p q)
    ∧ Op (.vcmpUn v a b) (.vcmpUnLit v a l) un

/-- R217 on tiles of integer lanes: vred folds the lanes of its source in ascending order into lane 0, and every other lane becomes zero bits.
R218: vsplat, vins, vext and vnnz exchange lanes and counts with scalar registers; a lane number at or above the lane count is ILLEGAL_OP. -/
def Obligations.ReductionsAndScalarExchange : Prop :=
  (∀ (s : State) (v a : VReg), RowReady s v → RowReady s a →
    (rowType s v = .i32 ∨ rowType s v = .i16 ∨ rowType s v = .i8) →
    let ty := rowType s v
    let x := fun k => ruleSigned ty (ruleLane ty (s.me.row a).bits k)
    let Fold : (Int → Int → Int) → Nat := fun f =>
      ruleWrap ty ((List.range (ruleLanes ty - 1)).foldl (fun acc k => f acc (x (k + 1))) (x 0))
    let Writes : Instr → Nat → Prop := fun i r =>
      ∃ t, exec i s = .next t ∧ RowWritten s t v 1 ∧ LanesAre s t v (fun k => if k = 0 then r else 0)
        ∧ t.ctx.vflag = s.ctx.vflag
    Writes (.vredAdd v a) (Fold (· + ·)) ∧ Writes (.vredMin v a) (Fold min) ∧ Writes (.vredMax v a) (Fold max))
  ∧ (∀ (s : State) (v : VReg) (a d : SReg) (l : Fin 64) (e : Fin 16),
    let ty := rowType s v
    let w := ruleWidth ty
    (RowReady s v → Readable s a → ∃ t, exec (.vsplat v a) s = .next t ∧ RowWritten s t v 1 ∧ t.ctx.vflag = s.ctx.vflag
      ∧ LanesAre s t v (fun _ => (s.val a).toNat % 2 ^ w))
    ∧ (RowReady s v → Readable s a → l.val < ruleLanes ty →
      ∃ t, exec (.vins v a l) s = .next t ∧ RowWritten s t v 1 ∧ t.ctx.vflag = s.ctx.vflag
        ∧ LanesAre s t v (fun k => if k = l.val then (s.val a).toNat % 2 ^ w else ruleLane ty (s.me.row v).bits k))
    ∧ (RowReady s v → Present s d → l.val < ruleLanes ty →
      exec (.vext d v l) s = .next (wrote s d
        (if ty = .i32 ∨ ty = .i16 ∨ ty = .i8 then BitVec.ofInt 64 (ruleSigned ty (ruleLane ty (s.me.row v).bits l.val))
         else BitVec.ofNat 64 (ruleLane ty (s.me.row v).bits l.val)) 1))
    ∧ (ruleLanes ty ≤ l.val → exec (.vext d v l) s = .next (precise s .illegalOp (firstWord (.vext d v l)))
      ∧ exec (.vins v a l) s = .next (precise s .illegalOp (firstWord (.vins v a l))))
    ∧ (RowReady s v → Present s d →
      (e.val = 9 → exec (.vnnz d v e) s = .next (wrote s d 256 1))
      ∧ (∀ w sign, (e.val, w, sign) ∈ [(0, 16, 1), (1, 16, 1), (2, 8, 1), (3, 8, 1), (4, 6, 1), (5, 6, 1), (6, 4, 1), (7, 8, 0),
          (8, 4, 0), (10, 32, 1), (11, 32, 0), (12, 16, 0)] →
        exec (.vnnz d v e) s = .next (wrote s d (BitVec.ofNat 64 ((List.range (if w = 6 then 64 else 512 / w)).countP
          (fun k => (s.me.row v).bits.toNat / 2 ^ (k * w) % 2 ^ (w - sign) ≠ 0))) 1))
      ∧ ∃ n, n ≤ 256 ∧ exec (.vnnz d v e) s = .next (wrote s d (BitVec.ofNat 64 n) 1)))

/-- R220, R221 and R222: the conversions complete with their row, and for vq the row of its scales, written; every other row, every register
and every byte of memory is as before, VFLAG only gains, and SRSEED changes only in the stochastic mode, code 4. R226 with R208: vcord
makes its row non-present at once and goes on; n + 6 cycles later VCORD_COMPLETE writes the row, which is then present, and not before. -/
def Obligations.ConversionsAndCordic : Prop :=
  (∀ (s : State) (v a n : VReg) (part : Fin 64) (tf sf : Fin 16) (rnd : Fin 8) (sat : Bool), RowReady s v → RowReady s a →
    let Kept : State → Prop := fun t =>
      SameRegs s t ∧ SameMemory s t ∧ MovedOn s t 3 ∧ s.ctx.vflag &&& t.ctx.vflag = s.ctx.vflag
        ∧ (rnd.val ≠ 4 → t.ctx.srseed = s.ctx.srseed)
    (∃ t, exec (.vcvt v a part tf sf rnd sat) s = .next t ∧ Kept t ∧ RowWritten s t v 3)
    ∧ (RowReady s n → ∃ t, exec (.vscale v a n tf rnd sat) s = .next t ∧ Kept t ∧ RowWritten s t v 3)
    ∧ (RowReady s n → n ≠ v →
      (∀ j, j < elemCount tf.val / elemCount sf.val → RowPresent s (Fin.ofNat 64 (a.val + j))) →
      ∃ t, exec (.vq v a n tf sf rnd sat) s = .next t ∧ Kept t ∧ RowPresent t v ∧ RowPresent t n
        ∧ ∀ x : VReg, x ≠ v → x ≠ n → t.me.row x = s.me.row x))
  ∧ ((∀ (s : State) (v a : VReg) (f : CordFn) (n : Fin 32), RowReady s v → RowReady s a →
    (rowType s v = .f32 ∨ rowType s v = .f16 ∨ rowType s v = .bf16) →
    ∃ t j, exec (.vcord v a f n) s = .next t ∧ t.me.vcords = s.me.vcords ++ [j] ∧ j.row = v ∧ j.live = true
      ∧ j.ready = s.now + n.val + 6 ∧ ¬ RowPresent t v ∧ (∀ x : VReg, x ≠ v → t.me.row x = s.me.row x) ∧ SameRegs s t
      ∧ SameMemory s t ∧ MovedOn s t 3)
  ∧ (∀ (s : State) (cn : Nat) (v : VReg) (j : VCord), (s.core cn).vcords.find? (fun j => j.row == v && decide (j.ready ≤ s.now)) = some j →
    j.live = true → ∃ t, exec (.vcordComplete cn v) s = .next t ∧ (t.core cn).row v = ⟨j.bits, true⟩
      ∧ (∀ x : VReg, x ≠ v → (t.core cn).row x = (s.core cn).row x)
      ∧ (t.ctxOf cn j.hv).vflag = (s.ctxOf cn j.hv).vflag ||| j.events)
  ∧ (∀ (s : State) (cn : Nat) (v : VReg), (∀ j ∈ (s.core cn).vcords, j.row = v → s.now < j.ready) →
    exec (.vcordComplete cn v) s = .next s))

/-- R220, R221 and R222 with R142, R144 and R150 to R156, in exact rationals: the elements that vcvt, vq and vscale write, each rounded once
in its mode; in the stochastic mode element k takes the k-th word of the sequence from SRSEED on, which then holds the state after the
last. Every bit of the row that no element takes is as before; vq's scales are ScaleFor of its blocks of 32; VFLAG gains the events of all
elements and scales. That a NaN lane of vscale keeps its value with M's top bit set is the model's reading (log 139), and the index 0 of a
VQ2 weight under a scale of 0xFF its choice (log 168). -/
def Obligations.ConversionValues : Prop :=
  ∀ (s : State) (v a n : VReg) (part : Fin 64) (tf sf : Fin 16) (rnd : Fin 8) (sat : Bool), RowReady s v → RowReady s a →
    let cn := s.cur.core
    let dnz := s.me.tiles[v.val / 16].dnz
    let ty := rowType s v
    let bits := fun (u : State) (x : VReg) => (u.me.row x).bits.toNat
    let word := ruleWord s.ctx.srseed
    let cs := elemCount sf.val
    let ct := elemCount tf.val
    let Steps : State → Nat → Prop := fun t m => t.ctx.srseed = ruleSeedAfter rnd.val s.ctx.srseed m
    let Elements : State → Nat → Nat → (Nat → Nat) → Prop := fun t first m g =>
      (∀ k, k < m → ruleElem tf.val (bits t v) (first + k) = g k)
      ∧ ∀ i, (i < first * ruleBits tf.val ∨ (first + m) * ruleBits tf.val ≤ i) → (bits t v).testBit i = (bits s v).testBit i
    let Events : State → List (BitVec 6) → Prop := fun t l => t.ctx.vflag = s.ctx.vflag ||| ruleJoin l
    ((Instr.vcvt v a part tf sf rnd sat).wf = true →
      let m := min cs ct
      let x := fun k => ruleElem sf.val (bits s a) (if cs ≤ ct then k else part.val * m + k)
      ∃ (t : State) (g : Nat → Nat), exec (.vcvt v a part tf sf rnd sat) s = .next t ∧ Steps t m
        ∧ (∀ k, k < m → RuleConv sf.val tf.val cn rnd.val (word k) sat 0 (x k) (g k))
        ∧ Elements t (if cs ≤ ct then part.val * m else 0) m (fun k => ruleWritten ty dnz tf.val (g k))
        ∧ Events t ((List.range m).map (fun k => ruleConvEvents sf.val tf.val rnd.val (word k) sat 0 (x k)
            ||| ruleWrittenEvent ty dnz tf.val (g k))))
    ∧ (RowReady s n → (Instr.vscale v a n tf rnd sat).wf = true →
      let x := ruleElem tf.val (bits s a)
      let sc := ruleElem 7 (bits s n)
      ∃ (t : State) (g : Nat → Nat), exec (.vscale v a n tf rnd sat) s = .next t ∧ Steps t ct
        ∧ (∀ k, k < ct → RuleVscale tf.val cn rnd.val (word k) sat (sc k) (x k) (g k))
        ∧ Elements t 0 ct (fun k => ruleWritten ty dnz tf.val (g k))
        ∧ Events t ((List.range ct).map (fun k => ruleVscaleEvents tf.val rnd.val (word k) sat (sc k) (x k)
            ||| ruleWrittenEvent ty dnz tf.val (g k))))
    ∧ (RowReady s n → (Instr.vq v a n tf sf rnd sat).wf = true →
      (∀ j, j < ct / cs → RowPresent s (Fin.ofNat 64 (a.val + j))) →
      let x := fun k => ruleElem sf.val (bits s (Fin.ofNat 64 (a.val + k / cs))) (k % cs)
      let Scales : State → (Nat → Nat) → Prop := fun t sc =>
        (∀ j, j < ct / 32 → RuleScale ((List.range 32).map (fun i => ruleElemNum sf.val (x (32 * j + i)))) tf.val (sc j)
          ∧ ruleElem 7 (bits t n) j = sc j)
        ∧ ∀ j, ct / 32 ≤ j → j < 64 → ruleElem 7 (bits t n) j = ruleElem 7 (bits s n) j
      (tf.val ≠ 9 → ∃ (t : State) (sc g : Nat → Nat), exec (.vq v a n tf sf rnd sat) s = .next t ∧ Steps t ct ∧ Scales t sc
        ∧ (∀ k, k < ct → RuleScaled sf.val tf.val cn rnd.val (word k) sat (sc (k / 32)) (x k) (g k)) ∧ Elements t 0 ct g
        ∧ Events t ((List.range (ct / 32)).map (fun j => ruleScaleEvent (sc j))
            ++ (List.range ct).map (fun k => ruleScaledEvents sf.val tf.val rnd.val (word k) sat (sc (k / 32)) (x k))))
      ∧ (tf.val = 9 → ∃ (t : State) (sc : Nat → Nat), exec (.vq v a n tf sf rnd sat) s = .next t ∧ Steps t ct ∧ Scales t sc
        ∧ let sign := fun k => (bits t v).testBit (16 * (k / 8) + k % 8)
          let big := fun k => (bits t v).testBit (16 * (k / 8) + 8 + k % 8)
          (∀ k, k < 256 → RuleVq2 (sc (k / 32)) (ruleElemNum sf.val (x k)) (sign k) (big k))
          ∧ Events t ((List.range 8).map (fun j => ruleScaleEvent (sc j))
            ++ (List.range 256).map (fun k => ruleVq2Event (sc (k / 32)) (ruleElemNum sf.val (x k)) (sign k) (big k)))))

/-- R212 and R213: tcfg sets a tile's type and DNZ, keeps its rows where the type stays and zeroes them where it changes; tzero zeroes every
row. Every row is present after. R228: a tdrain whose checks pass captures its tile at issue: its object holds STATUS 0, its writes are
queued as an engine operation with a scoreboard entry, the tile stays as it is, and SRSEED changes only where a write rounds
stochastically. -/
def Obligations.TileConfigurationAndDrain : Prop :=
  (∀ (s : State) (x : TileNo) (ty : TileType) (dnz : Bool), rowBarred s (tileRow0 x) = false → TilePresent s x →
    (∃ t, exec (.tcfg x ty dnz) s = .next t ∧ t.me.tiles[x].ty = ty ∧ t.me.tiles[x].dnz = dnz
      ∧ (ty = s.me.tiles[x].ty → t.me.tiles[x].rows = s.me.tiles[x].rows)
      ∧ (ty ≠ s.me.tiles[x].ty → ∀ i : Fin 16, t.me.tiles[x].rows[i] = ⟨0, true⟩)
      ∧ (∀ y : TileNo, y ≠ x → t.me.tiles[y] = s.me.tiles[y]) ∧ SameRegs s t ∧ SameMemory s t ∧ MovedOn s t 1)
    ∧ (∃ t, exec (.tzero x) s = .next t ∧ t.me.tiles[x].ty = s.me.tiles[x].ty ∧ t.me.tiles[x].dnz = s.me.tiles[x].dnz
      ∧ (∀ i : Fin 16, t.me.tiles[x].rows[i] = ⟨0, true⟩) ∧ (∀ y : TileNo, y ≠ x → t.me.tiles[y] = s.me.tiles[y])
      ∧ SameRegs s t ∧ SameMemory s t ∧ MovedOn s t 1))
  ∧ (∀ (s : State) (d a b : SReg) (x : TileNo) (f1 f2 : Fin 16) (r1 r2 : Fin 8) (c1 c2 : BitVec 16) (w1 w2 : DrainWrite)
    (areas : List (Nat × Nat)), DrainReady s d a b x f1 f2 r1 r2 c1 c2 w1 w2 areas →
    ∃ t op ws, exec (.tdrain d a b x f1 f2 r1 r2 c1 c2) s = .next t ∧ t.me.copies = s.me.copies ++ [op]
      ∧ op.work = .drain ws ∧ op.obj = (s.val d).toNat ∧ op.launch = s.myLaunch ∧ op.running = false
      ∧ t.me.board.length = s.me.board.length + 1 ∧ ObjectStarted s t (s.val d).toNat
      ∧ (∀ p ∈ ws, ∃ q ∈ areas, q.1 ≤ p.1 ∧ p.1 + p.2.length ≤ q.1 + q.2)
      ∧ t.me.tiles = s.me.tiles ∧ (r1.val ≠ 4 → r2.val ≠ 4 → t.ctx.srseed = s.ctx.srseed)
      ∧ s.ctx.vflag &&& t.ctx.vflag = s.ctx.vflag ∧ SameRegs s t ∧ MovedOn s t 3)

/-- R223 to R226: the lanes that vcord computes from its source at issue, by the iteration of R223 with the angles and constants written out,
KINV the nearest multiple of 2^−40 to the inverse root of its product, and the events that VCORD_COMPLETE adds; the reduction by π/2 is the
model's choice (log 132). R227 and R228: the bytes that
tdrain captures, rows first and then columns, each vector's values and then its scales, with SAT set and no flush, the words of the
stochastic mode taken in that order, and SRSEED and VFLAG after it. -/
def Obligations.CordicAndDrainValues : Prop :=
  (∀ (hyp : Bool) (n : Nat), n ≤ 30 →
    let k : ℚ := ruleKinv hyp n
    (2 * k - 1) ^ 2 * ruleGain hyp n ≤ (2 ^ 41) ^ 2 ∧ (2 ^ 41) ^ 2 ≤ (2 * k + 1) ^ 2 * ruleGain hyp n)
  ∧ (∀ (s : State) (v a : VReg) (f : CordFn) (n : Fin 32), RowReady s v → RowReady s a →
    (rowType s v = .f32 ∨ rowType s v = .f16 ∨ rowType s v = .bf16) → (Instr.vcord v a f n).wf = true →
    let ty := rowType s v
    let dnz := s.me.tiles[v.val / 16].dnz
    let x := ruleLane ty (s.me.row a).bits
    ∃ (t : State) (j : VCord) (g : Nat → Nat), exec (.vcord v a f n) s = .next t ∧ t.me.vcords = s.me.vcords ++ [j]
      ∧ (∀ k, k < ruleLanes ty → RuleCordLane ty s.cur.core f n.val (x k) (g k)
          ∧ ruleLane ty j.bits k = ruleFlush dnz (tyFmt ty) (g k))
      ∧ j.events = ruleJoin ((List.range (ruleLanes ty)).map (fun k =>
          ruleCordEvents ty f n.val (x k) ||| ruleFlushEvent dnz (tyFmt ty) (g k))))
  ∧ (∀ (s : State) (d a b : SReg) (x : TileNo) (f1 f2 : Fin 16) (r1 r2 : Fin 8) (c1 c2 : BitVec 16) (w1 w2 : DrainWrite)
    (areas : List (Nat × Nat)), DrainReady s d a b x f1 f2 r1 r2 c1 c2 w1 w2 areas →
    (Instr.tdrain d a b x f1 f2 r1 r2 c1 c2).wf = true →
    let ty := s.me.tiles[x].ty
    let l := ruleLanes ty
    let lane := fun (i k : Nat) => ruleLane ty (s.me.tiles[x].rows[i]?.getD ⟨0, true⟩).bits k
    let seed1 := s.ctx.srseed
    let seed2 := ruleSeedAfter r1.val seed1 (16 * l)
    ∃ (t : State) (op : CopyOp) (vals1 scs1 vals2 scs2 : Nat → List Byte) (ev1 ev2 : Nat → BitVec 6),
      exec (.tdrain d a b x f1 f2 r1 r2 c1 c2) s = .next t ∧ t.me.copies = s.me.copies ++ [op]
      ∧ (∀ i, i < 16 → RuleDrained (tyCode ty) w1 s.cur.core (fun k => ruleWord seed1 (i * l + k)) (lane i)
          (vals1 i) (scs1 i) (ev1 i))
      ∧ (f2.val = 15 → op.work = .drain (drainUnits w1 vals1 scs1) ∧ t.ctx.srseed = seed2
          ∧ t.ctx.vflag = s.ctx.vflag ||| ruleJoin ((List.range 16).map ev1))
      ∧ (f2.val ≠ 15 →
          (∀ i, i < l → RuleDrained (tyCode ty) w2 s.cur.core (fun k => ruleWord seed2 (i * 16 + k)) (fun k => lane k i)
            (vals2 i) (scs2 i) (ev2 i))
          ∧ op.work = .drain (drainUnits w1 vals1 scs1 ++ drainUnits w2 vals2 scs2)
          ∧ t.ctx.srseed = ruleSeedAfter r2.val seed2 (16 * l)
          ∧ t.ctx.vflag = s.ctx.vflag ||| ruleJoin ((List.range 16).map ev1) ||| ruleJoin ((List.range l).map ev2)))

/-! ### Base dies and doors (spec/03, spec/04, spec/13) -/

/-- R34, R70 to R72, R75 to R78 and R281 at a base die: a read answers with its bytes, a fill's with half of its line, a store puts its
bytes and marks its granules where the page keeps tags, an atomic answers the old value and writes the new one in one step, a reduction
adds integer lanes, and a row of a packet without E moves one granule at a time. A race of a read or a plain store, and an uncorrectable
error that a service reads, answer with the fault and the virtual address, and change no byte of memory; synchronising services make no
race check. The order of those two faults, and that only an uncorrectable error can meet a row's second granule and then leaves the first
one moved, are the model's choices (logs 23 and 50). That a fill reads its line in two halves is the model's reading (log 141). -/
def Obligations.BaseDieServices : Prop :=
  ∀ (s : State) (k : Nat) (p : Packet) (g : GLoc), Serviceable s k p → Memory.wf s.hbm.bytes = true → g.va % 32 = g.pa % 32 → g.phys = false →
    let va := BitVec.ofNat 64 g.va
    let Faults : Instr → Cause → Prop := fun i c => ∃ t, exec i s = .next t ∧ Answered t p (.fault c va) ∧ SameMemory s t
    (∀ born, p.body = .line g born → g.pa % 64 = 0 → g.va % 128 = g.pa % 128 → (∀ o ∈ s.hbm.old, o.line ≠ g.pa / 128) →
      (hbmBadIn s g.pa 64 = true → Faults (.grd k) .eccUncorr)
      ∧ (hbmBadIn s g.pa 64 = false → Labelled s g 64 →
        ∃ t, exec (.grd k) s = .next t ∧ Answered t p (.data (cellRead s.hbm.bytes g.pa 64)) ∧ SameMemory s t))
    ∧ (∀ n, p.body = .grd g n [] →
      let m := if n = 64 ∧ p.e = false then 32 else n
      let bs := cellRead s.hbm.bytes g.pa m
      (hbmRace s g m p.src p.launch = true → Faults (.grd k) .mmRace)
      ∧ (hbmRace s g m p.src p.launch = false → hbmBadIn s g.pa m = true → Faults (.grd k) .eccUncorr)
      ∧ (hbmRace s g m p.src p.launch = false → hbmBadIn s g.pa m = false → Labelled s g m →
        (m = n → ∃ t, exec (.grd k) s = .next t ∧ Answered t p (.data bs) ∧ SameMemory s t)
        ∧ (m ≠ n → ∃ t, exec (.grd k) s = .next t ∧ SameMemory s t
          ∧ t.net = updWhere (fun q => q.id == k) (fun q => { q with body := .grd g n bs }) s.net)))
    ∧ (∀ data, p.body = .gwr g data →
      (data.length ≠ 32 → hbmRace s g data.length p.src p.launch = true → Faults (.gwr k) .mmRace)
      ∧ (hbmRace s g data.length p.src p.launch = false → hbmBadPart s g.pa data.length = true → Faults (.gwr k) .eccUncorr))
    ∧ (∀ data, p.body = .gwr g data → hbmRace s g data.length p.src p.launch = false →
      hbmBadPart s g.pa data.length = false → Labelled s g data.length →
      (¬ (data.length = 64 ∧ p.e = false) → ∃ t, exec (.gwr k) s = .next t ∧ Answered t p .ack ∧ HbmStored s t g.pa data
        ∧ (g.rchk = true → ∀ x ∈ granules g.pa data.length, mfind t.hbm.tags x = some ⟨p.src, p.launch⟩))
      ∧ (data.length = 64 → p.e = false → ∃ t, exec (.gwr k) s = .next t ∧ HbmStored s t g.pa (data.take 32)
        ∧ t.net = updWhere (fun q => q.id == k) (fun q =>
            { q with body := .gwr { g with pa := g.pa + 32, va := g.va + 32 } (data.drop 32) }) s.net))
    ∧ (∀ o dbl v c, p.body = .gat g o dbl v c →
      let n := if dbl then 8 else 4
      let old := leNat (cellRead s.hbm.bytes g.pa n)
      (hbmBadIn s g.pa n = true → Faults (.gat k) .eccUncorr)
      ∧ (hbmBadIn s g.pa n = false → Labelled s g n →
      ∃ t, exec (.gat k) s = .next t ∧ Answered t p (.val (BitVec.ofNat 64 old))
        ∧ HbmStored s t g.pa (natLe n (ruleAtom o (8 * n) old (v.toNat % 2 ^ (8 * n)) (c.toNat % 2 ^ (8 * n))))))
    ∧ (∀ ty bits, p.body = .gred g ty bits →
      let old := rowOfBytes (cellRead s.hbm.bytes g.pa 64)
      (hbmBadIn s g.pa 64 = true → Faults (.gredPacket k) .eccUncorr)
      ∧ (hbmBadIn s g.pa 64 = false → Labelled s g 64 → ∃ t row, exec (.gredPacket k) s = .next t ∧ Answered t p .ack ∧ HbmStored s t g.pa (rowBytes row)
        ∧ ((ty = .i32 ∨ ty = .i16 ∨ ty = .i8) → ∀ j, j < ruleLanes ty →
            ruleLane ty row j = ruleWrap ty (ruleSigned ty (ruleLane ty old j) + ruleSigned ty (ruleLane ty bits j)))))

/-- R87, R88, R92, R93, R279, R281, R296, R297 and R325 at a door: a read, a store, a nibble and an atomic of another core; a
record parked at its frame, and a join of it; a race of a read, a store, a park or a join answers MM_RACE, and a request that the door
refuses PEER_DENIED, with EVAL the peer address. -/
def Obligations.DoorMemoryServices : Prop :=
  ∀ (s : State) (k : Nat) (p : Packet) (off : Nat), Serviceable s k p → Memory.wf (s.core p.dst).lm.bytes = true →
    let lm := (s.core p.dst).lm
    let race := fun n => lmRace s p.dst off n p.src p.launch
    let Races : Instr → Prop := fun i => ∃ t, exec i s = .next t ∧ Answered t p (.fault .mmRace (peerNum p off)) ∧ SameMemory s t
    (∀ n, p.body = .drd off n →
      (DoorOpen s p off n → race n = false → KeysOf s p.dst p.launch off n →
        ∃ t, exec (.drd k) s = .next t ∧ Answered t p (.data (cellRead lm.bytes off n)) ∧ SameMemory s t)
      ∧ (DoorOpen s p off n → race n = true → Races (.drd k))
      ∧ (doorView s p.dst p.launch p.hv p.req off n = .deny →
        ∃ t, exec (.drd k) s = .next t ∧ Answered t p (.fault .peerDenied (peerNum p off)) ∧ SameMemory s t))
    ∧ (∀ data, p.body = .dwr off data → doorView s p.dst p.launch p.hv p.req off data.length = .serve →
      (race data.length = true → Races (.dwr k))
      ∧ (lmBadPart s p.dst off data.length = none → race data.length = false →
      ∃ t, exec (.dwr k) s = .next t ∧ Answered t p .ack ∧ StoredAt s t p.dst off data
        ∧ ∀ x ∈ granules off data.length, mfind (t.core p.dst).lm.tags x = some ⟨p.src, p.launch⟩))
    ∧ (∀ hi v, p.body = .nibble off hi v → DoorOpen s p off 1 → KeysOf s p.dst p.launch off 1 →
      let y := (s.lmByte p.dst off).toNat
      ∃ t, exec (.dwr k) s = .next t ∧ Answered t p .ack
        ∧ StoredAt s t p.dst off [BitVec.ofNat 8 (if hi then y % 16 + v.toNat * 16 else y / 16 * 16 + v.toNat)])
    ∧ (∀ o dbl v c, p.body = .dat off (.atom o dbl v c) →
      let n := if dbl then 8 else 4
      let old := leNat (cellRead lm.bytes off n)
      DoorOpen s p off n → KeysOf s p.dst p.launch off n →
      ∃ t, exec (.dat k) s = .next t ∧ Answered t p (.val (BitVec.ofNat 64 old))
        ∧ StoredAt s t p.dst off (natLe n (ruleAtom o (8 * n) old (v.toNat % 2 ^ (8 * n)) (c.toNat % 2 ^ (8 * n)))))
    ∧ (∀ r, p.body = .park off r → doorView s p.dst p.launch p.hv p.req off 160 = .serve →
      (race 160 = true → Races (.parkFrameWrite k))
      ∧ (race 160 = false →
        ∃ t, exec (.parkFrameWrite k) s = .next t ∧ Answered t p .ack ∧ StoredAt s t p.dst off r.bytes))
    ∧ (p.body = .dat off .join → DoorOpen s p off 160 → KeysOf s p.dst p.launch off 160 →
      let r := CR.ofNum (leNat (cellRead lm.bytes off 160))
      let j := r.join.toNat
      (race 160 = true → Races (.joinDoorOp k))
      ∧ (race 160 = false → (j = 0 → ∃ t, exec (.joinDoorOp k) s = .next t ∧ Answered t p (.val all1) ∧ SameMemory s t)
      ∧ (1 < j → ∃ t, exec (.joinDoorOp k) s = .next t ∧ Answered t p (.val (BitVec.ofNat 64 j))
        ∧ StoredAt s t p.dst (off + 16) (natLe 4 (j - 1)))
      ∧ (j = 1 → ∀ u, post s { r with launch := p.launch, join := 0 } p.dst none = some u →
        ∃ t, exec (.joinDoorOp k) s = .next t ∧ Answered t p (.val 1) ∧ t.slices = u.slices
          ∧ cellRead (t.core p.dst).lm.bytes (off + 16) 4 = [0#8, 0#8, 0#8, 0#8])))

/-- R103, R104 and R106: every door step of a ring on its descriptor's fields. BASE [15:0], LSLOTS [19:16], LSIZE [23:20], NPROD
[28:24], OPEN [47:32], EOS [63:48], RES [95:64], CON [127:96] and READY [191:128] of the descriptor's 32 bytes. -/
def Obligations.RingDoorSteps : Prop :=
  ∀ (s : State) (k : Nat) (p : Packet) (off : Nat), Serviceable s k p → Memory.wf (s.core p.dst).lm.bytes = true →
    DoorOpen s p off 32 → KeysOf s p.dst p.launch off 32 →
    let n := objNum s p.dst off
    let lslots := bitsOf n 16 4
    let lsize := bitsOf n 20 4
    let res := bitsOf n 64 32
    let con := bitsOf n 96 32
    let slot := fun i => BitVec.ofNat 64 (i * 2 ^ 32 + p.dst * 65536 + (bitsOf n 0 16 + i % 2 ^ lslots * 2 ^ lsize) % 65536)
    let ready := n.testBit (128 + con % 2 ^ lslots) = decide (con / 2 ^ lslots % 2 = 1)
    let closed := (∀ i, i < bitsOf n 24 5 → n.testBit (48 + i) = true) ∧ con = res
    let late := fun i => n.testBit (48 + i) = true
    let Writes : Instr → Result → Nat → Prop := fun i r n' =>
      ∃ t, exec i s = .next t ∧ Answered t p r ∧ StoredAt s t p.dst off (natLe 32 n')
    let Keeps : Instr → Result → Prop := fun i r => ∃ t, exec i s = .next t ∧ Answered t p r ∧ SameMemory s t
    (∀ m, p.body = .dat off (.bindC m) → 1 ≤ m → m ≤ 16 →
      (4 ≤ lsize → lsize ≤ 12 → lslots ≤ 6 → bitsOf n 0 16 + 2 ^ (lsize + lslots) ≤ 65536 →
        ∃ n', Writes (.qbindConsumerDoor k) (.bound 0 0 (bitsOf n 0 16) lsize lslots) n' ∧ bitsOf n' 0 24 = bitsOf n 0 24
          ∧ bitsOf n' 24 5 = m ∧ bitsOf n' 32 96 = 0 ∧ bitsOf n' 128 64 = 2 ^ 64 - 1)
      ∧ ((lsize < 4 ∨ 12 < lsize ∨ 6 < lslots ∨ 65536 < bitsOf n 0 16 + 2 ^ (lsize + lslots)) →
        Keeps (.qbindConsumerDoor k) (.fault .localRange (BitVec.ofNat 64 off))))
    ∧ (p.body = .dat off .bindP →
      (∀ m, m < bitsOf n 24 5 → n.testBit (32 + m) = false → (∀ j, j < m → n.testBit (32 + j) = true) →
        Writes (.qbindProducerDoor k) (.bound (BitVec.ofNat 64 m) m (bitsOf n 0 16) lsize lslots) (putBits n (32 + m) 1 1))
      ∧ ((∀ m, m < bitsOf n 24 5 → n.testBit (32 + m) = true) → Keeps (.qbindProducerDoor k) (.bound all1 0 0 0 0)))
    ∧ (∀ m, p.body = .dat off (.qres m) →
      (late m → Keeps (.qresDoor k) (.fault .ringEosLate (peerNum p off)))
      ∧ (¬ late m → (res + 2 ^ 32 - con) % 2 ^ 32 < 2 ^ lslots →
        Writes (.qresDoor k) (.val (slot res)) (putBits n 64 32 (res + 1)))
      ∧ (¬ late m → 2 ^ lslots ≤ (res + 2 ^ 32 - con) % 2 ^ 32 → Keeps (.qresDoor k) (.val all1)))
    ∧ (∀ m v, p.body = .dat off (.qpub m v) →
      let i := bitsOf v.toNat 32 32
      let mine := (i + 2 ^ 32 - con) % 2 ^ 32 < (res + 2 ^ 32 - con) % 2 ^ 32
      (late m → Keeps (.qpubDoor k) (.fault .ringEosLate (peerNum p off)))
      ∧ (¬ late m → mine →
        Writes (.qpubDoor k) (.val 0) (putBits n (128 + i % 2 ^ lslots) 1 (i / 2 ^ lslots % 2)))
      ∧ (¬ late m → ¬ mine → Keeps (.qpubDoor k) (.val 1)))
    ∧ (∀ m, p.body = .dat off (.qeos m) →
      (late m → Keeps (.qeosDoor k) (.fault .ringEosLate (peerNum p off)))
      ∧ (¬ late m → Writes (.qeosDoor k) .ack (putBits n (48 + m) 1 1)))
    ∧ (p.body = .dat off .qadv → (ready → Writes (.qadvDoor k) .ack (putBits n 96 32 (con + 1)))
      ∧ (¬ ready → Keeps (.qadvDoor k) .ack))
    ∧ (p.body = .dat off .qwait → (ready → Keeps (.qwaitDoor k) (.val (slot con)))
      ∧ (¬ ready → closed → Keeps (.qwaitDoor k) (.val all1))
      ∧ (¬ ready → ¬ closed → ∃ t, exec (.qwaitDoor k) s = .next t ∧ SameMemory s t ∧ t.net = s.net.filter (fun q => q.id != k)
        ∧ (t.core p.dst).qwaits = (s.core p.dst).qwaits ++ [⟨p, none⟩]))

/-- R259, R260, R262 and R263: every home step of a barrier on its object's fields OVER [96], DONE [97], NEXT [127:112], ARRIVED
[143:128], EXPECTED [159:144], PHASE [191:160], GID [207:192] and TX [255:208], with the completion test after each change that R260
names. A step that completes the phase answers every held bwait on the object whose phase has now passed, with the new PHASE, where mode
E asks neither a kept copy nor a cached result of the answer; the others stay held, and a step that completes none releases none. That a
held bwait which cannot be answered yet waits with that PHASE is the model's reading (log 45). -/
def Obligations.BarrierHomeSteps : Prop :=
  (∀ n, n < 2 ^ 256 →
    let done := n.testBit 97 = false ∧ bitsOf n 128 16 = bitsOf n 144 16 ∧ bitsOf n 208 48 = 0
    let m := (barComplete n).1
    ((barComplete n).2 = true ↔ done) ∧ (¬ done → m = n)
    ∧ (done → bitsOf m 160 32 = (bitsOf n 160 32 + 1) % 2 ^ 32 ∧ bitsOf m 128 16 = 0 ∧ bitsOf m 144 16 = bitsOf n 112 16
      ∧ (m.testBit 97 = true ↔ bitsOf n 112 16 = 0) ∧ bitsOf m 112 16 = bitsOf n 112 16 ∧ bitsOf m 208 48 = 0))
  ∧ ∀ (s : State) (k : Nat) (p : Packet) (off : Nat), Serviceable s k p → Memory.wf (s.core p.dst).lm.bytes = true →
    DoorOpen s p off 32 → KeysOf s p.dst p.launch off 32 →
    let n := objNum s p.dst off
    let next := bitsOf n 112 16
    let phase := bitsOf n 160 32
    let done := n.testBit 97 = true
    let Writes : Instr → Result → Nat → Prop := fun i r n' =>
      ∃ t, exec i s = .next t ∧ Answered t p r ∧ StoredAt s t p.dst off (natLe 32 n')
    let Tested : Instr → Result → Nat → Prop := fun i r n' =>
      let m := (barComplete n').1
      let held := (s.core p.dst).bwaits
      let late := fun v : Word => let d := (bitsOf m 160 32 + 2 ^ 32 - v.toNat % 2 ^ 32) % 2 ^ 32; 1 ≤ d ∧ d < 2 ^ 31
      ∃ t, exec i s = .next t ∧ Answered t p r ∧ StoredAt s t p.dst off (natLe 32 m)
        ∧ ((barComplete n').2 = false → (t.core p.dst).bwaits = held)
        ∧ ((barComplete n').2 = true → ∀ h ∈ held, ∀ v, h.due = none → h.pkt.body = .dat off (.bwait v) → h.pkt.launch = p.launch →
          (¬ late v → h ∈ (t.core p.dst).bwaits)
          ∧ (late v → h.pkt.e = false → needsE s h.pkt.dst h.pkt.src 2 = false →
            ∃ a ∈ t.net, a.src = h.pkt.dst ∧ a.dst = h.pkt.src ∧ a.vn = 2 ∧ a.who = h.pkt.who ∧ a.req = h.pkt.req
              ∧ a.body = .rply (.val (BitVec.ofNat 64 (bitsOf m 160 32)))))
    let taken := fun v : Word => ¬ done ∧ phase = v.toNat % 2 ^ 32 ∧ bitsOf n 128 16 ≠ bitsOf n 144 16
    let one := putBits n 128 16 (bitsOf n 128 16 + 1)
    (∀ v, p.body = .dat off (.binit v) → ∃ n', Tested (.binitDoor k) .ack n' ∧ bitsOf n' 0 96 = bitsOf n 0 96
      ∧ n'.testBit 96 = false ∧ (n'.testBit 97 = true ↔ v.toNat % 65536 = 0) ∧ bitsOf n' 112 16 = v.toNat % 65536
      ∧ bitsOf n' 128 16 = 0 ∧ bitsOf n' 144 16 = v.toNat % 65536 ∧ bitsOf n' 160 32 = 0
      ∧ bitsOf n' 192 16 = v.toNat / 65536 % 65536 ∧ bitsOf n' 208 48 = 0)
    ∧ (p.body = .dat off .bjoin →
      (done ∨ next = 0xFFFF → Writes (.bjoinDoor k) (.val all1) n)
      ∧ (¬ done → next ≠ 0xFFFF →
        Tested (.bjoinDoor k) (.val (BitVec.ofNat 64 ((phase + 1) % 2 ^ 32))) (putBits n 112 16 (next + 1))))
    ∧ (∀ v, p.body = .dat off (.barv v) →
      (taken v → Tested (.barvDoor k) (.val (BitVec.ofNat 64 (v.toNat % 2 ^ 32))) one)
      ∧ (¬ taken v → Writes (.barvDoor k) (.val all1) (putBits n 96 1 1)))
    ∧ (∀ v, p.body = .dat off (.bdrop v) →
      (taken v → Tested (.bdropDoor k) (.val (BitVec.ofNat 64 (v.toNat % 2 ^ 32)))
        (if next = 0 then one else putBits one 112 16 (next - 1)))
      ∧ (¬ taken v → Writes (.bdropDoor k) (.val all1) (putBits n 96 1 1)))
    ∧ (∀ v, p.body = .dat off (.bexp v) →
      Tested (.bexpDoor k) .ack (putBits n 208 48 (bitsOf n 208 48 + v.toNat % 2 ^ 48)))
    ∧ (∀ c, p.body = .dat off (.credit c) →
      Tested (.barrierCredit k) .ack (putBits n 208 48 (bitsOf n 208 48 + 2 ^ 48 - c % 2 ^ 48)))
    ∧ (∀ v, p.body = .dat off (.bwait v) →
      let d := (phase + 2 ^ 32 - v.toNat % 2 ^ 32) % 2 ^ 32
      let passed := 1 ≤ d ∧ d < 2 ^ 31
      (passed → ∃ t, exec (.bwaitDoor k) s = .next t ∧ Answered t p (.val (BitVec.ofNat 64 phase)) ∧ SameMemory s t)
      ∧ (¬ passed → 64 ≤ (s.core p.dst).bwaits.length →
        ∃ t, exec (.bwaitDoor k) s = .next t ∧ Answered t p (.val (BitVec.ofNat 64 (v.toNat % 2 ^ 32))) ∧ SameMemory s t)
      ∧ (¬ passed → (s.core p.dst).bwaits.length < 64 →
        ∃ t, exec (.bwaitDoor k) s = .next t ∧ SameMemory s t ∧ t.net = s.net.filter (fun q => q.id != k)
          ∧ (t.core p.dst).bwaits = (s.core p.dst).bwaits ++ [⟨p, none⟩]))

/-! ### Answers, the fabric and messages (spec/12, spec/03, spec/04, spec/05) -/

/-- R61, R66, R67, R73, R105, R106 and R262: an answer frees the tag of its access and does what the access asked for: a load writes
its register, extended from its size, or its row; an arrival that was refused is noted; a bind sets its handle; a fault is held for
the context, with the instruction's address and the answer's EVAL; an acknowledgement of a store only frees the tag. -/
def Obligations.AnswersLand : Prop :=
  ∀ (s : State) (k : Nat) (p : Packet) (hv : Bool) (o : Out), s.got k = some p → p.trim = false → p.who = .ctx hv →
    s.isDone p = false →
    (s.ctxOf p.dst hv).out.find? (fun o => o.id == p.req) = some o →
    let c := s.ctxOf p.dst hv
    let live := (o.handler = true ∨ (c.inh = false ∧ c.stop = false)) ∧ (s.core p.dst).banked hv = false
    let Done : State → Prop := fun t =>
      p ∉ t.net ∧ (t.ctxOf p.dst hv).out = c.out.filter (fun x => x.id != p.req) ∧ SameMemory s t
    let Only : State → SReg → Word → Prop := fun t d v =>
      (t.ctxOf p.dst hv).regs[d] = ⟨v, true⟩ ∧ ∀ x : SReg, x ≠ d → (t.ctxOf p.dst hv).regs[x] = c.regs[x]
    (∀ d z bs, p.body = .rply (.data bs) → o.dest = .reg d z → live →
      ∃ t, exec (.rply k) s = .next t ∧ Done t ∧ Only t d (ruleExtend z (leNat bs)))
    ∧ (∀ d z v, p.body = .rply (.val v) → o.dest = .reg d z → live →
      ∃ t, exec (.rply k) s = .next t ∧ Done t ∧ Only t d v)
    ∧ (∀ v bs, p.body = .rply (.data bs) → o.dest = .row v →
      ∃ t, exec (.rply k) s = .next t ∧ Done t ∧ (t.core p.dst).row v = ⟨rowOfBytes bs, true⟩
        ∧ ∀ x : VReg, x ≠ v → (t.core p.dst).row x = (s.core p.dst).row x)
    ∧ (∀ d v, p.body = .rply (.val v) → o.dest = .arrive (some d) → live →
      ∃ t, exec (.rply k) s = .next t ∧ Done t ∧ Only t d v
        ∧ (v = all1 → (t.ctxOf p.dst hv).bops.getLast? = some ⟨o.epc, o.addr, some d⟩)
        ∧ (v ≠ all1 → (t.ctxOf p.dst hv).bops.length = c.bops.length))
    ∧ (∀ d h v q base lsize lslots, p.body = .rply (.bound v q base lsize lslots) → o.dest = .bindP (some d) h → live →
      ∃ t, exec (.rply k) s = .next t ∧ Done t ∧ Only t d v
        ∧ (t.ctxOf p.dst hv).handles[h] = if v = all1 then .unbound else .producer o.addr q base lsize lslots)
    ∧ (∀ d h v q base lsize lslots, p.body = .rply (.bound v q base lsize lslots) → o.dest = .bindC (some d) h → live →
      o.serial = true →
      ∃ t, exec (.rply k) s = .next t ∧ Done t ∧ Only t d 0
        ∧ (t.ctxOf p.dst hv).handles[h] = .consumer o.addr base lsize lslots
        ∧ ((t.ctxOf p.dst hv).pc, (t.ctxOf p.dst hv).closedFrom) = c.nextPc 1)
    ∧ (∀ e v d z, p.body = .rply (.fault e v) → o.dest = .reg d z → ¬ (o.handler = true ∧ c.inh = true) →
      ∃ t, exec (.rply k) s = .next t ∧ Done t ∧ (t.ctxOf p.dst hv).regs = c.regs
        ∧ (t.ctxOf p.dst hv).held = c.held ++ [⟨c.launch, e, o.epc, v⟩])
    ∧ (p.body = .ack .ack → o.dest = .none →
      ∃ t, exec (.ack k) s = .next t ∧ Done t ∧ (t.ctxOf p.dst hv).regs = c.regs ∧ (t.ctxOf p.dst hv).held = c.held)
    ∧ (∀ e v, p.body = .ack (.fault e v) → o.dest = .none → o.serial = false → ¬ (o.handler = true ∧ c.inh = true) →
      ∃ t, exec (.ack k) s = .next t ∧ Done t ∧ (t.ctxOf p.dst hv).held = c.held ++ [⟨c.launch, e, o.epc, v⟩])

/-- R234, R236 to R242: trimming at an output whose queue is long, holes, re-requests, tokens, retransmission, acknowledgement, link
replay and retraining, and a packet of an unassigned kind, none of which changes a byte of memory. Where a packet is cut, how buckets
gain tokens, what mode E keeps, and how groups of flits are checked and a retrain waits are the model's readings (logs 42, 43, 44, 115
and 143). -/
def Obligations.FabricEvents : Prop :=
  (∀ (s : State) (k : Nat) (p : Packet) (cn via : Nat), s.pkt k = some p → p.at_ = .router cn via → behind s p = false →
    p.e = true → p.vn = 2 → p.trim = false → p.body.len ≠ 0 → 24 ≤ queued s cn (chosenPort s cn p) 2 false →
    ∃ t, exec (.trim k) s = .next t ∧ SameMemory s t
      ∧ t.net = s.net.filter (fun q => q.id != k) ++ [{ p with trim := true, vn := 0 }]
      ∧ (t.output (outNo cn (chosenPort s cn p))).trims = ((s.output (outNo cn (chosenPort s cn p))).trims + 1) % 2 ^ 32)
  ∧ (∀ (s : State) (k : Nat) (p : Packet), s.got k = some p →
    (p.trim = true → ∃ t, exec (.trimmedHeader k) s = .next t ∧ SameMemory s t ∧ p ∉ t.net
      ∧ bitsOf (t.core p.dst).trimc.toNat 32 32 = (bitsOf (s.core p.dst).trimc.toNat 32 32 + 1) % 2 ^ 32
      ∧ ((s.core p.dst).fab.executed p.src 2 p.seq = false → ⟨p.src, 2, p.seq, false, p.launch⟩ ∈ (t.core p.dst).fab.holes))
    ∧ (∀ seq vn x, p.body = .rreq seq vn →
      (s.core p.dst).fab.kept.find? (fun x => x.pkt.dst == p.src && x.pkt.vn == vn && x.pkt.seq == seq) = some x →
      ∃ t, exec (.rreq k) s = .next t ∧ SameMemory s t
        ∧ { x.pkt with id := s.ids, retx := true, at_ := entryAt x.pkt.src x.pkt.dst } ∈ t.net
        ∧ bitsOf (t.core p.dst).trimc.toNat 0 32 = (bitsOf (s.core p.dst).trimc.toNat 0 32 + 1) % 2 ^ 32)
    ∧ (∀ seq vn, p.body = .eack seq vn → ∃ t, exec (.eack k) s = .next t ∧ SameMemory s t ∧ p ∉ t.net
      ∧ ∀ x ∈ (t.core p.dst).fab.kept, ¬ (x.pkt.dst = p.src ∧ x.pkt.vn = vn ∧ x.pkt.seq = seq)))
  ∧ (∀ (s : State) (cn src : Nat) (h : Hole) (f : Fab) (b : Bucket), nextHole (s.core cn).fab src = some h →
    takeBucket (s.core cn).fab src s.now = some (f, b) → b.tokens ≠ 0 →
    ∃ t q, exec (.rreqSend cn src) s = .next t ∧ SameMemory s t ∧ t.net = s.net ++ [q] ∧ q.src = cn ∧ q.dst = src
      ∧ q.vn = 1 ∧ q.body = .rreq h.seq h.vn ∧ ∀ x ∈ (t.core cn).fab.holes, x ≠ h ∨ h.asked = true)
  ∧ (∀ (s : State) (cn src : Nat), ∃ t, exec (.tokenRefill cn src) s = .next t ∧ SameMemory s t
      ∧ (t.core cn).fab.buckets = (s.core cn).fab.buckets.map (fun b =>
          let n := (s.now - b.at_) / 64
          if b.src = src then { b with tokens := min 4 (b.tokens + n), at_ := b.at_ + 64 * n } else b))
  ∧ (∀ (s : State) (cn k : Nat) (x : Kept), (s.core cn).fab.kept.find? (fun x => x.pkt.id == k) = some x →
    x.sent + (s.loaf (loafOf cn)).rto * 1024 ≤ s.now →
    ∃ t, exec (.retransmitTimeout cn k) s = .next t ∧ SameMemory s t
      ∧ t.net = s.net ++ [{ x.pkt with id := s.ids, retx := true, at_ := entryAt x.pkt.src x.pkt.dst }])
  ∧ (∀ (s : State) (cn : Nat) (r : Dir) (m : Nat), nbr cn r = some m →
    let l := s.link cn r
    (l.check ≠ [] → ∃ t, exec (.linkReplay cn r) s = .next t ∧ SameMemory s t
      ∧ t.net.map (fun q => (q.id, q.body, q.trim)) = s.net.map (fun q => (q.id, q.body, q.trim))
      ∧ (t.link cn r).replays = l.replays + 1 ∧ s.now ∈ (t.link cn r).fails ∧ (t.link cn r).check = []
      ∧ (t.link cn r).replay = l.check ++ l.group ++ l.replay
      ∧ (l.half = false → 15 ≤ (l.fails.filter (fun x => decide (s.now < x + 1000000))).length → (t.link cn r).due = true))
    ∧ (l.half = false → l.due = true →
      ∃ t, exec (.linkRetrain cn r) s = .next t ∧ SameMemory s t ∧ (t.link cn r).half = true ∧ (t.link cn r).due = false
        ∧ (t.crust.reports.getLast?.map (fun x => (x.kind, x.core))) = some (4, cn % 32768)))
  ∧ (∀ (s : State) (cn : Nat) (kind : BitVec 6), kindKnown kind.toNat = false →
    ∃ t, exec (.unassignedKind cn kind) s = .next t ∧ SameMemory s t
      ∧ t.net = s.net.filter (fun p => !(p.dst == cn && p.body == .unknown kind))
      ∧ (t.crust.reports.getLast?.map (fun x => (x.kind, x.core))) = some (3, cn % 32768))

/-! ### Translation, line fills and migration (spec/02, spec/03, spec/16) -/

/-- R58, R60, R64 and R234: a walker asks for each entry with a GRD of 8 bytes to the port of the entry's base die; the entry that came leads
to the next table, to a fault at the instruction that waits, or to a leaf. A leaf with the marks that the access needs joins the first-level
TLB of its kind and the slice's second level; for another, and for a write that hit with D clear, the walker sends one request to the entry's
die, which reads the entry again and sets A and, for a write, D in it, and then the leaf joins the TLBs. R34: a line fill asks for the two
halves of its line one after the other, or takes it from a service core's own memory, and the last answer caches it with its form checked.
R299: a task whose tags are back goes to the chosen core of the home loaf with every register and RESUME.
The model's choices: the faults where the entry read again is no longer the leaf (log 39), the list of the second level (log 37), the kind of
the marking request (log 140), and the turns at which walks and fills move (log 141). -/
def Obligations.WalkFillAndMigration : Prop :=
  (∀ (s : State) (cn : Nat) (hv : Bool) (w : Walk),
    ((s.slice (sliceOf cn)).walks.take 4).find? (fun w => w.core == cn && w.who == .ctx hv) = some w →
    let run := exec (.tlbWalk cn (.ctx hv)) s
    let mine : Walk → Bool := fun x => x.core == cn && x.who == .ctx hv
    let va := w.req.va.toNat % 2 ^ 48
    let upper := w.req.va.toNat.testBit 47
    let root := rootOf s (s.ctxOf cn hv).launch w.req.va
    let pte := fun table lvl => table + ptIndex va lvl * 8
    let Asks : Nat → Nat → Prop := fun table lvl => canSend s cn (dieCore (pte table lvl)) 1 = true →
      ∃ t p, run = .next t ∧ t.net = s.net ++ [p] ∧ p.who = .walk (.ctx hv) ∧ p.src = cn ∧ p.dst = dieCore (pte table lvl)
        ∧ p.body = .grd (pteLoc (pte table lvl)) 8 [] ∧ SameMemory s t
        ∧ ((t.slice (sliceOf cn)).walks.find? mine).map (·.phase) = some (.asked table lvl p.id)
    let Fills : State → TlbEntry → Prop := fun t e =>
      (t.ctxOf cn hv).walk = none ∧ (w.req.kind = .x → (t.core cn).itlb.head? = some e)
        ∧ (w.req.kind ≠ .x → (t.core cn).dtlb.head? = some e) ∧ e ∈ (t.slice (sliceOf cn)).tlb
    let Faults : Cause → Prop := fun c => w.req.pref = none →
      let u := s.modSlice (sliceOf cn) (fun y => { y with walks := y.walks.filter (fun x => !mine x) })
      let u := u.modCtxOf cn hv (fun x => { x with walk := none })
      run = .next (precise { u with cur := ⟨cn, hv⟩ } c w.req.val)
    let Marks : Nat → Nat → Nat → Prop := fun pa lvl e => canSend s cn (dieCore pa) 1 = true →
      ∃ t p, run = .next t ∧ t.net = s.net ++ [p] ∧ p.who = .walk (.ctx hv) ∧ p.src = cn ∧ p.dst = dieCore pa ∧ p.body.kind = 3
        ∧ p.body = .mark (pteLoc pa) w.req.kind e ∧ SameMemory s t
        ∧ ((t.slice (sliceOf cn)).walks.find? mine).map (·.phase) = some (.marking pa lvl e p.id)
    let Leaf : Nat → Nat → Nat → Prop := fun pa lvl x =>
      ∃ t, run = .next t ∧ SameMemory s t ∧ Fills t (leafEntry va lvl root.2 pa x)
    (∀ table lvl, w.phase = .next table lvl → Asks table lvl)
    ∧ (w.phase = .start → w.req.mark = none → Asks root.1 3)
    ∧ (∀ e, w.phase = .start → w.req.mark = some e → Marks e.pte e.lvl e.bits)
    ∧ (∀ pa lvl e, w.phase = .mark pa lvl e → Marks pa lvl e)
    ∧ (∀ pa lvl e x, w.phase = .marked pa lvl e x →
      (x.testBit 0 = true → leafKey x = leafKey e → Leaf pa lvl x)
      ∧ (x.testBit 0 = true → leafKey x ≠ leafKey e → Faults .pageProt)
      ∧ (x.testBit 0 = false → x.testBit 1 = false → Faults .pageNotPresent))
    ∧ (∀ c, w.phase = .failed c → Faults c)
    ∧ (∀ table lvl e, w.phase = .got table lvl e →
      (∀ t, entryStep w.req.kind upper lvl e = .table t → Asks t (lvl - 1))
      ∧ (∀ c, entryStep w.req.kind upper lvl e = .fault c → Faults c)
      ∧ (entryStep w.req.kind upper lvl e = .leaf →
        let marked := e.testBit 7 = true ∧ (w.req.kind ≠ .w ∨ e.testBit 8 = true)
        (marked → Leaf (pte table lvl) lvl e) ∧ (¬ marked → Marks (pte table lvl) lvl e))))
  ∧ (∀ (e : TlbEntry), e.frame < 2 ^ 39 → leafKey e.bits = (true, e.frame / 65536, e.rd, e.wr, e.ex))
  ∧ (∀ (s : State) (k : Nat) (p : Packet) (pa x e : Nat) (kind : AccKind), Serviceable s k p → p.body = .mark (pteLoc pa) kind e →
    EntryAt s pa x →
    let y := x ||| 0x80 ||| (if kind = .w then 0x100 else 0)
    let same := x.testBit 0 = true ∧ leafKey x = leafKey e
    (same → ∃ t, exec (.gat k) s = .next t ∧ Answered t p (.val (BitVec.ofNat 64 y)) ∧ HbmStored s t pa (natLe 8 y))
    ∧ (¬ same → ∃ t, exec (.gat k) s = .next t ∧ Answered t p (.val (BitVec.ofNat 64 x)) ∧ SameMemory s t))
  ∧ (∀ (s : State) (k : Nat) (p : Packet) (who : WalkFor) (w : Walk), s.got k = some p → p.trim = false → s.isDone p = false →
    p.who = .walk who → (s.slice (sliceOf p.dst)).walks.find? (fun w => w.core == p.dst && w.who == who) = some w →
    let Phase : WalkPhase → Prop := fun ph => ∃ t, exec (.rply k) s = .next t ∧ SameMemory s t ∧ p ∉ t.net
      ∧ ((t.slice (sliceOf p.dst)).walks.find? (fun w => w.core == p.dst && w.who == who)).map (·.phase) = some ph
    (∀ table lvl bs, w.phase = .asked table lvl p.req → p.body = .rply (.data bs) → Phase (.got table lvl (leNat bs)))
    ∧ (∀ pa lvl e x, w.phase = .marking pa lvl e p.req → p.body = .rply (.val x) → Phase (.marked pa lvl e x.toNat))
    ∧ (∀ pa lvl c v, (w.phase = .asked pa lvl p.req ∨ ∃ e, w.phase = .marking pa lvl e p.req) → p.body = .rply (.fault c v) →
      Phase (.failed c)))
  ∧ (∀ (s : State) (cn : Nat) (hv : Bool) (f : Fill), (s.ctxOf cn hv).fill = some f →
    let Cached : State → List Byte → Prop := fun t bs => SameMemory s t ∧ (t.ctxOf cn hv).fill = none
      ∧ (t.ctxOf cn hv).line f.addr = some ⟨f.addr, if lineOk (wordsOfBytes bs) then .ok else .malformed, wordsOfBytes bs⟩
    (ownFetch s cn hv f.addr = true →
      ∃ t, exec (.lineFill cn hv) s = .next t ∧ Cached t (cellRead (s.svcMem cn) f.addr.toNat 128))
    ∧ (∀ e, ownFetch s cn hv f.addr = false → f.asked = none → lookup s cn (s.ctxOf cn hv).launch f.addr .x = .hit e →
      let g := e.loc (f.addr + BitVec.ofNat 64 f.got.length)
      canSend s cn (dieCore g.pa) 1 = true →
      ∃ t p, exec (.lineFill cn hv) s = .next t ∧ SameMemory s t ∧ t.net = s.net ++ [p] ∧ p.who = .fill hv ∧ p.src = cn
        ∧ p.dst = dieCore g.pa ∧ p.body = .line g (s.ctxOf cn hv).born
        ∧ (t.ctxOf cn hv).fill = some { f with asked := some p.id })
    ∧ (∀ k p, s.got k = some p → p.trim = false → s.isDone p = false → p.dst = cn → p.who = .fill hv → f.asked = some p.req →
      (∀ bs, p.body = .rply (.data bs) → f.got = [] → ∃ t, exec (.rply k) s = .next t ∧ SameMemory s t
        ∧ (t.ctxOf cn hv).fill = some { f with asked := none, got := bs })
      ∧ (∀ bs, p.body = .rply (.data bs) → f.got ≠ [] → ∃ t, exec (.rply k) s = .next t ∧ Cached t (f.got ++ bs))
      ∧ (∀ c v, p.body = .rply (.fault c v) → ∃ t, exec (.rply k) s = .next t
        ∧ ((t.ctxOf cn hv).line f.addr).map (·.state) = some .ecc)))
  ∧ (∀ (s : State) (cn : Nat) (hv : Bool) (home dest : Nat) (k : Task), (s.ctxOf cn hv).moving = some home →
    (s.ctxOf cn hv).task = some k → (∀ o ∈ (s.ctxOf cn hv).out, o.tag = none) → (s.ctxOf cn hv).held = [] →
    migrateTo s k.launch cn home = some dest →
    let r := { wholeRecord k (withdrawn (s.ctxOf cn hv)) (s.ctxOf cn hv).pc with akind := 0, aid := dest, migr := true }
    r.resume = true ∧ r.mask = 0xFFFF ∧ r.pc = (s.ctxOf cn hv).pc.setWidth 48
      ∧ exec (.migration cn hv) s = .next (postedEnd s cn hv r))

/-! ### Copies and lanes at work (spec/04, spec/05) -/

/-- R96 to R98, R228 and R235: a queued operation starts in a free slot; one that has moved every element writes STATUS 1 with the bytes
moved and retires; one that failed writes STATUS 2 with the cause once all below the failed element is written and credited and no
request of it is under way, and its issuer has COPY_FAULT; copy data is stored at its destination with the race tag of its source. That
several elements may be under way and credits are turns of their own is the model's reading (logs 21 and 22). -/
def Obligations.CopyEngineEvents : Prop :=
  (∀ (s : State) (cn op : Nat) (c : CopyOp), s.copyOp cn op = some c →
    (c.running = false → c.hv = false → ((s.core cn).copies.filter (·.running)).length < 6 →
      (∀ o ∈ (s.core cn).copies, o.running = true ∨ c.op ≤ o.op) →
      ∃ t, exec (.copyStart cn op) s = .next t ∧ SameMemory s t
        ∧ (t.core cn).copies = (s.core cn).copies.map (fun o => if o.op = op then { o with running := true } else o))
    ∧ (ObjectOpen s cn c.launch c.obj c.hv → c.running = true → c.failed = none → c.fin = c.count → c.elems = [] → c.owed = 0 →
      c.credit = none → forked s cn c.hv c.fork = true →
      let Completes : Instr → Prop := fun i => ∃ t, exec i s = .next t ∧ ObjectHolds s t cn c.obj 1 0 c.bytes
        ∧ (∀ o ∈ (t.core cn).copies, o.op ≠ op) ∧ ∀ r ∈ (t.core cn).board, r.op ≠ op
      (c.isCopy = true → Completes (.copyComplete cn op)) ∧ (c.isCopy = false → Completes (.drainComplete cn op)))
    ∧ (∀ f e, ObjectOpen s cn c.launch c.obj c.hv → c.failed = some (f, e) → f ≤ c.fin → (∀ x ∈ c.elems, x.busy = false) →
      c.owed = 0 → c.credit = none →
      ∃ t, exec (.copyStop cn op c.above) s = .next t ∧ ObjectHolds s t cn c.obj 2 e.num c.bytes
        ∧ (∀ o ∈ (t.core cn).copies, o.op ≠ op)
        ∧ FaultPending s t cn c.hv ⟨c.launch, .copyFault, 0, BitVec.ofNat 64 c.obj⟩))
  ∧ (∀ (s : State) (k : Nat) (p : Packet) (off : Nat) (g : GLoc) (data : List Byte), Serviceable s k p →
    orderedBehind s p = false →
    (∀ d, p.body = .cwr (.door d) off g data → Memory.wf (s.core p.dst).lm.bytes = true →
      doorView s p.dst p.launch p.hv p.req off data.length = .serve → lmRace s p.dst off data.length p.src p.launch = false →
      lmBadPart s p.dst off data.length = none →
      ∃ t, exec (.cwr k) s = .next t ∧ Answered t p .ack ∧ StoredAt s t p.dst off data
        ∧ ∀ x ∈ granules off data.length, mfind (t.core p.dst).lm.tags x = some ⟨p.src, p.launch⟩)
    ∧ (∀ d, p.body = .cwr (.die d) off g data → Memory.wf s.hbm.bytes = true → g.va % 32 = g.pa % 32 → g.phys = false →
      hbmRace s g data.length p.src p.launch = false → hbmBadPart s g.pa data.length = false → Labelled s g data.length →
      ∃ t, exec (.cwr k) s = .next t ∧ Answered t p .ack ∧ HbmStored s t g.pa data
        ∧ (g.rchk = true → ∀ x ∈ granules g.pa data.length, mfind t.hbm.tags x = some ⟨p.src, p.launch⟩)))

/-! ### Reeds (spec/07, spec/08) -/

/-- R159, R163, R183, R184, R199 and R200: rset and rfeed queue their command at the tail of their side with what their fields say, dense
or with the side's binding, and write STATUS 0 to their object. -/
def Obligations.ReedCommands : Prop :=
  ∀ (s : State) (d a b : SReg) (gen : BitVec 16) (fmt : Fin 16) (r : Dir) (reed : Nat) (east : Bool), s.cur.hv = false →
    Memory.wf s.me.lm.bytes = true → reedOf s.cur.core r = some (reed, east) → Readable s d → Readable s a →
    ObjectReady s (s.val d) → ((s.reed reed).queue east).length < 2 →
    let obj := (s.val d).toNat
    let cols := (s.val a).toNat % 65536
    let scl := (s.val a).toNat / 65536
    let Queued : Instr → LoadCmd ⊕ FeedCmd → Prop := fun i c =>
      ∃ t, exec i s = .next t ∧ CommandQueued s t reed east c ∧ ObjectStarted s t obj ∧ SameRegs s t ∧ MovedOn s t 3
    (∀ (tr : Bool) (uses : BitVec 8) (nc : Fin 64), fmt.val < 9 →
      AreasReady s (s.val a) (256 * (nc.val + 1)) (32 * (nc.val + 1)) →
      Queued (.rset d a gen fmt r false tr uses nc)
        (.inl ⟨gen, fmt.val, uses.toNat, nc.val + 1, false, tr, cols, scl, obj, none⟩))
    ∧ (∀ (tr : Bool) (uses : BitVec 8) (nc : Fin 64) (bd : Binding), fmt.val < 9 → (s.reed reed).binding east = some bd →
      nc.val + 1 = bd.ncol → AreasReady s (s.val a) (sparseBytes fmt.val bd) ((bd.nrow + 31) / 32) →
      bd.nrow ≤ passDepth fmt.val → (∀ j, j < bd.ncol → (bd.cols.getD j []).length ≤ passDepth fmt.val / 4) →
      (tr = true → bd.inv = true ∧ bd.nrow ≤ 64) →
      Queued (.rset d a gen fmt r true tr uses nc)
        (.inl ⟨gen, fmt.val, uses.toNat, nc.val + 1, true, tr, cols, scl, obj, some bd⟩))
    ∧ (∀ (kb : BitVec 12) (x : TileNo) (row0 m1 : Fin 16), fmt.val < 10 → Readable s b → (s.val b).toNat < 32768 →
      loafOf (s.val b).toNat = loafOf s.cur.core → s.placed s.myLaunch (s.val b).toNat = true →
      AreasReady s (s.val a) (256 * (m1.val + 1)) (32 * (m1.val + 1)) →
      Queued (.rfeed d a b gen fmt r kb x row0 m1)
        (.inr ⟨gen, fmt.val, kb.toNat, (s.val b).toNat, x, row0.val, m1.val + 1, cols, scl, obj⟩))

/-- R170, R185, R186 and R187: tarm makes its rows non-present and records the arm; rstat reports the latch of its own launch's
generation; rcancel removes what waits at its side, and its arm form the arms of a tile, with STATUS 3. -/
def Obligations.ArmStatusAndCancel : Prop :=
  (∀ (s : State) (d : SReg) (wide : Bool) (kbn1 : BitVec 12) (x : TileNo) (row0 m1 : Fin 16) (ovw : Bool), s.cur.hv = false →
    Memory.wf s.me.lm.bytes = true → s.me.loan.t3 = false → Readable s d → ObjectReady s (s.val d) →
    row0.val + m1.val < 16 → s.me.arms.length < 8 →
    (s.me.tiles[x].ty = .f32 ∨ s.me.tiles[x].ty = .i32) →
    (∀ y ∈ armTiles wide x, s.me.tiles[y].ty = s.me.tiles[x].ty) →
    let rows := armRows wide x row0.val (m1.val + 1)
    (∀ v ∈ rows, RowPresent s v) →
    ∃ t a, exec (.tarm d wide kbn1 x row0 m1 ovw) s = .next t ∧ t.me.arms = s.me.arms ++ [a] ∧ a.wide = wide ∧ a.tile = x
      ∧ a.row0 = row0.val ∧ a.m = m1.val + 1 ∧ a.kbn = kbn1.toNat + 1 ∧ a.ovw = ovw ∧ a.obj = (s.val d).toNat
      ∧ a.next = List.replicate (m1.val + 1) 0 ∧ a.launch = s.myLaunch ∧ (∀ v ∈ rows, ¬ RowPresent t v)
      ∧ (∀ v, v ∉ rows → t.me.row v = s.me.row v) ∧ ObjectStarted s t (s.val d).toNat ∧ SameRegs s t ∧ MovedOn s t 3)
  ∧ (∀ (s : State) (d : SReg) (r : Dir) (reed : Nat) (east : Bool), s.cur.hv = false → reedOf s.cur.core r = some (reed, east) →
    Present s d →
    let l := (s.reed reed).latch
    ∃ v : Word, exec (.rstat d r) s = .next (wrote s d v 1)
      ∧ (l.state ≠ .empty → reedForeign (s.reed reed) s.myLaunch = false → (s.reed reed).qw.length ≤ 2 →
        (s.reed reed).qe.length ≤ 2 →
        v.toNat / 2 ^ 48 = l.cmd.gen.toNat ∧ v.toNat / 2 ^ 40 % 2 ^ 8 = l.left % 256 ∧ v.toNat / 2 ^ 37 % 8 = l.state.num
          ∧ v.getLsbD 36 = (l.side == east) ∧ v.toNat / 2 ^ 32 % 16 = l.cmd.fmt % 16)
      ∧ (reedForeign (s.reed reed) s.myLaunch = true → (s.reed reed).qw.length ≤ 2 → (s.reed reed).qe.length ≤ 2 →
        v.getLsbD 16 = true ∧ v.toNat / 2 ^ 26 = 0))
  ∧ (∀ (s : State) (r : Dir) (reed : Nat) (east : Bool) (c : RCmd), s.cur.hv = false → reedOf s.cur.core r = some (reed, east) →
    (s.reed reed).latch.state = .empty → (s.reed reed).run = none → (s.reed reed).queue east = [c] →
    let obj := match c.body with
      | .inl l => l.obj
      | .inr f => f.obj
    ObjectOpen s c.core c.launch obj false →
    ∃ t, exec (.rcancel r) s = .next t ∧ (t.reed reed).queue east = [] ∧ ObjectHolds s t c.core obj 3 0 0 ∧ SameRegs s t
      ∧ MovedOn s t 1)
  ∧ (∀ (s : State) (x : TileNo) (a : Arm), s.cur.hv = false → s.me.arms = [a] → a.launch = s.myLaunch → a.wide = false →
    a.tile = x → ObjectOpen s s.cur.core a.launch a.obj false → s.me.launch = a.launch →
    ∃ t, exec (.rcancelArm x) s = .next t ∧ t.me.arms = [] ∧ ObjectHolds s t s.cur.core a.obj 3 0 a.made
      ∧ (∀ i, i < a.m → a.next.getD i 0 < a.kbn → t.me.row (tileRow x (a.row0 + i)) = ⟨(s.me.row (tileRow x (a.row0 + i))).bits, true⟩)
      ∧ SameRegs s t ∧ MovedOn s t 1)

/-- R205, R192 to R196 and R206: pload of a legal program evaluates the program at its address word by word with its parameters and its
metadata, records the binding of its side, whose columns hold the members of the set that is left, and writes their number; pnnz counts a
column, a row or all members of the side's binding, and gives all ones where there is none. That pload and pnnz complete within their
step is the model's reading (log 79). -/
def Obligations.PatternInstructions : Prop :=
  ∀ (s : State) (d a b : SReg) (r : Dir) (reed : Nat) (east : Bool), s.cur.hv = false → reedOf s.cur.core r = some (reed, east) →
    Present s d → Readable s a →
    (∀ (u : State) (ps : List (Nat × Pat)) (md : List Host.Cell) (pa pb : Nat), Readable s b → LoadReady s →
      pa = (s.val a).toNat → pb = (s.val b).toNat → pa % 64 = 0 → pb % 64 = 0 → LocalReady s pa 64 → LocalReady s pb 64 →
      OwnKeys s pa 64 → OwnKeys s pb 64 →
      let prog := wordsOfBytes (cellRead s.me.lm.bytes pa 64)
      let par := wordsOfBytes (cellRead s.me.lm.bytes pb 64)
      let p0 := (par.getD 0 0).toNat
      let nrow := p0 % 1024
      let ncol := p0 / 2 ^ 16 % 64 + 1
      p0 / 2 ^ 22 = 0 → p0 / 1024 % 64 = 0 → 1 ≤ nrow → nrow ≤ 512 → patProgram par nrow 0 0 prog = .ok ps →
      patStored s nrow ncol reed ps = .ok (u, md) →
      let set := (rulePattern nrow ncol (fun k => (par.getD k 0).toNat) (fun a => (cellGet md a).toNat) (prog.map (·.toNat)) []).headD
        (fun _ _ => false)
      ∃ t bd, exec (.pload d a b r) s = .next t ∧ (t.reed reed).binding east = some bd ∧ bd.prog = prog ∧ bd.par = par
        ∧ bd.nrow = nrow ∧ bd.ncol = ncol ∧ bd.launch = s.myLaunch
        ∧ bd.md = md ∧ (∀ i j, i < nrow → j < ncol → (i ∈ bd.cols.getD j [] ↔ set i j = true))
        ∧ t.val d = BitVec.ofNat 64 ((List.range ncol).map (fun j => (List.range nrow).countP (fun i => set i j))).sum ∧ SameRegsBut s t d ∧ SameMemory s t ∧ MovedOn s t 1)
    ∧ ((s.reed reed).binding east = none → exec (.pnnz d a r) s = .next (wrote s d all1 1))
    ∧ (∀ bd, (s.reed reed).binding east = some bd → bd.ncol ≤ 64 → bd.nrow ≤ 512 →
      ((s.val a).toNat < bd.ncol →
        exec (.pnnz d a r) s = .next (wrote s d (BitVec.ofNat 64 (bd.cols.getD (s.val a).toNat []).length) 1))
      ∧ (s.val a = 0xFFFF → exec (.pnnz d a r) s = .next (wrote s d (BitVec.ofNat 64 bd.total) 1))
      ∧ (∀ i, i < bd.nrow → s.val a = BitVec.ofNat 64 (0x10000 + i) →
        exec (.pnnz d a r) s = .next (wrote s d
          (if bd.inv then BitVec.ofNat 64 ((List.range bd.ncol).countP (fun j => (bd.cols.getD j []).contains i)) else all1) 1))
      ∧ (bd.ncol ≤ (s.val a).toNat → (s.val a).toNat < 0x10000 → s.val a ≠ 0xFFFF →
        exec (.pnnz d a r) s = .next (wrote s d all1 1)))

/-- R166, R168, R169 and R175: a load at a head makes an empty or spent latch LOADING; the bytes of its operand make it READY and the
command leaves; a feed of the latch's generation from the other side starts a use; a head that has waited longer than RDVTO leaves
with STATUS 2 and REED_TIMEOUT. That a load reads its columns' bytes at the holder's native depth is the model's reading (log 126), and so is
that a command keeps its place in its queue until it has ended (log 73). -/
def Obligations.ReedHeadEvents : Prop :=
  ∀ (s : State) (reed : Nat) (north : Bool) (c : RCmd) (rest : List RCmd), (s.reed reed).queue north = c :: rest →
    let r := s.reed reed
    let l := r.latch
    (∀ x, c.body = .inl x → l.state = .empty ∨ l.state = .spent → r.run = none →
      reedParked s r = false → reedForeign r c.launch = false → switchedOut s c.core c.launch = false →
      ∃ t, exec (.sideQueueHead reed north) s = .next t ∧ SameMemory s t ∧ (t.reed reed).latch.state = .loading
        ∧ (t.reed reed).latch.side = north ∧ (t.reed reed).latch.core = c.core ∧ (t.reed reed).latch.cmd = x
        ∧ (t.reed reed).latch.left = x.uses ∧ (t.reed reed).queue north = r.queue north)
    ∧ (∀ f n, c.body = .inr f → l.state = .ready → l.left = n + 1 → f.gen = l.cmd.gen → l.side ≠ north → l.cmd.sp = false →
      (pairDepth l.cmd.fmt f.fmt).isSome → r.run = none → reedParked s r = false → reedForeign r c.launch = false →
      switchedOut s c.core c.launch = false →
      ∃ t p, exec (.sideQueueHead reed north) s = .next t ∧ SameMemory s t ∧ (t.reed reed).run = some p ∧ p.feed = f
        ∧ p.started = 0 ∧ p.accepted = 0 ∧ (t.reed reed).latch.left = n
        ∧ (t.reed reed).latch.state = if n = 0 then .ending else .ready)
    ∧ (∀ f, c.body = .inr f → l.state = .ready → f.gen ≠ l.cmd.gen → ahead f.gen l.cmd.gen = false → r.run = none →
      reedParked s r = false → reedForeign r c.launch = false → ObjectOpen s c.core c.launch f.obj false →
      ∃ t, exec (.sideQueueHead reed north) s = .next t ∧ ObjectHolds s t c.core f.obj 2 17 0
        ∧ (∀ x ∈ (t.reed reed).queue north, x.id ≠ c.id)
        ∧ FaultPending s t c.core false ⟨c.launch, .reedMismatch, 0, reedVal 1 f.kb 0 0 f.gen.toNat reed⟩)
    ∧ (∀ u v vs ss, l.state = .loading → l.side = north → r.going north = true → reedParked s r = false → forked s c.core false c.id = true →
      readAreas s l.core l.launch (loadAreas l.cmd).1 = (u, .ok vs) → readAreas u l.core l.launch (loadAreas l.cmd).2 = (v, .ok ss) →
      ∃ t, exec (.latchLoaded reed) s = .next t ∧ SameMemory s t ∧ (t.reed reed).latch = { l with state := .ready, vals := vs, scales := ss }
        ∧ ∀ x ∈ (t.reed reed).queue north, x.id ≠ c.id)
    ∧ (headWaits s reed north c = true → (s.core c.core).rdvto.toNat < waitedFor s.now c.waited c.since →
      let obj := match c.body with
        | .inl x => x.obj
        | .inr f => f.obj
      ObjectOpen s c.core c.launch obj false →
      ∃ t p, exec (.rdvtoTimeout reed (.side north)) s = .next t ∧ ObjectHolds s t c.core obj 2 18 0
        ∧ (∀ x ∈ (t.reed reed).queue north, x.id ≠ c.id) ∧ p.launch = c.launch ∧ p.cause = .reedTimeout
        ∧ p.val.toNat / 2 ^ 56 = 5 ∧ FaultPending s t c.core false p)

/-- R164, R165, R171, R174 and R166: a row that may start is read; eight cycles later its partials are sent to the sink; an arm whose
turn it is adds them to the row of each of its tiles, which is present with its last k-block, and answers RACK; a sink without a matching arm answers RDEF; the slot is freed by
the one and stays with the other, to be sent again 32 cycles later; the last accepted row ends the feed with STATUS 1. -/
def Obligations.ReedRowEvents : Prop :=
  (∀ (s : State) (reed : Nat) (p : Product), (s.reed reed).run = some p →
    let r := s.reed reed
    let k := min (passDepth r.latch.cmd.fmt) (passDepth p.feed.fmt)
    let s1 := countStart s (loafOf (reed / 2)) reed
    (∀ u v vs ss, rowReady s reed = true → rampGrants s (loafOf (reed / 2)) reed = true →
      readAreas s1 p.cmd.core p.cmd.launch [(p.feed.cols + 256 * p.started, usedBytes p.feed.fmt k)] = (u, .ok vs) →
      readAreas u p.cmd.core p.cmd.launch [(p.feed.scl + 32 * p.started, k / 32)] = (v, .ok ss) →
      ∃ t, exec (.rowStart reed) s = .next t ∧ SameMemory s t ∧ (t.reed reed).last = some s.now
        ∧ (t.reed reed).run = some { p with started := p.started + 1, row := some (vs, ss) })
    ∧ (∀ vs ss t0, p.row = some (vs, ss) → r.last = some t0 → t0 + 8 ≤ s.now → (∀ o ∈ r.obuf, o.del.slot ≠ r.slot) →
      canSend s p.cmd.core p.feed.sink 1 = true →
      ∃ t d q, exec (.rowComputed reed) s = .next t ∧ SameMemory s t ∧ d.sink = p.feed.sink ∧ d.kb = p.feed.kb
        ∧ d.row = p.feed.row0 + p.computed ∧ d.slot = r.slot ∧ d.wide = r.latch.cmd.sp ∧ (d.wide = false → d.tile = p.feed.tile)
        ∧ d.lanes = (rowLanes r.latch p.feed.fmt p.cmd.core p.feed.kb vs ss).map (·.1)
        ∧ (t.reed reed).obuf.map (·.del) = r.obuf.map (·.del) ++ [d] ∧ t.net = s.net ++ [q] ∧ q.body = .rdl d
        ∧ q.src = p.cmd.core ∧ q.dst = p.feed.sink ∧ q.vn = 1
        ∧ (t.reed reed).run = some { p with computed := p.computed + 1, row := none })
    ∧ (∀ o, r.obuf.find? (fun x => x.del.slot == o.del.slot) = some o → o.flying = false →
      (∀ t0, o.defer = some t0 → t0 + 32 ≤ s.now) → canSend s p.cmd.core o.del.sink 1 = true →
      ∃ t q, exec (.deliveryResend reed o.del.slot) s = .next t ∧ SameMemory s t ∧ t.net = s.net ++ [q] ∧ q.body = .rdl o.del
        ∧ q.dst = o.del.sink ∧ q.vn = 1))
  ∧ (∀ (s : State) (k : Nat) (q : Packet) (d : Delivery), s.got k = some q → q.body = .rdl d → rowHeld s d = false →
    (q.e = true → (s.core q.dst).fab.executed q.src q.vn q.seq = false) →
    let Notice : State → Body → Prop := fun t b =>
      q ∉ t.net ∧ ∃ a ∈ t.net, a.src = q.dst ∧ a.dst = q.src ∧ a.vn = 0 ∧ a.body = b
    (∀ a, sinkTest (s.core d.sink) d = .add a → (s.core d.sink).store = [] → (s.core d.sink).arms = [a] →
      a.launch = (s.core d.sink).launch → ObjectOpen s d.sink a.launch a.obj false →
      ∃ t, exec (.rdl k) s = .next t ∧ Notice t (.rack d.reed d.slot)
        ∧ (∀ x ∈ armTiles a.wide a.tile, ((t.core d.sink).row (tileRow x d.row)).present = decide (a.kbn ≤ d.kb + 1))
        ∧ (∀ v, (∀ x ∈ armTiles a.wide a.tile, v ≠ tileRow x d.row) →
            ((t.core d.sink).row v).bits = ((s.core d.sink).row v).bits))
    ∧ (∀ g, sinkTest (s.core d.sink) d = .defer g →
      ∃ t, exec (.rdl k) s = .next t ∧ SameMemory s t ∧ Notice t (.rdef d.reed d.slot)
        ∧ ∀ v, (t.core d.sink).row v = (s.core d.sink).row v))
  ∧ (∀ (s : State) (k reed slot : Nat) (q : Packet) (p : Product), s.got k = some q → (s.reed reed).run = some p →
    (q.body = .rack reed slot → reedParked s (s.reed reed) = false → (s.reed reed).obuf.any (fun o => o.del.slot == slot) = true →
      (p.accepted + 1 ≠ p.feed.m → ∃ t, exec (.rack k) s = .next t ∧ SameMemory s t ∧ q ∉ t.net
        ∧ (t.reed reed).run = some { p with accepted := p.accepted + 1 } ∧ ∀ o ∈ (t.reed reed).obuf, o.del.slot ≠ slot)
      ∧ (p.accepted + 1 = p.feed.m → (s.reed reed).latch.state = .ready → ObjectOpen s p.cmd.core p.cmd.launch p.feed.obj false →
        ∃ t, exec (.rack k) s = .next t ∧ q ∉ t.net ∧ ObjectHolds s t p.cmd.core p.feed.obj 1 0 p.feed.m
          ∧ (t.reed reed).run = none ∧ (t.reed reed).latch.ended = (s.reed reed).latch.ended + 1))
    ∧ (q.body = .rdef reed slot → ∃ t, exec (.rdef k) s = .next t ∧ SameMemory s t ∧ q ∉ t.net
      ∧ (t.reed reed).obuf.map (·.del) = (s.reed reed).obuf.map (·.del)
      ∧ ∀ o ∈ (t.reed reed).obuf, o.del.slot = slot → o.flying = false ∧ o.defer = some s.now))

/-- R145, R146, R173 and R202: each lane of a row's delivery is its partial sum, blocks of 32 positions folded in ascending order, of a dense
latch's column or of a sparse latch's members; an absent column or an empty lane is +0, and SAT goes with a saturated lane. R174: the sink
adds a delivered lane to the row, the row first, with AddFP32 under its own core number and k-block 127 and FlushDNZ, or with SatI32; an OVW
arm takes k-block 0 as it is. Each of its tiles takes 16 lanes, and the events join its owner's VFLAG. -/
def Obligations.ReedValues : Prop :=
  (∀ (s : State) (reed : Nat) (p : Product) (vs ss : List Byte) (t0 depth : Nat), (s.reed reed).run = some p →
    p.row = some (vs, ss) → (s.reed reed).last = some t0 → t0 + 8 ≤ s.now → (∀ o ∈ (s.reed reed).obuf, o.del.slot ≠ (s.reed reed).slot) →
    canSend s p.cmd.core p.feed.sink 1 = true →
    let l := (s.reed reed).latch
    let cn := p.cmd.core
    let kb := p.feed.kb
    let int := decide (7 ≤ l.cmd.fmt ∧ l.cmd.fmt ≤ 8)
    let saturates := fun (bs : List (List RuleTerm × Nat × Nat)) => match bs with
      | [] => false
      | b :: rest => int && (ruleSatSum (ruleIntSum b.1) (rest.map (fun b => ruleIntSum b.1))).2
    l.cmd.fmt < 9 → p.feed.fmt < 10 → pairDepth l.cmd.fmt p.feed.fmt = some depth →
    (l.cmd.bind = none → l.cmd.ncol ≤ 16 →
      ∃ t d q, exec (.rowComputed reed) s = .next t ∧ t.net = s.net ++ [q] ∧ q.body = .rdl d ∧ d.int = int ∧ d.lanes.length = 16
        ∧ (∀ c, c < l.cmd.ncol → RulePartial int cn kb (denseBlocks l p.feed.fmt cn kb vs ss c) (d.lanes.getD c 0))
        ∧ (∀ c, l.cmd.ncol ≤ c → d.lanes.getD c 0 = 0)
        ∧ (d.sat = true ↔ ∃ c, c < l.cmd.ncol ∧ saturates (denseBlocks l p.feed.fmt cn kb vs ss c) = true))
    ∧ (∀ b, l.cmd.bind = some b →
      ∃ t d q, exec (.rowComputed reed) s = .next t ∧ t.net = s.net ++ [q] ∧ q.body = .rdl d ∧ d.int = int ∧ d.lanes.length = 64
        ∧ (∀ c, c < 64 → RulePartial int cn kb (sparseBlocks l b p.feed.fmt cn kb vs ss c) (d.lanes.getD c 0))
        ∧ (d.sat = true ↔ ∃ c, c < 64 ∧ saturates (sparseBlocks l b p.feed.fmt cn kb vs ss c) = true)))
  ∧ (∀ (s : State) (k : Nat) (q : Packet) (d : Delivery) (a : Arm), s.got k = some q → q.body = .rdl d → rowHeld s d = false →
    (q.e = true → (s.core q.dst).fab.executed q.src q.vn q.seq = false) → sinkTest (s.core d.sink) d = .add a →
    (s.core d.sink).store = [] → (s.core d.sink).arms = [a] → a.launch = (s.core d.sink).launch →
    ObjectOpen s d.sink a.launch a.obj false →
    let tiles : List (TileNo × Nat) := if a.wide then [(0, 0), (1, 1), (2, 2), (3, 3)] else [(a.tile, 0)]
    let old := fun (x : TileNo × Nat) i => ruleLane .f32 ((s.core d.sink).row (tileRow x.1 d.row)).bits i
    let new := fun (t : State) (x : TileNo × Nat) i => ruleLane .f32 ((t.core d.sink).row (tileRow x.1 d.row)).bits i
    let lane := fun (x : TileNo × Nat) i => (d.lanes.getD (16 * x.2 + i) 0).toNat
    let dnz := fun (x : TileNo × Nat) => (s.core d.sink).tiles[x.1].dnz
    let flags := fun (t : State) ev => (t.ctxOf d.sink false).vflag =
      (s.ctxOf d.sink false).vflag ||| (if d.sat then 16 else 0)
        ||| ruleJoin (tiles.flatMap (fun x => (List.range 16).map (fun i => (ev x i : BitVec 6))))
    (a.ty = .f32 → ∃ t, ∃ sum : TileNo × Nat → Nat → Nat, exec (.rdl k) s = .next t
      ∧ (∀ x ∈ tiles, ∀ i, i < 16 →
          (a.ovw = true ∧ d.kb = 0 → sum x i = lane x i)
          ∧ (¬ (a.ovw = true ∧ d.kb = 0) → RuleAdd .f32 d.sink 127 (old x i) (lane x i) (sum x i))
          ∧ new t x i = ruleFlush (dnz x) fp32 (sum x i))
      ∧ flags t (fun x i => ruleFlushEvent (dnz x) fp32 (sum x i)))
    ∧ (a.ty = .i32 → ∃ t, exec (.rdl k) s = .next t
      ∧ (∀ x ∈ tiles, ∀ i, i < 16 →
          (a.ovw = true ∧ d.kb = 0 → new t x i = lane x i)
          ∧ (¬ (a.ovw = true ∧ d.kb = 0) → ruleInt 32 (new t x i) = ruleSat (ruleInt 32 (old x i) + ruleInt 32 (lane x i))))
      ∧ flags t (fun x i =>
          let sum := ruleInt 32 (old x i) + ruleInt 32 (lane x i)
          if ¬ (a.ovw = true ∧ d.kb = 0) ∧ ruleSat sum ≠ sum then 16 else 0)))

/-! ### Streams and the bellows (spec/12, spec/13) -/

/-- R245, R248 and R249: sopen opens its port's stream with its destinations and its path and makes the result register non-present;
ssend and sclose join the port's queue. -/
def Obligations.StreamInstructions : Prop :=
  ∀ (s : State) (d a b : SReg) (h : HandleNo) (p : Bool), s.cur.hv = false →
    let port := s.me.ports[portIdx p]
    (∀ sh count1 ds, port.opened = none → port.closing = none → Readable s a → Present s d → (s.val a).toNat < 32768 →
      isSvc s.cur.core = false → streamDests s.cur.core (s.val a).toNat sh (count1.toNat + 1) = some ds →
      (∀ k ∈ ds, s.placed s.myLaunch k = true) → s.me.launch = s.myLaunch →
      ∃ t x, exec (.sopen d a sh count1 h p) s = .next t ∧ t.streams = s.streams ++ [x] ∧ x.core = s.cur.core ∧ x.dests = ds
        ∧ x.path = pathXY s.cur.core (ds.getLastD (s.val a).toNat) ∧ x.hnd = h ∧ x.launch = s.myLaunch ∧ x.state = .setup
        ∧ x.reserved = 0 ∧ t.me.ports[portIdx p].opened = some x.id
        ∧ (∃ q ∈ t.net, ∃ arg, q.body = .sopn x.id arg ∧ q.vn = 3 ∧ arg / 2 ^ 16 % 2 ^ 8 = count1.toNat ∧ arg / 2 ^ 13 % 2 ^ 3 = h.val)
        ∧ ¬ Present t d ∧ SameRegsBut s t d ∧ SameMemory s t ∧ MovedOn s t 3)
    ∧ (port.opened.isSome → port.queue.length < 2 → Memory.wf s.me.lm.bytes = true → Readable s d → Readable s a → Readable s b →
      ObjectReady s (s.val d) → (s.val a).toNat % 32 = 0 → (s.val b).toNat % 32 = 0 → s.val b ≠ 0 → (s.val b).toNat ≤ 4096 →
      areaOk s (s.val a).toNat (s.val b).toNat = true →
      ∃ t id, exec (.ssend d a b p) s = .next t ∧ ObjectStarted s t (s.val d).toNat ∧ SameRegs s t ∧ MovedOn s t 1
        ∧ t.me.ports[portIdx p].queue =
            port.queue ++ [.send (s.val a).toNat (s.val b).toNat (s.val d).toNat id false s.ctx.pc])
    ∧ (port.opened.isSome → port.queue.length < 2 →
      ∃ t, exec (.sclose p) s = .next t ∧ SameMemory s t ∧ SameRegs s t ∧ MovedOn s t 1
        ∧ t.me.ports[portIdx p].queue = port.queue ++ [.close] ∧ t.me.ports[portIdx p].opened = none
        ∧ t.me.ports[portIdx p].closing = port.opened)

/-- R245 to R249: a set-up reserves its path link by link, X then Y, waits where another stream holds a link, and answers with its result;
the result reaches the source; a served ssend sends its bytes in packets of up to 256, which go from destination to destination: the first
reserves a slot there, and waits at a destination without room, and the last one's slot is made ready by a later publication; the close
marker ends the stream's producers one destination after the other, frees each link behind it and then the stream. The exact cut into packets
of 256 bytes that go from destination to destination, and the publication by a later turn, are the model's choice (log 151); so are
when a failed or closed stream frees its links (log 93) and from when the wait of a set-up counts (log 96). -/
def Obligations.StreamEvents : Prop :=
  (∀ (s : State) (k cn i arg : Nat) (p : Packet) (x : Stream), s.pkt k = some p → p.at_ = .router cn i → p.body = .sopn x.id arg →
    s.stream x.id = some x → behind s p = false → p.vn = 3 → p.esc = false → isSvc p.dst = false →
    (xOf cn, yOf cn) ≠ (xOf p.dst, yOf p.dst) →
    let q := if xOf cn < xOf p.dst then 0 else if xOf p.dst < xOf cn then 1 else if yOf cn < yOf p.dst then 2 else 3
    let t := routePacket s k
    (linkHeld s x.id (outNo cn q) = true → SameMemory s t ∧ t.net = s.net
        ∧ (t.stream x.id).map (fun y => (y.reserved, y.since)) = some (x.reserved, some (x.since.getD s.now)))
    ∧ (linkHeld s x.id (outNo cn q) = false → hasRoom s cn q p false = true → SameMemory s t
        ∧ t.net = s.net.filter (fun y => y.id != k) ++ [{ p with at_ := .queue cn q p.flits }]
        ∧ (t.stream x.id).map (fun y => (y.reserved, y.since)) = some (x.reserved + 1, none)))
  ∧ (∀ (s : State) (cn port k d : Nat) (p : Packet) (x : Stream), s.pkt k = some p → p.at_ = .queue cn port 0 → p.body = .smrk x.id d →
    s.stream x.id = some x → port < 4 → (s.output (outNo cn port)).check = [k] → (s.output (outNo cn port)).group.contains k = false →
    (s.output (outNo cn port)).next ≤ s.now → (s.output (outNo cn port)).due = false →
    ((flitTurn s cn port).stream x.id).map (·.released) = some (x.released + 1))
  ∧ (∀ (s : State) (k : Nat) (p : Packet) (x : Stream), s.got k = some p → s.stream x.id = some x →
    (∀ arg, p.body = .sopn x.id arg →
      ∃ t q, exec (.sopn k) s = .next t ∧ SameMemory s t ∧ t.net = s.net.filter (fun y => y.id != k) ++ [q] ∧ q.dst = x.core
        ∧ q.vn = 0 ∧ q.req = x.out ∧ q.body = .sres x.id (openResult s x))
    ∧ (∀ d, p.body = .sres x.id 0 → WaitsFor s p.dst false p.req d →
      ∃ t, exec (.sres k) s = .next t ∧ p ∉ t.net ∧ (t.stream x.id).map (·.state) = some .opened
        ∧ (t.ctxOf p.dst false).regs[d] = ⟨0, true⟩)
    ∧ (∀ d r, p.body = .sres x.id r → r ≠ 0 → WaitsFor s p.dst false p.req d →
      ∃ t, exec (.sres k) s = .next t ∧ p ∉ t.net ∧ t.stream x.id = none ∧ (t.ctxOf p.dst false).regs[d] = ⟨r, true⟩)
    ∧ (∀ j total off data,
      let cn := x.dests.getD j 0
      let GoesOn : State → Prop := fun t => (x.dests[j + 1]? = none → p ∉ t.net)
        ∧ ∀ d, x.dests[j + 1]? = some d → ∃ r ∈ t.net, r.id = p.id ∧ r.dst = d ∧ r.body = .sdat x.id (j + 1) total off data
      p.body = .sdat x.id j total off data → cn < 32768 → j ∉ x.done →
      (∀ u o n' q, off = 0 → (∀ a ∈ x.slots, a.1 ≠ j) → destRing s x j = .ring u o n' q → total ≤ 2 ^ bitsOf n' 20 4 →
        n'.testBit (48 + q) = false →
        let i := bitsOf n' 64 32
        let slot := (bitsOf n' 0 16 + i % 2 ^ bitsOf n' 16 4 * 2 ^ bitsOf n' 20 4) % 65536
        ((bitsOf n' 64 32 + 2 ^ 32 - bitsOf n' 96 32) % 2 ^ 32 < 2 ^ bitsOf n' 16 4 →
          doorView u cn x.launch false 0 slot data.length = .serve → lmBadPart u cn slot data.length = none →
          Memory.wf (u.core cn).lm.bytes = true →
          ∃ t, exec (.sdat k) s = .next t ∧ cellRead (t.core cn).lm.bytes slot data.length = data ∧ GoesOn t
            ∧ (total ≤ data.length → ∀ y, t.stream x.id = some y → (j, i) ∈ y.arrived)
            ∧ (data.length < total → ∀ y, t.stream x.id = some y → ∃ v, (j, v) ∈ y.slots ∧ v.toNat / 2 ^ 32 = i
                ∧ v.toNat % 65536 = slot))
        ∧ (2 ^ bitsOf n' 16 4 ≤ (bitsOf n' 64 32 + 2 ^ 32 - bitsOf n' 96 32) % 2 ^ 32 →
          ∃ t, exec (.sdat k) s = .next t ∧ p ∈ t.net ∧ SameMemory u t))
      ∧ (∀ v, x.slots.find? (fun a => a.1 == j) = some (j, v) →
        let at_ := v.toNat % 65536 + off
        doorView s cn x.launch false 0 at_ data.length = .serve → lmBadPart s cn at_ data.length = none →
        Memory.wf (s.core cn).lm.bytes = true →
        ∃ t, exec (.sdat k) s = .next t ∧ StoredAt s t cn at_ data ∧ GoesOn t
          ∧ (total ≤ off + data.length → ∀ y, t.stream x.id = some y → (j, v.toNat / 2 ^ 32) ∈ y.arrived)))
    ∧ (∀ d u off n' q, p.body = .smrk x.id d → destRing s x d = .ring u off n' q → n'.testBit (48 + q) = false →
      Memory.wf (u.core (x.dests.getD d 0)).lm.bytes = true →
      let Marked : State → Prop := fun t =>
        cellRead (t.core (x.dests.getD d 0)).lm.bytes off 32 = natLe 32 (putBits n' (48 + q) 1 1)
      (x.dests.length ≤ d + 1 → ∃ t, exec (.smrk k) s = .next t ∧ Marked t ∧ p ∉ t.net ∧ t.stream x.id = none)
      ∧ (∀ c, x.dests[d + 1]? = some c → ∃ t r, exec (.smrk k) s = .next t ∧ Marked t ∧ r ∈ t.net ∧ r.id = p.id ∧ r.dst = c
          ∧ r.body = .smrk x.id (d + 1) ∧ (t.stream x.id).isSome)))
  ∧ (∀ (s : State) (x : Stream) (t0 l : Nat), s.stream x.id = some x → x.since = some t0 → x.path[x.reserved]? = some l →
    x.state = .setup → 65536 ≤ x.waited + (s.now - t0) →
    ∃ t q, exec (.sopenSetupTimeout x.id) s = .next t ∧ SameMemory s t ∧ q ∈ t.net ∧ q.dst = x.core ∧ q.vn = 0
      ∧ q.body = .sres x.id all1)
  ∧ (∀ (s u : State) (cn : Nat) (p : Bool) (x : Stream) (off n obj id : Nat) (hv : Bool) (pc : Word) (rest : List PortCmd)
      (data : List Byte),
    let port := (s.core cn).ports[portIdx p]
    port.queue = .send off n obj id hv pc :: rest → port.serving = none → port.opened = some x.id → s.stream x.id = some x →
    x.state = .opened → x.core = cn → forked s cn hv id = true →
    engineLocalRead (s.modPort cn (s.core cn).launch (portIdx p) (fun q => { q with queue := rest })) cn (s.core cn).launch off n
      = (u, .ok data) →
    ∃ t, exec (.ssendServe cn p) s = .next t ∧ SameMemory s t ∧ (t.core cn).ports[portIdx p].queue = rest
      ∧ ((t.core cn).ports[portIdx p].serving).isSome
      ∧ ∀ k, k * 256 < n → ∃ q ∈ t.net, q.dst = x.dests.getD 0 cn ∧ q.vn = 3
          ∧ q.body = .sdat x.id 0 n (256 * k) ((data.drop (256 * k)).take 256))
  ∧ (∀ (s : State) (cn : Nat) (p : Bool) (x : Stream) (rest : List PortCmd),
    let port := (s.core cn).ports[portIdx p]
    port.queue = .close :: rest → port.serving = none → port.opened = none → port.closing = some x.id → s.stream x.id = some x →
    x.state = .opened →
    ∃ t q, exec (.ssendServe cn p) s = .next t ∧ SameMemory s t ∧ (t.core cn).ports[portIdx p].queue = rest
      ∧ (t.stream x.id).map (·.state) = some .closing ∧ t.net = s.net ++ [q] ∧ q.dst = x.dests.getD 0 cn ∧ q.vn = 3
      ∧ q.body = .smrk x.id 0)
  ∧ (∀ (s u : State) (cn k i off n' q : Nat) (x : Stream), s.stream x.id = some x →
    x.arrived.find? (fun a => x.dests.getD a.1 0 == cn) = some (k, i) → destRing s x k = .ring u off n' q →
    n'.testBit (48 + q) = false →
    (i + 2 ^ 32 - bitsOf n' 96 32) % 2 ^ 32 < (bitsOf n' 64 32 + 2 ^ 32 - bitsOf n' 96 32) % 2 ^ 32 →
    i < 2 ^ 32 → Memory.wf (u.core cn).lm.bytes = true →
    ∃ t, exec (.streamSlotPublish cn x.id) s = .next t
      ∧ cellRead (t.core cn).lm.bytes off 32 =
          natLe 32 (putBits n' (128 + i % 2 ^ bitsOf n' 16 4) 1 (i / 2 ^ bitsOf n' 16 4 % 2))
      ∧ ∀ y, t.stream x.id = some y → k ∈ y.done)
  ∧ (∀ (s : State) (cn : Nat) (p : Bool) (l n obj off id : Nat) (hv : Bool) (pc : Word) (x : Stream),
    servingOf s cn (portIdx p) = some (l, .send off n obj id hv pc, x) → (s.core cn).launch = l → x.failed = none →
    ObjectOpen s cn l obj hv →
    ∃ t, exec (.ssendComplete cn p) s = .next t ∧ ObjectHolds s t cn obj 1 0 n
      ∧ (t.core cn).ports[portIdx p].serving = none)

/-- R250 to R257: bred and bbar join the operation of their launch and descriptor, a bred with a scoreboard entry; a member contributes
its buffer. Once all its children are there, a slice node folds its members' lanes in ascending core number, a row node its slices in
ascending sx, a loaf root its row nodes in ascending sy and the device root the loaf roots in ascending number, the accumulated value
first; AddFP32 takes the lowest core number among the members of its second value, a level without a member gives no value, and an abort
mark makes an abort mark. The root's result reaches each member's buffer and object. The bound on open operations is R253 as log 99 reads
it. -/
def Obligations.BellowsOperations : Prop :=
  (∀ (s : State) (o : RedOp) (ty : RedType) (d a b : SReg) (cores : List Nat), s.cur.hv = false → Memory.wf s.me.lm.bytes = true →
    Readable s d → Readable s b → ObjectReady s (s.val d) → membersOf s (s.val b) = some cores →
    openMembers s s.cur.core s.myLaunch < 4 →
    let Joined : State → Bool → Prop := fun t bar =>
      ∃ w ∈ t.bellows, w.launch = s.myLaunch ∧ w.desc = s.val b
        ∧ ∃ m ∈ w.members, m.core = s.cur.core ∧ m.obj = (s.val d).toNat ∧ m.bar = bar ∧ m.sent = none ∧ m.done = false
          ∧ (bar = false → m.op = o ∧ m.ty = ty ∧ m.buf = (s.val a).toNat
            ∧ t.me.board = s.me.board ++ [⟨m.id, false, m.buf, m.buf + 63⟩])
    (∃ t, exec (.bbar d b) s = .next t ∧ Joined t true ∧ ObjectStarted s t (s.val d).toNat ∧ SameRegs s t ∧ MovedOn s t 1)
    ∧ (Readable s a → (s.val a).toNat % 64 = 0 → areaOk s (s.val a).toNat 64 = true → s.me.board.length < 8 →
      ∃ t, exec (.bred o ty d a b) s = .next t ∧ Joined t false ∧ ObjectStarted s t (s.val d).toNat ∧ SameRegs s t
        ∧ MovedOn s t 1))
  ∧ (∀ (s : State) (cn : Nat) (b : Bellows) (m : Member), s.bellow b.op = some b → b.members.find? (fun m => m.core == cn) = some m →
    m.sent = none → (s.core cn).launch = b.launch → forked s cn m.hv m.id = true →
    (m.bar = true ∨ (lmRace s cn m.buf 64 cn b.launch = false ∧ lmBadIn s cn m.buf 64 = none ∧ KeysOf s cn b.launch m.buf 64)) →
    ∃ t w, exec (.bellowsContribute cn b.op) s = .next t ∧ SameMemory s t ∧ t.bellow b.op = some w
      ∧ w.members.find? (fun m => m.core == cn) = some { m with
          sent := some (.ok (if m.bar then [] else cellRead (s.core cn).lm.bytes m.buf 64)) })
  ∧ (∀ (s : State) (b : Bellows) (node : BellowsNode) (kids : List (Option (List Byte) × Nat)), s.bellow b.op = some b →
    (∀ x ∈ b.nodes, x.node ≠ node) → b.cores.Pairwise (· < ·) → (∀ c ∈ b.cores, c < 32768) → kids ≠ [] →
    (∀ x ∈ kids, ∀ v, x.1 = some v → v.length = 64) →
    (∀ sl, node = .slice sl → List.Forall₂ (fun c x => x.2 = c ∧ ∃ m e, b.members.find? (fun m => m.core == c) = some m
        ∧ m.sent = some e ∧ x.1 = e.toOption) ((b.waitsFor s).filter (fun c => sliceOf c == sl)) kids) →
    ((∀ sl, node ≠ .slice sl) → List.Forall₂ (fun n x => ∃ y, b.nodes.find? (fun v => v.node == n) = some y ∧ y.val = x.1
        ∧ y.low = x.2) (ruleChildren (b.waitsFor s) node) kids) →
    ∃ t v low, exec (.bellowsNodeCombine b.op node) s = .next t ∧ SameMemory s t
      ∧ (t.bellow b.op).map (·.nodes) = some (b.nodes ++ [⟨node, v, low⟩])
      ∧ (∀ x ∈ kids, low ≤ x.2) ∧ (∃ x ∈ kids, low = x.2) ∧ ((∃ x ∈ kids, x.1 = none) → v = none)
      ∧ ∀ (a : List Byte) (n : Nat) (rest : List (List Byte × Nat)), kids = (some a, n) :: rest.map (fun x => (some x.1, x.2)) →
          ∃ r, v = some r ∧ r.length = 64 ∧ ∀ i, i < 512 / ruleRedWidth b.kind.2 →
            RuleFold b.kind.1 b.kind.2 (ruleRedLane b.kind.2 a i) (rest.map (fun x => (ruleRedLane b.kind.2 x.1 i, x.2)))
              (ruleRedLane b.kind.2 r i))
  ∧ (∀ (s : State) (cn : Nat) (b : Bellows) (m : Member) (r : NodeVal) (sent v : List Byte), s.bellow b.op = some b →
    b.nodes.find? (fun v => v.node == .root) = some r → b.members.find? (fun m => m.core == cn && !m.done) = some m →
    m.core = cn → (s.core cn).launch = b.launch → b.mismatch = false → m.sent = some (.ok sent) → r.val = some v →
    ObjectOpen s cn b.launch m.obj m.hv →
    (m.bar = true → ∃ t, exec (.bellowsResult b.op cn) s = .next t ∧ ObjectHolds s t cn m.obj 1 0 0)
    ∧ (m.bar = false → v.length = 64 → m.obj + 8 ≤ m.buf ∨ m.buf + 64 ≤ m.obj → lmRace s cn m.buf 64 cn b.launch = false →
      lmBadPart s cn m.buf 64 = none →
      ∃ t, exec (.bellowsResult b.op cn) s = .next t ∧ cellRead (t.core cn).lm.bytes m.buf 64 = v
        ∧ cellRead (t.core cn).lm.bytes m.obj 8 = natLe 8 (2 ^ 56 + 64) ∧ ∀ x ∈ (t.core cn).board, x.op ≠ m.id))

/-! ### Tasks (spec/16) -/

/-- R290, R296 and R297: spawn posts a record of its control word, frame, target and registers, a release that waits for the context's
earlier accesses; spawn.park sends it to its frame's door as a release; join sends its door operation and makes its destination
non-present. What the release of a spawn waits for is R290 as log 138 reads it. -/
def Obligations.SpawnParkAndJoin : Prop :=
  (∀ (s u : State) (d a b : SReg) (l : Word), NoBar s → Readable s a → Readable s d →
    let c := s.val a
    let mask : BitVec 16 := c.setWidth 16
    let Case : Word → Nat → Instr → Instr → Prop := fun y len spawn park =>
      TargetReady s y .function u → affinityOk s s.myLaunch (bitsOf c.toNat 20 2) (bitsOf c.toNat 22 15) = true →
      (∀ r : SReg, mask.getLsbD r.val = true → Present s r) →
      let r := spawnRecord s c (s.val d) y 0
      r.pc = y.setWidth 48 ∧ r.frame = s.val d ∧ r.mask = mask ∧ r.launch = s.myLaunch
        ∧ (∀ i : SReg, r.saved[i] = if mask.getLsbD i.val then s.val i else 0) ∧ r.excl = c.getLsbD 37
      ∧ (needRoom u r none = .ok () → ∃ t, exec spawn s = .next t ∧ SameRegs s t ∧ MovedOn s t len
          ∧ (openBefore u s.cur.core s.cur.hv u.ids .dev = false →
              t.slices = (postOrWait (clearTags u s.cur.core .dev) r s.cur.core none).slices)
          ∧ (openBefore u s.cur.core s.cur.hv u.ids .dev = true →
              t.slices = u.slices ∧ t.posts = u.posts ++ [⟨u.ids, r, s.cur.core, none, some (s.cur.hv, u.ids)⟩]))
      ∧ (∀ join, join = bitsOf c.toNat 48 16 → join ≠ 0 → StoreReady s → SendReady s true (peerCore (s.val d)) →
        PeerPlace s (s.val d).toNat 32 → peerOff (s.val d) ≤ 0xFF60 →
        ∃ t, exec park s = .next t ∧ SameRegs s t
          ∧ Sent u t (peerCore (s.val d)) (.park (peerOff (s.val d)) { r with join := BitVec.ofNat 32 join }) true .none (s.val d)
              false true len)
    Case l 3 (.spawnLit d a l) (.spawnParkLit d a l)
    ∧ (Readable s b → Case (s.val b) 1 (.spawn d a b) (.spawnPark d a b)))
  ∧ (∀ (s : State) (d a : SReg), Readable s a → Present s d → StoreReady s → SendReady s true (peerCore (s.val a)) →
    DatRoom s (peerCore (s.val a)) → PeerPlace s (s.val a).toNat 32 → peerOff (s.val a) ≤ 0xFF60 →
    ∃ t, exec (.join d a) s = .next t
      ∧ SentFor s t d (peerCore (s.val a)) (.dat (peerOff (s.val a)) .join) true (.reg d .d) (s.val a) false true 1)

/-- R295, R298 to R301 and R284: await, migrate, yield and whl.at end their task with a record of its registers. With nothing outstanding
the context is free at once, and the record awaits its object, or is posted where the object is done already, goes to its core, resumes
at the next instruction, or goes on the wheel; otherwise the task keeps what it has to do. R121: once its last access is back, the
context's next turn does it. What a post or an entry waits for is R290 as log 138 reads it, and that a wheel's room is tested again at
the ending, and its record takes the first tick after it, are the model's readings (log 121). -/
def Obligations.AwaitMigrateYieldAndWheel : Prop :=
  (∀ (s u : State) (d a b : SReg) (l : Word) (k : Task), NoBar s → Readable s d → Readable s a → s.ctx.task = some k →
    let mask : BitVec 16 := (s.val d).setWidth 16
    (∀ r : SReg, mask.getLsbD r.val = true → Present s r) →
    let cn := s.cur.core
    let hv := s.cur.hv
    let record := fun x => endRecord k s.ctx.regs mask x
    let Later : Instr → Ending → Prop := fun i e =>
      ¬ Quiet s → ∃ t, exec i s = .next t ∧ t.ctx.ending = some e ∧ t.ctx.task = some k ∧ SameRegs s t
    let Posts : State → Instr → CR → Prop := fun v i r =>
      Later i (.post r) ∧ (Quiet s → exec i s = .next (postedEnd (v.ended (.post r)) cn hv r).ran)
    let Await : Word → Instr → Prop := fun y i =>
      TargetReady s y .target u → (s.val a).toNat % 8 = 0 → areaOk s (s.val a).toNat 8 = true → awaitRoom s.me hv = true →
      let obj := (s.val a).toNat
      let r := record y
      needRoom u r none = .ok () →
      Later i (.await obj r)
      ∧ (Quiet s → s.lmByte cn (obj + 7) ≠ 0 ∧ mget s.me.lm.keys (obj + 7) 0 = k.launch →
        exec i s = .next (postedEnd (u.ended (.await obj r)) cn hv r).ran)
      ∧ (Quiet s → ¬ (s.lmByte cn (obj + 7) ≠ 0 ∧ mget s.me.lm.keys (obj + 7) 0 = k.launch) →
        ∃ t, exec i s = .next t ∧ t.me.awaits = s.me.awaits ++ [⟨obj, r, hv, u.ids⟩] ∧ t.ctx.task = none
          ∧ t.posts = s.posts ∧ SameMemory s t)
    let Migrate : Word → Instr → Prop := fun y i =>
      TargetReady s y .target u → (s.val a).toNat < 32768 → s.placed s.myLaunch (s.val a).toNat = true →
      let r := { record y with akind := 0, aid := (s.val a).toNat, migr := true }
      needRoom u r none = .ok () → Posts u i r
    let Wheel : Word → Instr → Prop := fun y i =>
      TargetReady s y .target u → (s.slice (sliceOf cn)).wheel.length < 1024 → needRoom u (record y) (some 1) = .ok () →
      Later i (.wheel (s.val a).toNat (record y))
      ∧ (Quiet s → ∃ t, exec i s = .next t ∧ t.ctx.task = none ∧ t.posts = s.posts ∧ SameMemory s t
        ∧ (t.slice (sliceOf cn)).wheel = (s.slice (sliceOf cn)).wheel
            ++ [⟨(s.val a).toNat, record y, cn, (s.time + Config.wheelPhase (sliceOf cn)) / 1000, hv, u.ids⟩])
    Await l (.awaitLit d a l) ∧ Migrate l (.migrateLit d a l) ∧ Wheel l (.whlAtLit d a l)
    ∧ (Readable s b → Await (s.val b) (.await d a b) ∧ Migrate (s.val b) (.migrate d a b) ∧ Wheel (s.val b) (.whlAt d a b))
    ∧ ((s.ctx.nextPc 1).2 = none →
      let r := { record (s.ctx.nextPc 1).1 with resume := true }
      needRoom s r none = .ok () → Posts s (.yield d) r))
  ∧ (∀ (s : State) (cn : Nat) (hv : Bool) (e : Ending),
    let turn := (nextTurn s).2
    let u := { elapse (nextTurn s).1 turn.wait with cur := ⟨cn, hv⟩ }
    let Turns : State → Prop := fun t => step s = .next (pay t (unitCharge u t))
    turn.who = .issue cn hv → EndDue u cn hv e →
    ((∃ o ∈ (u.ctxOf cn hv).out, o.tag.isSome = true) → Turns u)
    ∧ ((∀ o ∈ (u.ctxOf cn hv).out, o.tag = none) →
      (e = .drop → Turns (freeCtx u cn hv))
      ∧ (∀ r, e = .post r → Turns (postedEnd u cn hv r))
      ∧ (∀ time r, e = .wheel time r → (u.slice (sliceOf cn)).wheel.length < 1024 →
        ∃ t, Turns t ∧ (t.ctxOf cn hv).task = none
          ∧ (t.slice (sliceOf cn)).wheel = (u.slice (sliceOf cn)).wheel
              ++ [⟨time, r, cn, (u.time + Config.wheelPhase (sliceOf cn)) / 1000, hv, u.ids⟩])
      ∧ (∀ obj r, e = .await obj r → awaitRoom (u.core cn) hv = true →
        (u.lmByte cn (obj + 7) ≠ 0 ∧ mget (u.core cn).lm.keys (obj + 7) 0 = r.launch → Turns (postedEnd u cn hv r))
        ∧ (¬ (u.lmByte cn (obj + 7) ≠ 0 ∧ mget (u.core cn).lm.keys (obj + 7) 0 = r.launch) →
          ∃ t, Turns t ∧ (t.ctxOf cn hv).task = none ∧ (t.core cn).awaits = (u.core cn).awaits ++ [⟨obj, r, hv, u.ids⟩]))))

/-- R307, R318, R326 and R320: launch, once every earlier access of its context is performed, hands its descriptor to the crust; lend
takes the loan that its word names, with t3 zeroed; reclaim ends it, with the harvest task aborted and its restart record, CHAN
unchanged, posted to channel 7; hvon and hvoff set EN. That the copies of a harvest whose task has ended are dropped too is the model's
reading (log 89). What launch waits for is R266 as log 138 reads it, and what lend waits for is the model's reading (log 88). -/
def Obligations.LaunchAndLending : Prop :=
  ∀ (s : State) (d a b : SReg) (cls : Fin 16), s.cur.hv = false →
    (Readable s a → Readable s b → Present s d → (s.val a).toNat % 64 = 0 → isCanon (s.val a) = true →
      Memory.wf s.me.lm.bytes = true → ObjectReady s (s.val b) → openBefore s s.cur.core false s.ids .dev = false →
      ∃ t r, exec (.launch d a b cls) s = .next t ∧ t.lreqs = s.lreqs ++ [r] ∧ r.desc = s.val a ∧ r.cls = cls.val
        ∧ r.launch = s.myLaunch ∧ r.obj = (s.val b).toNat ∧ ObjectStarted s t (s.val b).toNat ∧ ¬ Present t d
        ∧ SameRegsBut s t d ∧ MovedOn s t 3)
    ∧ (∀ (t3 : Bool) (n base : Nat), s.me.loan = Loan.none → Readable s a → base < 16 → base + n ≤ 16 → (n ≠ 0 ∨ t3 = true) →
      s.val a = BitVec.ofNat 64 ((if t3 then 65536 else 0) + n * 256 + base) → ownerTouches s s.cur.core ⟨t3, n, base⟩ = false →
      (t3 = true → TilePresent s 3) →
      ∃ t, exec (.lend a) s = .next t ∧ t.me.loan = ⟨t3, n, base⟩ ∧ (t3 = true → t.me.tiles[(3 : TileNo)] = Tile.reset)
        ∧ (∀ x : TileNo, x ≠ 3 ∨ t3 = false → t.me.tiles[x] = s.me.tiles[x]) ∧ SameMemory s t ∧ SameRegs s t ∧ MovedOn s t 1)
    ∧ (∃ t, exec .reclaim s = .next t ∧ t.me.loan = Loan.none ∧ SameMemory s t ∧ SameRegs s t ∧ MovedOn s t 1
      ∧ (s.me.loan ≠ Loan.none → (∀ o ∈ t.me.copies, o.hv = false)
        ∧ (s.me.loan.t3 = true → t.me.tiles[(3 : TileNo)] = Tile.reset)
        ∧ (s.me.harv.task.isSome → s.me.harv.ending = none → t.me.harv.task = none
          ∧ ∀ r, s.me.harv.bank.restart = some r → ∃ p ∈ t.posts, p.cr = { r with loanLost := true } ∧ p.qchan = some 7)))
    ∧ (∃ t, exec .hvon s = .next t ∧ t.me.en = (s.me.en || s.me.permit) ∧ SameMemory s t ∧ SameRegs s t ∧ MovedOn s t 1)
    ∧ (∃ t, exec .hvoff s = .next t ∧ t.me.en = false ∧ SameMemory s t ∧ SameRegs s t ∧ MovedOn s t 1
      ∧ (s.me.en = true → s.me.harv.task.isSome → s.me.parked = false → s.me.parking = none → t.me.parking = some s.now))

/-! ### Traps, special registers and the system (spec/20) -/

/-- R334 with R344, R330 and R335: an owner's trap saves its registers, the address of the next instruction, its mode and the cause, and enters
the handler that the launch's table names in supervisor mode; in a handler the context stops with DBL, and the harvest context always
stops; where the next instruction would be LINE_MALFORMED, trap raises that instead, at its own address (the model's reading, log 118). R345
and R348: rte and rte.at restore the mode, the pc and every register outside the keep mask; outside a handler or in user mode they are
ILLEGAL_OP; halt stops the context, with cause 0 and its own address outside a handler. -/
def Obligations.TrapReturnAndHalt : Prop :=
  (∀ (s : State) (code : BitVec 10) (next : Word), s.ctx.nextPc 1 = (next, none) →
    (∀ (l : Launch) (u : State) (bs : List Byte), s.cur.hv = false → s.ctx.inh = false → s.launch s.myLaunch = some l →
      unitRead s s.myLaunch (l.ttab + 112) 8 = (u, .ok bs) →
      let v := leNat bs
      v.testBit 0 = true → v.testBit 47 = true → v / 2 ^ 48 = 0 →
      ∃ t, exec (.trap code) s = .next t ∧ t.ctx.ecause = 14 ∧ t.ctx.epc = s.ctx.pc ∧ t.ctx.eval = BitVec.ofNat 64 code.toNat
        ∧ t.ctx.pmode = s.ctx.mode ∧ t.ctx.mode = true ∧ t.ctx.inh = true ∧ t.ctx.pc = canon48 (v / 4 * 4)
        ∧ t.ctx.bank.regs = s.ctx.regs ∧ t.ctx.bank.rpc = next ∧ t.ctx.bank.srseed = s.ctx.srseed
        ∧ t.ctx.bank.vflag = s.ctx.vflag ∧ t.ctx.task = s.ctx.task
        ∧ ∀ r : SReg, t.ctx.regs[r] = if s.ctx.regs[r].present then s.ctx.regs[r] else ⟨0, true⟩)
    ∧ (s.ctx.inh = true → ∃ t, exec (.trap code) s = .next t ∧ t.ctx.stop = true ∧ t.ctx.dbl = true ∧ SameRegs s t ∧ SameMemory s t
      ∧ t.ctx.bank = s.ctx.bank ∧ t.ctx.ecause = s.ctx.ecause)
    ∧ (s.cur.hv = true → s.ctx.inh = false → ∃ t, exec (.trap code) s = .next t ∧ t.ctx.stop = true ∧ t.ctx.ecause = 14
      ∧ t.ctx.epc = s.ctx.pc ∧ t.ctx.bank.regs = s.ctx.regs ∧ t.ctx.bank.rpc = next ∧ SameMemory s t))
  ∧ (∀ (s : State) (code : BitVec 10) (x line : Word), s.ctx.nextPc 1 = (x, some line) →
    exec (.trap code) s = .next (precise s .lineMalformed line))
  ∧ ((∀ (s : State) (d a : SReg), s.ctx.mode = true → s.ctx.inh = true → Readable s d →
    let m := s.val d
    (∀ r : SReg, m.getLsbD r.val = true → Present s r) →
    let Back : State → Word → Prop := fun t pc =>
      t.ctx.mode = s.ctx.pmode ∧ t.ctx.inh = false ∧ t.ctx.pc = pc ∧ SameMemory s t
        ∧ ∀ r : SReg, t.ctx.regs[r] = if m.getLsbD r.val then s.ctx.regs[r] else s.ctx.bank.regs[r]
    (∃ t, exec (.rte d) s = .next t ∧ Back t s.ctx.bank.rpc)
    ∧ (∀ u, Readable s a → TargetReady s (s.val a) .start u → ∃ t, exec (.rteAt d a) s = .next t ∧ Back t (s.val a)))
  ∧ (∀ (s : State) (d a : SReg), ¬ (s.ctx.mode = true ∧ s.ctx.inh = true) →
    exec (.rte d) s = .next (precise s .illegalOp (firstWord (.rte d)))
    ∧ exec (.rteAt d a) s = .next (precise s .illegalOp (firstWord (.rteAt d a))))
  ∧ (∀ s : State, ∃ t, exec .halt s = .next t ∧ t.ctx.stop = true ∧ SameRegs s t ∧ SameMemory s t
    ∧ (s.ctx.inh = false → isSvc s.cur.core = false → t.ctx.ecause = 0 ∧ t.ctx.epc = s.ctx.pc ∧ t.ctx.bank.regs = s.ctx.regs
      ∧ t.ctx.bank.rpc = (s.ctx.nextPc 1).1)))

/-- R44, R346 and the register maps of R14, R84, R143, R175, R211, R238, R241, R302, R304, R312, R318, R332, R351, R352 and R354: the
value of every readable special register, and ILLEGAL_OP with EVAL its number for every other and for a supervisor's register in user
mode; what each writable one takes from its operand, by its number and by its own row of the opcode table, with LOAN read only and the
registers of a loaf unchanged by a service core, and ILLEGAL_OP with EVAL its number for one that the mode may not write. RAMP of a service
core reads with EN and PERIOD open (log 84), and that its writes of a loaf's registers change nothing is the model's choice (log 84). -/
def Obligations.SpecialRegisters : Prop :=
  (∀ (s : State) (d : SReg), Present s d →
    let cn := s.cur.core
    let svc := isSvc cn
    let bit := fun (x : Bool) (i : Nat) => if x then 2 ^ i else 0
    let loaf := s.loaf (loafOf cn)
    let R : BitVec 10 → Nat → Prop := fun n v => exec (.csrr d n) s = .next (wrote s d (BitVec.ofNat 64 v) 1)
    R 0x000 (cn % 32768 + bit svc 15) ∧ R 0x001 (if svc then 32768 else sliceOf cn) ∧ R 0x002 (loafOf cn)
    ∧ R 0x010 (bit s.ctx.mode 0 + bit s.ctx.pmode 1 + bit s.ctx.inh 2 + bit s.ctx.dbl 3 + bit s.ctx.stop 4 + bit s.cur.hv 5
        + bit (!s.ctx.bops.isEmpty) 8 + bit (s.ctx.task.any (·.excl)) 16 + bit (s.ctx.task.any (·.loanLost)) 17
        + bit s.ctx.povf 23 + s.ctx.async.length % 256 * 2 ^ 24)
    ∧ R 0x011 s.ctx.ecause.toNat ∧ R 0x012 s.ctx.epc.toNat ∧ R 0x013 s.ctx.eval.toNat
    ∧ R 0x020 s.time ∧ (∀ l, s.launch s.myLaunch = some l → R 0x021 l.ecnt.toNat ∧ R 0x022 l.ebud.toNat)
    ∧ R 0x023 (if svc then 0 else loaf.floor * 256 + loaf.step)
    ∧ R 0x024 (s.crust.power % 2 ^ 16 * 2 ^ 32 + s.crust.nextLim % 2 ^ 12 * 2 ^ 16 + s.crust.cstep % 16 * 256 + bit s.crust.cap 3
        + bit loaf.ramping 2 + bit (!svc && (s.launch s.myLaunch).any Launch.over) 1 + bit s.crust.above 0)
    ∧ R 0x030 s.me.bconf.toNat ∧ R 0x031 s.me.trimc.toNat ∧ R 0x032 s.me.rdvto.toNat
    ∧ R 0x040 (bit s.me.en 0 + bit s.me.harv.task.isSome 1 + bit s.me.parked 2 + bit s.me.excld 3 + bit s.me.permit 4
        + s.me.revokes * 2 ^ 32)
    ∧ R 0x041 (s.me.loan.base + s.me.loan.nunits * 256 + bit s.me.loan.t3 16)
    ∧ R 0x050 s.ctx.srseed.toNat
    ∧ (vcordsDone s = true → R 0x051 s.ctx.vflag.toNat
        ∧ exec (.vflagRead d) s = .next (wrote s d (s.ctx.vflag.setWidth 64) 1))
    ∧ (s.ctx.mode = true → (svc = false → R 0x025 (bit loaf.rampEn 16 + loaf.period % 2 ^ 16))
        ∧ (svc = true → ∃ v : Word, v.toNat < 2 ^ 17 ∧ exec (.csrr d 0x025) s = .next (wrote { s with fresh := s.fresh + 1 } d v 1))
        ∧ R 0x060 (if svc then 0 else loaf.rto % 256 * 2 ^ 16 + bit loaf.modeE 0))
    ∧ (∀ n : BitVec 10, (s.ctx.mode = false ∧ (n = 0x025 ∨ n = 0x060)) ∨ (n.toNat ∉ [0x000, 0x001, 0x002, 0x010, 0x011, 0x012, 0x013,
        0x020, 0x021, 0x022, 0x023, 0x024, 0x025, 0x030, 0x031, 0x032, 0x040, 0x041, 0x050, 0x051, 0x060]) →
        exec (.csrr d n) s = .next (precise s .illegalOp (BitVec.ofNat 64 n.toNat))))
  ∧ (∀ (s : State) (a : SReg), Readable s a →
    let v := s.val a
    let svc := isSvc s.cur.core
    let lf := loafOf s.cur.core
    let W : BitVec 10 → List Instr → State → Prop := fun n is u =>
      ∀ i ∈ Instr.csrw n a :: is, exec i s = .next (u.advance 1).ran
    W 0x030 [.bconfWrite a] (s.modMe (fun c => { c with bconf := v }))
    ∧ W 0x031 [.trimcWrite a] (s.modMe (fun c => { c with trimc := v }))
    ∧ W 0x032 [.rdvtoWrite a] (s.modMe (fun c => { c with rdvto := if v.toNat % 2 ^ 32 < 256 then 256 else v.setWidth 32 }))
    ∧ W 0x050 [.srseedWrite a] (s.modCtx (fun c => { c with srseed := if v.toNat % 2 ^ 32 = 0 then 1 else v.setWidth 32 }))
    ∧ W 0x051 [] (s.modCtx (fun c => { c with vflag := v.setWidth 6 }))
    ∧ (s.ctx.mode = true →
      W 0x010 [.statusWrite a] (if v.getLsbD 23 then s.modCtx (fun c => { c with povf := false }) else s)
      ∧ W 0x011 [] (s.modCtx (fun c => { c with ecause := v.setWidth 10 }))
      ∧ W 0x012 [] (s.modCtx (fun c => { c with epc := v })) ∧ W 0x013 [] (s.modCtx (fun c => { c with eval := v }))
      ∧ (svc = false →
        W 0x023 [.pstepWrite a] (s.modLoaf lf (fun l => { l with floor := v.toNat / 256 % 16 }))
        ∧ W 0x024 [.pwrstatWrite a] (s.modCrust (fun c => { c with nextLim := max 1200 (min 2400 (v.toNat / 65536 % 4096)) }))
        ∧ (∀ i ∈ [Instr.csrw 0x025 a, .rampWrite a],
          ∃ t, exec i s = .next t ∧ (t.loaf lf).rampEn = v.getLsbD 16 ∧ (t.loaf lf).period = max 250 (v.toNat % 65536)
            ∧ (v.getLsbD 16 = false → (t.loaf lf).g = 16) ∧ SameRegs s t ∧ SameMemory s t ∧ MovedOn s t 1)
        ∧ W 0x060 [.fabmodeWrite a] (s.modLoaf lf (fun l => { l with rto := max 1 (v.toNat / 65536 % 256) })))
      ∧ (svc = true → W 0x023 [.pstepWrite a] s ∧ W 0x024 [.pwrstatWrite a] s ∧ W 0x025 [.rampWrite a] s ∧ W 0x060 [.fabmodeWrite a] s)
      ∧ W 0x041 [] s
      ∧ (∀ l, s.launch s.myLaunch = some l → ∀ i ∈ [Instr.csrw 0x022 a, .ebudWrite a],
        ∃ t, exec i s = .next t ∧ (t.launch s.myLaunch).map (·.ebud) = some v ∧ SameRegs s t ∧ SameMemory s t ∧ MovedOn s t 1)
      ∧ (∀ i ∈ [Instr.csrw 0x040 a, .hvctlWrite a],
        ∃ t, exec i s = .next t ∧ t.me.en = (v.getLsbD 0 && s.me.permit) ∧ SameRegs s t ∧ SameMemory s t ∧ MovedOn s t 1))
    ∧ (∀ n : BitVec 10, n.toNat ∉ [0x030, 0x031, 0x032, 0x050, 0x051] →
      (s.ctx.mode = false ∨ n.toNat ∉ [0x010, 0x011, 0x012, 0x013, 0x022, 0x023, 0x024, 0x025, 0x040, 0x041, 0x060]) →
      exec (.csrw n a) s = .next (precise s .illegalOp (BitVec.ofNat 64 n.toNat)))
    ∧ (s.ctx.mode = false → ∀ i ∈ [(Instr.statusWrite a, 0x010), (.ebudWrite a, 0x022), (.pstepWrite a, 0x023), (.pwrstatWrite a, 0x024),
        (.rampWrite a, 0x025), (.hvctlWrite a, 0x040), (.fabmodeWrite a, 0x060)], exec i.1 s = .next (precise s .illegalOp i.2)))

/-- R347, R349 and R283: tlbi and tlbv remove the entries of their scope and go on once its earlier global accesses are acknowledged; svc
hands its arguments to the resident kernel, whose reply writes the destination; the fences complete where nothing they count is open.
That the wait of tlbi and tlbv is for every earlier global access, and when svc moves on, are the model's readings (logs 59 and 112). -/
def Obligations.InvalidationServiceAndFence : Prop :=
  (∀ (s : State) (all : Bool) (sc : Scope) (a b : SReg), s.ctx.mode = true → (isSvc s.cur.core = false ∨ sc = .dev) → Readable s a →
    Readable s b → isCanon (s.val a) = true →
    let mine := fun (e : TlbEntry) => all = true ∨ e.launch = (s.val b).toNat % 65536
    let upper := (s.val a).toNat.testBit 47 = true
    let Gone : State → (TlbEntry → Prop) → Prop := fun t p =>
      (∀ k, coreInScope s.cur.core sc k = true → ∀ e, e ∈ (t.core k).dtlb ∨ e ∈ (t.core k).itlb → ¬ p e)
        ∧ (∀ k, sliceInScope s.cur.core sc k = true → ∀ e ∈ (t.slice k).tlb, ¬ p e) ∧ t.ctx.inval = some s.ids
        ∧ t.ctx.stall.isSome ∧ t.ctx.pc = s.ctx.pc ∧ SameRegs s t ∧ SameMemory s t
    (s.ctx.inval = none →
      (∃ t, exec (.tlbi all sc a b) s = .next t ∧ Gone t (fun e => e.maps (s.val a) = true ∧ (upper ∨ mine e)))
      ∧ (∃ t, exec (.tlbv all sc b) s = .next t ∧ Gone t mine))
    ∧ (∀ id, s.ctx.inval = some id → (∀ p ∈ s.cores, coreInScope s.cur.core sc p.1 = true → p.2.globalBefore id = false) →
      ∀ i ∈ [Instr.tlbi all sc a b, .tlbv all sc b],
        exec i s = .next ((s.modCtx (fun c => { c with inval := none })).advance 1).ran))
  ∧ (∀ (s : State) (d a : SReg) (n : Fin 8), s.ctx.svc = none → (∀ i, i < n.val → Readable s (Fin.ofNat 16 (a.val + i))) →
    Present s d → openBefore s s.cur.core s.cur.hv s.ids .dev = false → s.ctx.rels = [] →
    ∃ t, exec (.svc d a n) s = .next t ∧ t.ctx.pc = s.ctx.pc ∧ SameRegs s t ∧ SameMemory s t
      ∧ t.ctx.svc = some ⟨d, (List.range n.val).map (fun i => s.val (Fin.ofNat 16 (a.val + i)))⟩)
  ∧ (∀ (s : State) (cn : Nat) (hv : Bool) (v : Word) (r : SvcReq), (s.ctxOf cn hv).svc = some r → (s.ctxOf cn hv).stop = false →
    (hv = true → (s.core cn).parking = none ∧ (s.core cn).parked = false) →
    ∃ t, exec (.svcReply cn hv v) s = .next t ∧ (t.ctxOf cn hv).regs[r.dest] = ⟨v, true⟩ ∧ (t.ctxOf cn hv).svc = none
      ∧ ((t.ctxOf cn hv).pc, (t.ctxOf cn hv).closedFrom) = (s.ctxOf cn hv).nextPc 1 ∧ SameMemory s t)
  ∧ (∀ (s : State) (sc : Scope), NoBar s →
    let counted := fun (o : Out) => o.tag.isSome = true ∧ inScope s.cur.core sc o.home = true
    let Past : Instr → Prop := fun i => ∃ t, exec i s = .next t ∧ SameRegs s t ∧ SameMemory s t ∧ MovedOn s t 1
    ((∀ o ∈ s.ctx.out, counted o → o.load = false) → s.ctx.ngets = [] → Past (.fence .acq sc))
    ∧ Past (.fence .rel sc)
    ∧ (openBefore s s.cur.core s.cur.hv s.ids sc = false → Past (.fence .full sc)))

/-- R336, R178, R73 and R35: a context that may issue takes first the LINE_MALFORMED of a closed line that it fell out of (the model's
reading, log 120), then the oldest held fault of an access, then a further BAR_OVER after the rte of one's handler, and otherwise the
oldest asynchronous fault of its launch. R110 and R353: a counted stall of more than 65,536 cycles is PRESENCE_TIMEOUT's, and of the
cycles that pass those in which the throttle alone holds what it waits on do not count; that the event marks the stall as due and the
instruction takes the trap at its next turn, if it waits then, is the model's choice (log 58). R262: outside a handler the oldest pending
BAR_OVER is taken, in place of the instruction, by a fence, by an instruction that ends a task, and by one whose first source holds a
refused arrival's ALL1. When a further BAR_OVER is due is the model's reading (log 56). -/
def Obligations.DueFaultsAndTimeouts : Prop :=
  (∀ (s : State) (cn : Nat) (hv : Bool), mayIssue s cn hv = true → (s.ctxOf cn hv).units = none →
    let c := s.ctxOf cn hv
    (∀ a, c.closedFrom = some a →
      exec (.asyncFaultTake cn hv) s = .next (takeTrap s cn hv .lineMalformed .precise c.pc c.pc a))
    ∧ (∀ p rest, c.closedFrom = none → c.inh = false → c.held = p :: rest →
      exec (.asyncFaultTake cn hv) s = .next
        (takeTrap (s.modCtxOf cn hv (fun x => { x with held := rest })) cn hv p.cause .access p.epc c.pc p.val))
    ∧ (∀ b rest, c.closedFrom = none → c.inh = false → c.held = [] → c.further = true → c.bops = b :: rest →
      exec (.asyncFaultTake cn hv) s = .next
        (takeTrap (s.modCtxOf cn hv (fun x => { x with bops := rest })) cn hv .barOver .pending b.epc c.pc b.obj))
    ∧ (∀ p, c.closedFrom = none → c.inh = false → c.held = [] → c.bops = [] → c.async.find? (fun p => p.launch == c.launch) = some p →
      exec (.asyncFaultTake cn hv) s = .next
        (takeTrap (s.modCtxOf cn hv (fun x => { x with async := x.async.erase p })) cn hv p.cause .async c.pc c.pc p.val)))
  ∧ (∀ (s : State) (cn : Nat) (hv : Bool) (code since : Nat) (due : Bool), mayIssue s cn hv = true →
    (s.ctxOf cn hv).stall = some ⟨some code, since, due⟩ → since + 65536 < s.now →
    exec (.presenceTimeout cn hv) s = .next (s.modCtxOf cn hv (fun c => { c with stall := some ⟨some code, since, true⟩ })))
  ∧ (∀ (s : State) (cn code since n : Nat) (due : Bool), (s.core cn).owner.stall = some ⟨some code, since, due⟩ →
    ((elapse s n).core cn).owner.stall = some ⟨some code, since + (List.range n).countP (throttleHolds s cn code), due⟩
      ∧ ((elapse s n).core cn).harv = (s.core cn).harv)
  ∧ (∀ (s : State) (b : Bop) (rest : List Bop), s.ctx.inh = false → s.ctx.bops = b :: rest →
    (∀ (i : Instr) (d r x : SReg) (more : List SReg), scalarDest i = some d → scalarReads i = r :: x :: more →
      (∃ y ∈ s.ctx.bops, y.reg = some r) → exec i s = .next (barTaken s b rest))
    ∧ (∀ (o : FenceOrd) (sc : Scope) (d a c : SReg) (δ : BitVec 7) (w : Fin 32) (l : Word),
      ∀ i ∈ [Instr.fence o sc, .done, .cont d δ w, .contLit d l, .await d a c, .awaitLit d a l, .migrate d a c, .migrateLit d a l,
        .yield d, .whlAt d a c, .whlAtLit d a l], exec i s = .next (barTaken s b rest)))

/-! ### The scheduler and launches (spec/16) -/

/-- R294, R286, R313 and R323: a pick takes from the channel and the slot that R294 names and starts the task of the record, Last and
Since following; after a core of a higher or the same index of its slice in one cycle it waits; an owner's pick of an EXCL record waits
for the harvest, and one of another launch makes the switch, or begins a park. EXCLD follows the EXCL records and the task of one, and an
exclusive demand parks the harvest and counts in REVOKES once. R290, R291, R301, R308 and R343: a post of hardware is made once its queue
has room and, where it is a context's release, the accesses before it are performed; a quantum boundary gives the slot of the queue that
has been mapped longest to one that waits; a wheel's tick posts what is due at its own TIME, in ascending t; a returned page takes its
frame of the pool, and the tasks that waited for it are posted. R314 and R317: the end of a park saves the harvest context in its reserve
bank, and a resume brings it back. That only a queue mapped for a whole quantum gives up its slot, and that a task past its commit point
ends before it parks, are the model's readings (log 130, 128); that a context's post waits for its earlier accesses is R290 as log 138
reads it, and the page of a swapped entry that no swap-out has written is the model's choice (log 162). That a late turn makes one
boundary or tick is the model's reading too (logs 148 and 121). -/
def Obligations.SchedulerAndHarvestEvents : Prop :=
  ((∀ (s u : State) (cn k n : Nat) (hv : Bool) (q : QSlot) (l : Launch) (r : CR), freeToPick s cn hv = true →
    PickOf s cn hv k n q l →
    let c := s.core cn
    let waits := hv = false ∧ headExcl s l q = true ∧ c.harv.task.isSome = true ∧ c.parked = false
    (q.served s.now (childOf cn) = true ∨ waits → exec (.pick cn hv) s = .next s)
    ∧ (q.served s.now (childOf cn) = false → ¬ waits → hv = false → c.launch ≠ l.num →
      (canSwitch s cn = true → c.loan = Loan.none → ∃ t, exec (.pick cn hv) s = .next t ∧ (t.core cn).launch = l.num)
      ∧ (canSwitch s cn = false → c.loan = Loan.none → c.harv.task.isSome → c.parked = false → c.parking = none →
        ∃ t, exec (.pick cn hv) s = .next t ∧ (t.core cn).parking = some s.now
          ∧ (t.core cn).revokes = (c.revokes + 1) % 65536 ∧ (t.core cn).launch = c.launch))
    ∧ (q.served s.now (childOf cn) = false → ¬ waits → (hv = false → c.launch = l.num) →
      takeRecord s (sliceOf cn) n (childOf cn) = (u, some r) →
      ∃ t, exec (.pick cn hv) s = .next t ∧ (t.core cn).lastChan[k]? = some n ∧ (t.core cn).since[k]? = some s.time
        ∧ (t.ctxOf cn hv).task = some ⟨r.launch, r.chan, r.akind, r.aid, r.frame, r.excl, r.loanLost⟩
        ∧ (t.ctxOf cn hv).pc = canon48 r.pc.toNat ∧ (t.ctxOf cn hv).arrive = .entry r.resume
        ∧ ∀ i : SReg, (t.ctxOf cn hv).regs[i] =
            ⟨if r.mask.getLsbD i.val then r.saved[i] else if i.val = 14 then r.frame else 0, true⟩))
  ∧ (∀ (s : State) (cn : Nat),
    let c := s.core cn
    let d := (refreshCore s cn).core cn
    let demand := ∃ m, Eligible s cn m ∧ exclIn s m.2.2 m.2.1 = true
    (d.excld = true ↔ demand ∨ (c.excld = true ∧ ∃ k, c.owner.task = some k ∧ k.excl = true))
    ∧ (demand ∧ c.excld = false ∧ c.harv.task.isSome = true ∧ c.parked = false ∧ c.parking = none →
      d.parking = some s.now ∧ d.revokes = (c.revokes + 1) % 65536)
    ∧ (¬ (demand ∧ c.excld = false ∧ c.harv.task.isSome = true ∧ c.parked = false ∧ c.parking = none) →
      d.parking = c.parking ∧ d.revokes = c.revokes))
  ∧ (∀ (s : State) (n : Nat) (p : Post), s.posts.find? (fun p => p.id == n) = some p → (s.launch p.cr.launch).isSome →
    (∀ hv upTo, p.after = some (hv, upTo) → openBefore s p.core hv upTo .dev = true → exec (.hardwarePost n) s = .next s)
    ∧ ((∀ hv upTo, p.after = some (hv, upTo) → openBefore s p.core hv upTo .dev = false) →
      let v := if p.after.isSome then clearTags s p.core .dev else s
      (∀ u, post v p.cr p.core p.qchan = some u →
        ∃ t, exec (.hardwarePost n) s = .next t ∧ t.slices = u.slices ∧ t.hbm = u.hbm ∧ ∀ x ∈ t.posts, x.id ≠ n)
      ∧ (post v p.cr p.core p.qchan = none → exec (.hardwarePost n) s = .next v)))
  ∧ (∀ (s : State) (slice : Nat),
    let sl := s.slice slice
    let b := sl.quantum + 1
    (s.time < b * 20000 → exec (.quantumBoundary slice) s = .next s)
    ∧ (b * 20000 ≤ s.time →
      (sl.waiting = [] ∨ (∀ p ∈ sl.slots, b ≤ p.2.from_) ∧ sl.free = none →
        ∃ t, exec (.quantumBoundary slice) s = .next t ∧ t.slice slice = { sl with quantum := b } ∧ SameMemory s t)
      ∧ (∀ w l n x z h tl, sl.waiting = [w] → (∀ m, m < 64 → (mfind sl.slots m).isSome) → n < 64 → mfind sl.slots n = some x →
        x.from_ < b → (∀ p ∈ sl.slots, p ≠ (n, x) → p.2.from_ < b → x.at_ < p.2.at_) → s.launch w.launch = some l →
        let back := if x.head = x.tail then [] else [x.name]
        queueHeader ((unmapSlot (s.modSlice slice (fun y => { y with quantum := b })) slice n).modSlice slice
          (fun y => { y with waiting := back })) l w.idx = (z, h, tl) → h ≠ tl →
        ∃ t, exec (.quantumBoundary slice) s = .next t ∧ (t.slice slice).quantum = b ∧ (t.slice slice).waiting = back
          ∧ mfind (t.slice slice).slots n = some ⟨w, h, tl, s.now, b, none⟩
          ∧ ∀ m, m ≠ n → mfind (t.slice slice).slots m = mfind sl.slots m)))
  ∧ (∀ (s : State) (slice : Nat),
    let sl := s.slice slice
    let k := sl.ticked + 1
    let at_ := k * 1000 - Config.wheelPhase slice
    let v := s.modSlice slice (fun x => { x with ticked := k, wheel := [] })
    let Waits := fun r : WheelRec => openBefore s r.core r.hv r.upTo .dev = true
    let Due := fun r : WheelRec => r.t ≤ at_ ∧ r.tick < k
    let Held := fun (i : Nat) (r : WheelRec) => (⟨i, r.cr, r.core, some 1, some (r.hv, r.upTo)⟩ : Post)
    ((s.time + Config.wheelPhase slice) / 1000 < k → exec (.wheelTick slice) s = .next s)
    ∧ (k ≤ (s.time + Config.wheelPhase slice) / 1000 →
      ((∀ r ∈ sl.wheel, ¬ Due r) → ∃ t, exec (.wheelTick slice) s = .next t ∧ (t.slice slice).wheel = sl.wheel
        ∧ (t.slice slice).ticked = k ∧ t.posts = s.posts ∧ SameMemory s t)
      ∧ (∀ r, sl.wheel = [r] → Due r →
        (Waits r → exec (.wheelTick slice) s = .next { v with posts := s.posts ++ [Held s.ids r], ids := s.ids + 1 })
        ∧ (¬ Waits r →
          (∀ u, post (clearTags v r.core .dev) r.cr r.core (some 1) = some u → exec (.wheelTick slice) s = .next u)
          ∧ (post (clearTags v r.core .dev) r.cr r.core (some 1) = none → ∃ t p, exec (.wheelTick slice) s = .next t
            ∧ (t.slice slice).wheel = [] ∧ (t.slice slice).ticked = k ∧ p ∈ t.posts ∧ p.cr = r.cr ∧ p.qchan = some 1)))
      ∧ (∀ r x, sl.wheel = [r, x] → Due r → Due x → Waits r → Waits x → x.t < r.t →
        exec (.wheelTick slice) s = .next { v with posts := s.posts ++ [Held s.ids x, Held (s.ids + 1) r], ids := s.ids + 2 })))
  ∧ (∀ (s : State) (pte : Nat) (entry : Word), Memory.wf s.hbm.bytes = true →
    (entry.getLsbD 0 = false ∨ s.crust.hostMode = true → exec (.pageReturn pte entry) s = .next s)
    ∧ (entry.getLsbD 0 = true → s.crust.hostMode = false →
      ∀ p : FlashPage, (s.crust.flash.find? (fun x => x.pte == pte) = some p
        ∨ (s.crust.flash.find? (fun x => x.pte == pte) = none ∧ p = ⟨pte, 0, 0, 0, true, [], []⟩)) →
      let frame := bitsOf entry.toNat 16 23 * 65536
      let fs := (List.range (2 ^ (pageBits p.lvl - 16))).map (frame / 65536 + ·)
      ((p.stored = false ∨ ∃ f ∈ fs, f ∉ s.crust.pool) → exec (.pageReturn pte entry) s = .next s)
      ∧ (p.stored = true → (∀ f ∈ fs, f ∈ s.crust.pool) →
        ((∀ x ∈ s.crust.swapped, x.pte ≠ pte) →
          ∃ t, exec (.pageReturn pte entry) s = .next t ∧ t.crust.flash = s.crust.flash.erase p
            ∧ (∀ f, f ∈ t.crust.pool ↔ f ∈ s.crust.pool ∧ f ∉ fs) ∧ cellRead t.hbm.bytes pte 8 = natLe 8 entry.toNat
            ∧ ∀ i v, p.bytes = [(i, v)] → i < 2 ^ pageBits p.lvl → (frame + i < pte ∨ pte + 8 ≤ frame + i) →
                cellGet t.hbm.bytes (frame + i) = v)
        ∧ (∀ x v, s.crust.swapped = [x] → x.pte = pte → swapIn s pte entry = some v →
          let w := (hbmWrite v pte pte 0 true (natLe 8 entry.toNat)).modCrust (fun c => { c with swapped := [] })
          let y := clearTags w x.core .dev
          (openBefore w x.core x.hv x.upTo .dev = true → exec (.pageReturn pte entry) s = .next
            { w with posts := w.posts ++ [⟨w.ids, x.cr, x.core, none, some (x.hv, x.upTo)⟩], ids := w.ids + 1 })
          ∧ (openBefore w x.core x.hv x.upTo .dev = false →
            (∀ u, post y x.cr x.core none = some u → exec (.pageReturn pte entry) s = .next u)
            ∧ (post y x.cr x.core none = none → ∃ t q, exec (.pageReturn pte entry) s = .next t
              ∧ cellRead t.hbm.bytes pte 8 = natLe 8 entry.toNat ∧ t.crust.swapped = [] ∧ q ∈ t.posts ∧ q.cr = x.cr))))))
  ∧ (∀ (s : State) (cn : Nat),
    let c := s.core cn
    (∀ t0, c.parking = some t0 → c.harv.task.isSome → c.harv.ending.isSome ∨ c.harv.units.isSome →
      exec (.harvestPark cn) s = .next s)
    ∧ (∀ t0, c.parking = some t0 → c.harv.task.isSome → c.harv.ending = none → c.harv.units = none → c.harv.closedFrom = none →
      c.harv.stop = false →
      ∃ t, exec (.harvestPark cn) s = .next t ∧ (t.core cn).parked = true ∧ (t.core cn).parking = none
        ∧ (t.core cn).harv.bank.regs = c.harv.regs ∧ (t.core cn).harv.bank.rpc = c.harv.pc
        ∧ (t.core cn).harv.bank.srseed = c.harv.srseed ∧ (t.core cn).harv.bank.vflag = c.harv.vflag
        ∧ (t.core cn).harv.task = c.harv.task ∧ (t.core cn).owner = c.owner ∧ SameMemory s t)
    ∧ (c.parked = true → c.harvestOn = true → c.preempt = none → switchDue s cn = false → c.harv.stop = false →
      ∃ t, exec (.harvestResume cn) s = .next t ∧ (t.core cn).parked = false ∧ (t.core cn).harv.regs = c.harv.bank.regs
        ∧ (t.core cn).harv.pc = c.harv.bank.rpc ∧ (t.core cn).harv.handles = c.harv.bank.handles
        ∧ (t.core cn).harv.srseed = c.harv.bank.srseed ∧ (t.core cn).harv.vflag = c.harv.bank.vflag
        ∧ (t.core cn).owner = c.owner ∧ SameMemory s t)
    ∧ (c.parked = false ∨ c.harvestOn = false ∨ c.preempt.isSome ∨ switchDue s cn = true →
      exec (.harvestResume cn) s = .next s)))

/-- R303, R307, R365 and R305: a host's doorbell queues a request in host mode alone; while the part starts nothing is answered; an
accepted request is a live launch with its descriptor's fields, placed on the rectangle or the slices that it names, and its number
reaches the launcher; a refused one leaves no launch, the launcher's object holds STATUS 2, and its register the code: 1 for a placement
off the grid, with a retired core or outside the launcher's, 2 where no number is free, 3 for a read that faults, 4 for a field, an
entry, a record's PC or a group entry outside its limits. The order in which these are tested is the model's choice (log 63). A launch
with nothing left ends, a torn-down one ends at once, and no core keeps it. That the grant's numbers are operands, that a child uses its
parent's trap table, and what a launch's end leaves are the model's (logs 61, 62 and 65). -/
def Obligations.LaunchEvents : Prop :=
  (∀ (s : State) (slot : Nat) (desc : List Byte), desc.length = 64 → slot < 1024 →
    (s.crust.step = 10 → s.crust.hostMode = true →
      ∃ t r, exec (.hostLaunchDoorbell slot desc) s = .next t ∧ t.lreqs = s.lreqs ++ [r] ∧ r.by_ = .host ∧ r.bytes = desc
        ∧ 2 ≤ r.cls ∧ r.cls ≤ 5 ∧ SameMemory s t)
    ∧ (s.crust.step ≠ 10 ∨ s.crust.hostMode = false → exec (.hostLaunchDoorbell slot desc) s = .next s))
  ∧ (∀ (s : State) (req : Nat) (g : Grant), s.crust.step ≠ 10 → exec (.launchAccept req g) s = .next s)
  ∧ (∀ (s v w u : State) (req : Nat) (g : Grant) (r : LReq) (bs : List Byte),
    s.lreqs.find? (fun r => r.id == req) = some r → s.crust.step = 10 →
    g.ttab.toNat % 256 = 0 → g.ttab.toNat.testBit 47 = true → isCanon g.ttab = true →
    let free := (s.launches.filter (·.live)).length < 65535 ∧ 1 ≤ g.num ∧ g.num ≤ 65535 ∧ s.launch g.num = none
    let full := 65535 ≤ (s.launches.filter (fun l => l.live && l.num != 65536)).length
    free ∨ full →
    let Refuses : Nat → Prop := fun e =>
      ∃ t, exec (.launchAccept req g) s = .next t ∧ (∀ k, k ≤ 65535 → t.launch k = s.launch k) ∧ (∀ x ∈ t.lreqs, x.id ≠ req)
        ∧ ∀ cn hv out, r.by_ = .ctx cn hv out →
          (ObjectOpen s cn r.launch r.obj hv → cellRead (t.core cn).lm.bytes r.obj 8 = natLe 8 (2 * 2 ^ 56))
          ∧ ∀ d, WaitsFor s cn hv out d → (t.ctxOf cn hv).regs[d] = ⟨BitVec.ofNat 64 (0xFFFFFFFF00000000 + e), true⟩
    (∀ cn hv out, r.by_ = .ctx cn hv out → probeRead (probing s req r g) r.desc 64 = (v, none) → Refuses 3)
    ∧ ((match r.by_ with
        | .host => v = probing s req r g ∧ bs = r.bytes
        | .ctx .. => probeRead (probing s req r g) r.desc 64 = (v, some bs)) →
    let n := leNat bs
    let fields := n / 2 ^ 464 % 2 ^ 48 = 0 ∧ n / 2 ^ 161 % 2 ^ 31 = 0 ∧ n / 2 ^ 64 % 2 ^ 64 = 0 ∧ n.testBit 143 = false
      ∧ 4 ≤ n / 2 ^ 460 % 16 ∧ n / 2 ^ 460 % 16 ≤ 12 ∧ (n / 2 ^ 448 % 4096 = 0 ∨ n / 2 ^ 384 % 2 ^ 64 % 8 = 0)
      ∧ n / 2 ^ 256 % 2 ^ 64 % 32 = 0
    let entry : Word := BitVec.ofNat 64 (n % 2 ^ 64)
    let crtab : Word := BitVec.ofNat 64 (n / 2 ^ 256 % 2 ^ 64)
    let x0 := n / 2 ^ 128 % 256
    let y0 := n / 2 ^ 136 % 128
    let x1 := x0 + n / 2 ^ 144 % 256 + 1
    let y1 := y0 + n / 2 ^ 152 % 256 + 1
    let rect : Nat → Prop := fun c => n.testBit 160 = false ∧ x1 ≤ 256 ∧ y1 ≤ 128 ∧ x0 ≤ xOf c ∧ xOf c < x1 ∧ y0 ≤ yOf c ∧ yOf c < y1
    let slices : Nat → Prop := fun c => c < 32768 ∧ n.testBit 160 = true ∧
      ∃ x b, probeRead w (BitVec.ofNat 64 (n / 2 ^ 192 % 2 ^ 64)) 64 = (x, some b) ∧ (leNat b).testBit (sliceOf c) = true
    let barred : Nat → Prop := fun c => (s.core c).retired = true ∨ ∃ l, s.launch r.launch = some l ∧ c ∉ l.place
    (¬ fields → Refuses 4)
    ∧ (fields → crtab = 0 → functionEntry v entry = (w, false) → Refuses 4)
    ∧ (fields → (crtab = 0 ∧ functionEntry v entry = (w, true)) ∨ (crtab ≠ 0 ∧ w = v) →
      (n.testBit 160 = false → 256 < x1 ∨ 128 < y1 → Refuses 1)
      ∧ (∀ c, rect c ∨ slices c → barred c → Refuses 1)
      ∧ (∀ x, n.testBit 160 = true → probeRead w (BitVec.ofNat 64 (n / 2 ^ 192 % 2 ^ 64)) 64 = (x, none) → Refuses 3)
      ∧ (full → (∃ c, rect c ∨ slices c) → (∀ c, rect c ∨ slices c → ¬ barred c) → r.launch ≤ 65535 →
        Refuses 2)
      ∧ (free → n.testBit 160 = false → x1 ≤ 256 → y1 ≤ 128 → (∀ c, rect c → ¬ barred c) → r.launch ≤ 65535 →
        (∀ x, crtab ≠ 0 → probeRead w crtab 160 = (x, none) → Refuses 3)
        ∧ (∀ x y b, crtab ≠ 0 → probeRead w crtab 160 = (x, some b) → functionEntry x (canon48 (leNat b % 2 ^ 48)) = (y, false) →
          Refuses 4)
        ∧ (crtab = 0 → n / 2 ^ 448 % 4096 ≠ 0 →
          let r0 := probeRead w (BitVec.ofNat 64 (n / 2 ^ 384 % 2 ^ 64)) 8
          (r0.2 = none → Refuses 3)
          ∧ ∀ b, r0.2 = some b → (leNat b).testBit 63 = true ∨ ¬ rect (leNat b / 2 ^ 48 % 2 ^ 15) ∨ leNat b / 2 ^ 32 % 2 ^ 16 % 32 ≠ 0 →
              Refuses 4)))
    ∧ (∀ k, free → checkDesc v r n = (u, .ok k) →
      ∃ t l, exec (.launchAccept req g) s = .next t ∧ t.launch g.num = some l ∧ l.place = k.place ∧ l.parent = r.launch
        ∧ (n.testBit 160 = false → ∀ c, c ∈ l.place ↔ rect c)
        ∧ l.by_ = r.by_ ∧ l.obj = r.obj ∧ l.cls = r.cls ∧ l.entry = BitVec.ofNat 64 (n % 2 ^ 64) ∧ l.lq = n / 2 ^ 460 % 16
        ∧ l.ebud = BitVec.ofNat 64 (n / 2 ^ 320 % 2 ^ 64) ∧ l.ecnt = 0
        ∧ (s.launch r.launch = none → l.ttab = g.ttab) ∧ (∀ p, s.launch r.launch = some p → l.ttab = p.ttab) ∧ (∀ x ∈ t.lreqs, x.id ≠ req)
        ∧ ∀ cn hv out d, r.by_ = .ctx cn hv out → WaitsFor s cn hv out d →
            (t.ctxOf cn hv).regs[d] = ⟨BitVec.ofNat 64 g.num, true⟩)
    ∧ (∀ e, checkDesc v r n = (u, .error e) → Refuses e)))
  ∧ (∀ (s : State) (l : Nat) (x : Launch), s.launch l = some x → l ≠ 0 →
    let Ends : Instr → Nat → Prop := fun i status =>
      ∃ t, exec i s = .next t ∧ t.launch l = none ∧ (∀ cn, (t.core cn).launch ≠ l)
        ∧ ∀ cn out, x.by_ = .ctx cn false out → cn ∉ x.place → x.parent ≠ l → (s.core cn).launch = x.parent →
            ObjectOpen s cn x.parent x.obj false →
            cellRead (t.core cn).lm.bytes x.obj 8 = natLe 8 (status * 2 ^ 56 + x.ecnt.toNat % 2 ^ 48)
    let left := recordsLeft s l || mailLeft s l || tasksLeft s l || enginesLeft s l
    Ends (.teardown l) 3 ∧ (left = false → Ends (.launchEnd l) 1) ∧ (left = true → exec (.launchEnd l) s = .next s))

/-! ### The service network, power and the start (spec/20, spec/21) -/

/-- R340: what READ returns, what WRITE writes and when it does not, RESTART of a stopped context, and REPOST of its task; each request is
answered with its data, an acknowledgement or a refusal. The layout of an answer's bytes is the model's (log 131), as are what a READ shows of
a register that is not present (log 25) and of a unit with an error (log 106), and a WRITE's DNZ beside an integer type (log 161); what
RESTART tests and keeps, and REPOST of held faults, are readings (log 105, 106). -/
def Obligations.DebugRequests : Prop :=
  (∀ (s : State) (cn : Nat) (hv : Bool) (l : Nat) (it : SvcItem),
    let c := s.core cn
    let x := s.ctxOf cn hv
    ∃ t bs, exec (.read cn hv it l) s = .next t ∧ t.crust.replies = s.crust.replies ++ [.data cn bs] ∧ SameMemory s t
      ∧ (∀ k h, t.ctxOf k h = s.ctxOf k h)
      ∧ (∀ r, it = .reg r → bs = natLe 8 x.regs[r].val.toNat)
      ∧ (it = .present → ∀ r : SReg, (leNat bs).testBit r.val = x.regs[r].present)
      ∧ (∀ n, it = .csr n → n.toNat = 0x010 → bs = natLe 8 (statusWord s cn hv).toNat)
      ∧ (∀ n, it = .csr n → n.toNat = 0x012 → bs = natLe 8 x.epc.toNat)
      ∧ (∀ r, it = .bankReg r → bs = natLe 8 x.bank.regs[r].val.toNat)
      ∧ (it = .bankPresent → ∀ r : SReg, (leNat bs).testBit r.val = x.bank.regs[r].present)
      ∧ (it = .bankPc → bs = natLe 8 x.bank.rpc.toNat)
      ∧ (it = .bankTags → ∀ p n, n < 8 → (bs.getD ((if p then 8 else 0) + n) 0 = 0 ↔ ∀ o ∈ x.out, o.tag ≠ some (p, n)))
      ∧ (∀ h, it = .bankHandle h → bs = x.bank.handles[h].words.flatMap (natLe 8))
      ∧ (it = .bankSrseed → bs = natLe 4 x.bank.srseed.toNat)
      ∧ (it = .bankVflag → bs = natLe 1 x.bank.vflag.toNat)
      ∧ (∀ k, it = .bankTask → x.task = some k → bs = (endRecord k x.bank.regs 0 0).bytes)
      ∧ (∀ r, it = .bankRestart → x.bank.restart = some r → bs = r.bytes)
      ∧ (∀ v, it = .row v → c.tileLaunch (v.val / 16) = l → l ≠ 0 → bs = natLe 64 (c.row v).bits.toNat)
      ∧ (∀ y, it = .tile y → leNat bs / 2 ^ 24 = tileTypeCode c.tiles[y].ty ∧ (leNat bs).testBit 16 = c.tiles[y].dnz
          ∧ ∀ i : Fin 16, (leNat bs).testBit i.val = c.tiles[y].rows[i].present)
      ∧ (∀ off, it = .byte off → off < 65536 → (lmBadIn s cn off 1 = none → KeysOf s cn l off 1 → bs = [s.lmByte cn off])
          ∧ (lmBadIn s cn off 1 ≠ none → ∃ r ∈ t.crust.reports, r.kind = 2 ∧ r.core = cn))
      ∧ (it = .trimc → bs = natLe 8 c.trimc.toNat) ∧ (it = .bconf → bs = natLe 8 c.bconf.toNat)
      ∧ (it = .errors → bs = natLe 4 c.corrected) ∧ (it = .dieErrors → bs = natLe 4 (mget s.hbm.corrected (loafOf cn) 0))
      ∧ (∀ port, it = .trims port → port < 8 → bs = natLe 4 (s.output (outNo cn port)).trims)
      ∧ (∀ k p i, it = .header k → s.pkt k = some p → p.at_ = .router cn i → bs = natLe 32 p.header.toNat))
  ∧ (∀ (s : State) (cn : Nat) (hv : Bool) (v : RowBits) (r : SReg) (x : VReg) (off : Nat),
    let old := s.ctxOf cn hv
    let Done : SvcItem → (State → Prop) → Prop := fun it p =>
      ∃ t, exec (.write cn hv it v) s = .next t ∧ t.crust.replies = s.crust.replies ++ [.ack cn] ∧ p t
    (old.stop = true →
      Done (.reg r) (fun t => (t.ctxOf cn hv).regs[r] = ⟨v.setWidth 64, true⟩
        ∧ (∀ y : SReg, y ≠ r → (t.ctxOf cn hv).regs[y] = old.regs[y]) ∧ SameMemory s t)
      ∧ Done .present (fun t => (∀ y : SReg, (t.ctxOf cn hv).regs[y] = ⟨old.regs[y].val, v.getLsbD y.val⟩) ∧ SameMemory s t)
      ∧ Done (.bankReg r) (fun t => (t.ctxOf cn hv).bank.regs[r] = ⟨v.setWidth 64, old.bank.regs[r].present⟩
        ∧ (∀ y : SReg, y ≠ r → (t.ctxOf cn hv).bank.regs[y] = old.bank.regs[y]) ∧ (t.ctxOf cn hv).regs = old.regs ∧ SameMemory s t)
      ∧ Done .bankPc (fun t => (t.ctxOf cn hv).bank = { old.bank with rpc := v.setWidth 64 } ∧ (t.ctxOf cn hv).regs = old.regs
        ∧ SameMemory s t)
      ∧ Done .bankSrseed (fun t => (t.ctxOf cn hv).bank = { old.bank with srseed := v.setWidth 32 } ∧ SameMemory s t)
      ∧ Done .bankVflag (fun t => (t.ctxOf cn hv).bank = { old.bank with vflag := v.setWidth 6 } ∧ SameMemory s t))
    ∧ (old.stop = false → ∀ it, ofContext it = true → exec (.write cn hv it v) s = .next (reply s (.refused cn)))
    ∧ (∀ n, n.toNat < 3 → exec (.write cn hv (.csr n) v) s = .next (reply s (.refused cn)))
    ∧ (∀ k, exec (.write cn hv (.header k) v) s = .next (reply s (.refused cn)))
    ∧ Done (.row x) (fun t => (t.core cn).row x = ⟨v, ((s.core cn).row x).present⟩
        ∧ (∀ y : VReg, y ≠ x → (t.core cn).row y = (s.core cn).row y) ∧ SameMemory s t)
    ∧ (off < 65536 → Memory.wf (s.core cn).lm.bytes = true → Done (.byte off) (fun t =>
        if lmBadIn s cn off 1 = none then StoredAt s t cn off [v.setWidth 8] else SameMemory s t))
    ∧ (∀ port, port < 8 → Done (.trims port) (fun t => (t.output (outNo cn port)).trims = 0 ∧ SameMemory s t))
    ∧ Done .dieErrors (fun t => mget t.hbm.corrected (loafOf cn) 0 = v.toNat % 2 ^ 32 ∧ SameMemory s t)
    ∧ Done .trimc (fun t => (t.core cn).trimc = v.setWidth 64 ∧ SameMemory s t)
    ∧ Done .bconf (fun t => (t.core cn).bconf = v.setWidth 64 ∧ SameMemory s t)
    ∧ Done .errors (fun t => (t.core cn).corrected = v.toNat % 2 ^ 32 ∧ SameMemory s t))
  ∧ (∀ (s : State) (cn : Nat) (hv : Bool), let c := s.ctxOf cn hv
    (c.stop = false → ∀ a, exec (.restart cn hv a) s = .next (reply s (.refused cn)))
    ∧ (c.stop = true →
      let Runs : State → Word → Prop := fun t pc =>
        (t.ctxOf cn hv).stop = false ∧ (t.ctxOf cn hv).inh = false ∧ (t.ctxOf cn hv).mode = isSvc cn
          ∧ (t.ctxOf cn hv).regs = c.bank.regs ∧ (t.ctxOf cn hv).pc = pc ∧ (t.ctxOf cn hv).bank.rpc = pc
          ∧ t.crust.replies.getLast? = some (.ack cn)
      (∃ t, exec (.restart cn hv none) s = .next t ∧ Runs t c.bank.rpc)
      ∧ (∀ a u, startOk s cn hv a = (u, true) → ∃ t, exec (.restart cn hv (some a)) s = .next t ∧ Runs t a)
      ∧ (∀ a u, startOk s cn hv a = (u, false) → exec (.restart cn hv (some a)) s = .next (reply s (.refused cn)))))
  ∧ (∀ (s : State) (cn akind aid : Nat), let c := s.ctxOf cn false
    (c.stop = false ∨ c.task = none → exec (.repost cn akind aid) s = .next (reply s (.refused cn)))
    ∧ (∀ k, c.stop = true → c.task = some k →
      let freed := freeCtx (s.modCtxOf cn false (fun x => { x with held := [], bops := [] })) cn false
      let v := clearTags freed cn .dev
      ∃ t r, exec (.repost cn akind aid) s = .next t ∧ (t.ctxOf cn false).task = none ∧ (t.ctxOf cn false).stop = false
        ∧ t.crust.replies.getLast? = some (.ack cn)
        ∧ r.launch = k.launch ∧ r.chan = k.chan ∧ r.frame = k.frame ∧ r.excl = k.excl ∧ r.akind = akindOf akind ∧ r.aid = aid
        ∧ r.resume = true ∧ r.mask = 0xFFFF ∧ r.pc = c.bank.rpc.setWidth 48
        ∧ (∀ i : SReg, r.saved[i] = if c.bank.regs[i].present then c.bank.regs[i].val else 0)
        ∧ (openBefore freed cn false freed.ids .dev = true → t = reply
            { freed with posts := freed.posts ++ [⟨freed.ids, r, cn, none, some (false, freed.ids)⟩], ids := freed.ids + 1 } (.ack cn))
        ∧ (openBefore freed cn false freed.ids .dev = false → (∀ u, post v r cn none = some u → t = reply u (.ack cn))
          ∧ (post v r cn none = none → ∃ p ∈ t.posts, p.cr = r))))

/-- R323, R312, R341, R340 and R363: a pre-emption is refused while the owner is stopped, waits for its handler, ends the harvest, saves the owner
in its bank, waits for its accesses, and then saves the owner launch in a frame, posts the task and acknowledges, or takes a fault that
came meanwhile and is refused; PERMIT gives and takes the harvest's leave; a retired core loses its memory; RESET of a retired core; a new
key. That a pre-emption waits for a handler, what it does for the launch that is there already, for one that is not live and on a service
core, when it waits for the owner, and what a retired core keeps are the model's (log 30, 28, 106). -/
def Obligations.CoreRequests : Prop :=
  ∀ (s : State) (cn : Nat),
    let c := s.core cn
    let Acked : State → Prop := fun t => t.crust.replies.getLast? = some (.ack cn)
    (∀ l, c.preempt = none →
      (c.owner.stop = true → exec (.preempt cn l) s = .next (reply s (.refused cn)))
      ∧ (c.owner.stop = false → isSvc cn = true → exec (.preempt cn l) s = .next (reply s (.ack cn)))
      ∧ (c.owner.stop = false → isSvc cn = false → c.owner.inh = true → exec (.preempt cn l) s = .next s)
      ∧ (c.owner.stop = false → isSvc cn = false → c.owner.inh = false → ∃ t, exec (.preempt cn l) s = .next t ∧ (t.core cn).preempt = some ⟨l, false⟩
        ∧ (c.loan = Loan.none → c.harv.task.isSome → c.parked = false → c.parking = none → (t.core cn).parking = some s.now)
        ∧ (c.loan ≠ Loan.none → (t.core cn).loan = Loan.none)
        ∧ (c.owner.ending = none → c.owner.units = none → mayIssue t cn false = false)))
    ∧ (∀ l, c.preempt = some ⟨l, false⟩ →
      (c.owner.inh = true ∨ c.owner.stop = true → ∃ t, exec (.preempt cn l) s = .next t ∧ (t.core cn).preempt = none
        ∧ t.crust.replies.getLast? = some (.refused cn) ∧ (t.core cn).owner = c.owner)
      ∧ (c.owner.inh = false → c.owner.stop = false →
        (c.owner.ending.isSome ∨ c.owner.units.isSome → exec (.preempt cn l) s = .next s)
        ∧ (c.owner.ending = none → c.owner.units = none → c.owner.closedFrom = none → c.owner.task.isSome →
          ∃ t, exec (.preempt cn l) s = .next t ∧ (t.core cn).preempt = some ⟨l, true⟩ ∧ (t.core cn).owner.bank.regs = c.owner.regs
            ∧ (t.core cn).owner.bank.rpc = c.owner.pc ∧ (t.core cn).owner.bank.srseed = c.owner.srseed ∧ SameMemory s t)))
    ∧ (∀ l, c.preempt = some ⟨l, true⟩ →
      (∀ h rest, c.owner.held = h :: rest → c.owner.inh = false → ∃ t, exec (.preempt cn l) s = .next t
        ∧ (t.core cn).preempt = none ∧ t.crust.replies.getLast? = some (.refused cn) ∧ (t.core cn).owner.held = rest
        ∧ (t.core cn).owner.ecause = BitVec.ofNat 10 (TKind.access.num * 256 + h.cause.num) ∧ (t.core cn).owner.epc = h.epc
        ∧ (t.core cn).owner.eval = h.val)
      ∧ (c.owner.held = [] → canSwitch s cn = false ∨ c.loan ≠ Loan.none → exec (.preempt cn l) s = .next (endHarvest s cn))
      ∧ (canSwitch s cn = true → c.loan = Loan.none → c.launch ≠ 0 → c.launch ≠ l →
        ∃ t f, exec (.preempt cn l) s = .next t ∧ Acked t ∧ (t.core cn).launch = (if (s.launch l).isSome then l else 0)
          ∧ (t.core cn).owner.task = none
          ∧ (t.core cn).preempt = none
          ∧ f ∈ (t.core cn).frames ∧ f.launch = c.launch ∧ f.lm.bytes = c.lm.bytes ∧ f.lm.keys = c.lm.keys ∧ f.tiles = c.tiles
          ∧ f.arms = c.arms ∧ f.awaits = c.awaits ∧ f.handles = c.owner.handles ∧ f.rdvto = c.rdvto)
      ∧ (∀ k, canSwitch s cn = true → c.loan = Loan.none → c.owner.task = some k → c.owner.ngets = [] →
        (∀ i : SReg, c.owner.bank.regs[i].present = true) →
        ∃ r, r.launch = k.launch ∧ r.chan = k.chan ∧ r.akind = k.akind ∧ r.aid = k.aid
          ∧ r.frame = k.frame ∧ r.resume = true ∧ r.mask = 0xFFFF ∧ r.pc = c.owner.bank.rpc.setWidth 48
          ∧ (∀ i : SReg, r.saved[i] = c.owner.bank.regs[i].val)
          ∧ let posted := postedEnd (switchOut (preemptDone s cn) cn) cn false r
            (s.launch l = none → exec (.preempt cn l) s = .next (reply posted (.ack cn)))
            ∧ ((s.launch l).isSome → exec (.preempt cn l) s = .next (reply (switchIn posted cn l) (.ack cn)))))
    ∧ (∀ l p, c.preempt = some p → p.launch ≠ l → exec (.preempt cn l) s = .next (reply s (.refused cn)))
    ∧ (∀ v, ∃ t, exec (.permit cn v) s = .next t ∧ (t.core cn).permit = v ∧ SameMemory s t ∧ Acked t
      ∧ (∀ k h, t.ctxOf k h = s.ctxOf k h)
      ∧ (c.permit = true → v = false → c.harv.task.isSome → c.parked = false → c.parking = none →
        (t.core cn).parking = some s.now))
    ∧ (c.owner.task = none → c.harv.task = none → cn < 32768 →
      ∃ t, exec (.retire cn) s = .next t ∧ (t.core cn).retired = true ∧ (t.core cn).lm.keys = [] ∧ Acked t)
    ∧ (c.owner.task.isSome ∨ c.harv.task.isSome → exec (.retire cn) s = .next (reply s (.refused cn)))
    ∧ (c.retired = true ∨ s.crust.step ≠ 10 → ∃ t, exec (.reset cn) s = .next t ∧ Acked t
      ∧ (t.core cn).owner = { Ctx.reset with mode := isSvc cn } ∧ (t.core cn).harv = { Ctx.reset with mode := isSvc cn } ∧ (t.core cn).tiles = Core.reset.tiles
      ∧ (t.core cn).loan = Loan.none ∧ (t.core cn).rdvto = 0x00010000 ∧ (t.core cn).retired = c.retired ∧ SameMemory s t
      ∧ ∀ p ∈ reedsOf cn, (t.reed p.1).latch = Latch.reset ∧ (if p.2 then (t.reed p.1).be else (t.reed p.1).bw) = none)
    ∧ (c.retired = false → s.crust.step = 10 → exec (.reset cn) s = .next (reply s (.refused cn)))
    ∧ (∀ id, 1 ≤ id → id ≤ 4095 → ∃ t, exec (.keyInstall id) s = .next t ∧ SameMemory s t
      ∧ mget t.crust.keyVers id 0 = mget s.crust.keyVers id 0 + 1
      ∧ ∀ j, j ≠ id → mget t.crust.keyVers j 0 = mget s.crust.keyVers j 0)

/-- R350 to R357: a window's end records the whole watts of its average, moves the cap step and the limit, and closes RAMPING, which a withheld
or a filled row start of an 8-cycle period before that end sets; an event is charged to its launch; a loaf takes its step when its count is a
multiple of 16; a PERIOD's end moves the ramp level. That a late turn closes one window or PERIOD, and the next begins at that moment, is the
model's choice (log 148), and so are the sum of ECNT in millionths of a µJ (log 27) and the window of a period that its end cuts (log 85). -/
def Obligations.PowerEvents : Prop :=
  (∀ (s : State) (w mw : Nat), mw < 1000 →
    let c := s.crust
    let limit := 1000 * c.limit
    let avg := 1000 * w + mw
    (s.now < c.windowAt + 2000 → exec (.powerWindow w mw) s = .next s)
    ∧ (c.windowAt + 2000 ≤ s.now →
      ∃ t, exec (.powerWindow w mw) s = .next t ∧ SameMemory s t
        ∧ t.crust.power = w ∧ t.crust.above = decide (limit < avg)
        ∧ t.crust.limit = c.nextLim ∧ t.crust.windowAt = s.now
        ∧ (limit < avg → t.crust.cstep = min (c.cstep + 1) 15)
        ∧ (avg * 100 < limit * 95 → t.crust.cstep = c.cstep - 1 ∧ t.crust.cap = false)
        ∧ (avg ≤ limit → limit * 95 ≤ avg * 100 → t.crust.cstep = c.cstep)
        ∧ (limit < avg → c.cstep = 15 → 49 ≤ c.overRun → t.crust.cap = true)
        ∧ (limit < avg → c.cstep = 15 → c.overRun < 49 → t.crust.overRun = c.overRun + 1 ∧ t.crust.cap = c.cap)
        ∧ ∀ k, k < 8 → let x := s.loaf k
          (t.loaf k).heldWin = false
          ∧ (x.octet = s.now / 8 → ((t.loaf k).ramping = true ↔ x.heldWin = true))
          ∧ (x.octet ≠ s.now / 8 → ((t.loaf k).ramping = true ↔ x.heldWin = true
              ∨ (x.rampEn = true ∧ 2 ≤ x.g ∧ (x.starts < 256 * (x.g - 1) ∨ x.octet + 1 < s.now / 8))))))
  ∧ (∀ (s : State) (l e : Nat) (x : Launch), s.launch l = some x →
    ∃ y, (charge s l e).launch l = some y ∧ y.ecnt = BitVec.ofNat 64 (min ((x.energy + e) / 1000000) (2 ^ 64 - 1))
      ∧ SameMemory s (charge s l e))
  ∧ (∀ (s : State) (k : Nat), k < 8 →
    let x := s.loaf k
    ((s.now + Config.loafPhase k) % 16 = 0 → ∃ t, exec (.throttleStepChange k) s = .next t
      ∧ (t.loaf k).step = max x.floor s.crust.cstep ∧ (∀ j, j ≠ k → t.loaf j = s.loaf j) ∧ SameMemory s t)
    ∧ ((s.now + Config.loafPhase k) % 16 ≠ 0 → exec (.throttleStepChange k) s = .next s)
    ∧ (s.now < x.perStart + x.period → exec (.rampPeriod k) s = .next s)
    ∧ (x.perStart + x.period ≤ s.now → ∃ t, exec (.rampPeriod k) s = .next t ∧ SameMemory s t
      ∧ (t.loaf k).perStart = s.now ∧ (t.loaf k).held = false ∧ (t.loaf k).most = 0
      ∧ (∀ j, j ≠ k → t.loaf j = s.loaf j)
      ∧ (t.loaf k).g = if x.rampEn = false then 16 else if x.held = true then min (x.g + 1) 16
          else max (x.g - 1) ((x.most + 255) / 256)))

/-- R359 to R362 and R365: a start whose parts succeed and whose image is accepted leaves an empty part with its service cores at the
image's entry and the payload in the memory of service core 0; a part that fails leaves BOOTSTAT.ERR at its step, or retries from step 1;
a warm start is made when it is requested, keeps HBM, and uses the kept image while its hash holds, and a request stays through the attempts
of another start; a fetch without progress restarts when its time is over. How often a start is retried, and what state a start clears beyond the steps' words, are the model's (log 107, 14, 11). -/
def Obligations.StartEvents : Prop :=
  ∀ (s : State) (i : StartInput),
    let Failed : Instr → Nat → Nat → Prop := fun x n tries =>
      let again := n = 3 ∨ n = 4 ∨ n = 7
      ∃ t, exec x s = .next t ∧ t.crust.err = true ∧ t.crust.tries = tries ∧ t.crust.step = (if again then 1 else n)
        ∧ (again → t.crust.retry = decide (tries < 8))
    let Started : State → List Byte → Prop := fun t img =>
      t.crust.step = 10 ∧ t.crust.err = false ∧ t.time = i.ptp.getD 0 ∧ t.launches = [] ∧ t.net = [] ∧ t.reeds = []
        ∧ t.crust.svcMems = [(0, cellWrite [] 0 (imgPayload img))]
        ∧ (∀ k, (t.slice k).slots = [] ∧ (t.slice k).waiting = [] ∧ (t.slice k).wheel = [])
        ∧ (∀ k, k < 8 → (t.loaf k).modeE = (leNat ((img.drop 32).take 1)).testBit k)
        ∧ (∀ k, k < 16 → (t.core (32768 + k)).owner.mode = true
          ∧ (t.core (32768 + k)).owner.pc = BitVec.ofNat 64 (leNat ((img.drop 24).take 8)))
        ∧ ∀ cn, cn < 32768 → t.core cn = Core.reset
    (∀ n, n ∈ i.bad → (∀ m ∈ i.bad, n ≤ m) →
      ((1 ≤ n ∧ n ≤ 6) ∨ (n = 7 ∧ i.image ≠ []) ∨ ((n = 8 ∨ n = 9) ∧ i.image ≠ [] ∧ imageOk i.image = true)) →
      Failed (.coldStart i) n 1)
    ∧ (i.bad = [] →
      (i.image ≠ [] → imageOk i.image = true → ∃ t, exec (.coldStart i) s = .next t ∧ Started t i.image ∧ t.hbm.bytes = [])
      ∧ (i.image ≠ [] → imageOk i.image = false → Failed (.coldStart i) 7 1)
      ∧ (i.image = [] → ∃ t, exec (.coldStart i) s = .next t ∧ t.crust.step = 6 ∧ t.crust.err = false ∧ t.crust.fetchTry = 0))
    ∧ (s.crust.retry = true →
      (∃ t, exec (.warmStart i) s = .next t ∧ t.crust.warmreq = s.crust.warmreq ∧ t.crust.kernelReq = s.crust.kernelReq)
      ∧ (1 ∉ i.bad → 2 ∉ i.bad → 3 ∈ i.bad → Failed (.warmStart i) 3 (min 8 (s.crust.tries + 1)))
      ∧ (i.bad = [] → s.crust.keptImg = none → i.image ≠ [] → imageOk i.image = true →
        ∃ t, exec (.warmStart i) s = .next t ∧ Started t i.image ∧ t.hbm.bytes = s.hbm.bytes))
    ∧ (s.crust.retry = false →
      let v := tearAll s
      (s.crust.step = 0 ∨ (s.crust.warmreq = false ∧ s.crust.kernelReq = false) → exec (.warmStart i) s = .next s)
      ∧ (s.crust.step ≠ 0 → s.crust.warmreq = true ∨ s.crust.kernelReq = true →
        (1 ∉ i.bad → 2 ∉ i.bad → 3 ∈ i.bad → v.crust.keptTrain = false ∨ i.trainKept = false → Failed (.warmStart i) 3 1)
        ∧ (∀ img, (i.bad = [] ∨ (i.bad = [3] ∧ v.crust.keptTrain = true ∧ i.trainKept = true)
            ∨ (i.bad = [4] ∧ v.crust.keptLinks = true ∧ i.linksKept = true)) →
          (v.crust.keptImg = some (img, sha384 img)
            ∨ ((∀ k, v.crust.keptImg = some k → sha384 k.1 ≠ k.2) ∧ img = i.image ∧ img ≠ [])) → imageOk img = true →
          ∃ t, exec (.warmStart i) s = .next t ∧ Started t img ∧ t.crust.warm = true ∧ t.hbm.bytes = v.hbm.bytes
            ∧ ((∀ l ∈ s.launches, l.live = false) → t.hbm.bytes = s.hbm.bytes))))
    ∧ (∀ v, (s.crust.hostMode = true → ∃ t, exec (.warmreq v) s = .next t ∧ t.crust = { s.crust with warmreq := v } ∧ SameMemory s t)
      ∧ (s.crust.hostMode = false → exec (.warmreq v) s = .next s))
    ∧ (let due := s.crust.step = 6 ∧ s.crust.input.isSome ∧ s.crust.fetchAt + 4000000000 * 2 ^ min 4 s.crust.fetchTry ≤ s.now
      (due → ∃ t, exec .imageFetchRestart s = .next t ∧ t.crust.fetchTry = min 4 (s.crust.fetchTry + 1) ∧ t.crust.fetchAt = s.now
        ∧ SameMemory s t)
      ∧ (¬ due → exec .imageFetchRestart s = .next s))
    ∧ (s.crust.step = 6 → s.crust.input.isSome → (agentTurn s .imageBlock).crust = { s.crust with fetchAt := s.now })

/-- R366, R302, R367: a time message sets the correction that TIME slews; a datagram goes once to the place that its export window names, and
nothing beyond a window does: it is refused; a duplicate is answered as before; a datagram without its acknowledgement is sent again after
100,000 cycles. That the data is written by the gateway's own CWR packet is the model's choice (log 104), and so is the form of the slewing
(log 5). -/
def Obligations.GatewayAndTime : Prop :=
  (∀ (s : State) (o : Int), (5 ≤ s.crust.step →
      ∃ t, exec (.ptpMessage o) s = .next t ∧ t.slewLeft = o ∧ t.time = s.time ∧ SameMemory s t)
    ∧ (s.crust.step < 5 → exec (.ptpMessage o) s = .next s))
  ∧ (∀ (s : State) (n m k : Nat), n + m = k →
    let e := elapse s k
    e.now = s.now + k ∧ (s.slewLeft = 0 → e.time = s.time + k ∧ slew (slew s n) m = slew s k)
      ∧ (s.time + k : Int) - (s.slewAcc + k) / 20000 ≤ e.time ∧ (e.time : Int) ≤ s.time + k + (s.slewAcc + k) / 20000)
  ∧ (∀ (s : State) (dev seq off : Nat) (data : List Byte), data.length ≤ 8192 →
    let w := exportAt s off data.length
    let new := ¬ s.crust.gwSeen.contains (dev, seq) = true
    let Answers : Bool → Prop := fun ok => ∃ t, exec (.gatewayDatagram dev seq off data) s = .next t ∧ SameMemory s t
      ∧ t.crust.gwAcked = s.crust.gwAcked ++ [(dev, seq, ok)] ∧ t.net = s.net
    (new → w = none ∨ (∃ x, w = some x ∧ s.launch x.launch = none) → Answers false)
    ∧ (¬ new → ∀ a, s.crust.gwAcked.find? (fun a => a.1 == dev && a.2.1 == seq) = some a → Answers a.2.2)
    ∧ (¬ new → s.crust.gwAcked.find? (fun a => a.1 == dev && a.2.1 == seq) = none →
      exec (.gatewayDatagram dev seq off data) s = .next s)
    ∧ (∀ x u e, new → w = some x → data ≠ [] → (s.launch x.launch).isSome →
      let va := x.va + BitVec.ofNat 64 (off - x.off)
      va.toNat % 256 + data.length ≤ 256 → isCanon va = true →
      walkAll (s.modCrust (fun c => { c with gwSeen := c.gwSeen ++ [(dev, seq)] })) x.launch va .w = (u, .leaf e) →
      ∃ t p, exec (.gatewayDatagram dev seq off data) s = .next t ∧ t.net = u.net ++ [p] ∧ p.dst = dieCore (e.loc va).pa
        ∧ p.body = .cwr (.die ((e.loc va).pa / 2 ^ 36)) 0 (e.loc va) data
        ∧ t.crust.gwIn = u.crust.gwIn ++ [⟨dev, seq, [p.id], false⟩] ∧ t.crust.gwSeen = u.crust.gwSeen ∧ SameMemory u t))
  ∧ (∀ (s : State) (d : Datagram), s.crust.gwOut = [d] →
    (d.sent + 100000 ≤ s.now → ∃ t, exec (.gatewayRetransmit d.dev d.seq) s = .next t
      ∧ t.crust.gwOut = [{ d with sent := s.now }] ∧ SameMemory s t)
    ∧ (s.now < d.sent + 100000 → exec (.gatewayRetransmit d.dev d.seq) s = .next s))

/-! ### Encoding, the step and the whole machine (spec/02, spec/05) -/

/-- R40 and R41: for every well-formed instruction that has words, with every operand at every value, decoding its words gives it back. -/
def Obligations.DecodeOfEncode : Prop := ∀ i : Instr, i.wf = true → encode i ≠ [] → ∀ ws, decode (encode i ++ ws) = .ok i

/-- Words that the specification prints in its examples decode to the instruction beside them. -/
def Obligations.DecodedWordsFromSpec : Prop :=
  decode [0x14065404] = .ok (.div 4 5 6) ∧ decode [0x00FF4318] = .ok (.andi 3 4 0x00FF) ∧ decode [0x2030210C] = .ok (.bext 1 2 8 3)
  ∧ decode [0xFE621340] = .ok (.bc .lt 1 2 (-1) 6) ∧ decode [0x06200F44] = .ok (.call 15 3 2)
  ∧ decode [0x04100450] = .ok (.nget 4 .w) ∧ decode [0x00221454] = .ok (.send 4 1 2 2)
  ∧ decode [0x60101390] = .ok (.ldg 3 1 .d 16) ∧ decode [0x01CCB69C] = .ok (.amo .add true .none 6 11 12)
  ∧ decode [0x40081360] = .ok (.ldl 3 1 .w 8) ∧ decode [0x0810216C] = .ok (.stpN 1 2 0 true)
  ∧ decode [0x000BA982, 0x40000000, 0] = .ok (.cpy 9 10 11 .glob .loc) ∧ decode [0x10203074] = .ok (.qpub 2 0 3)
  ∧ decode [0x0E0400BC] = .ok (.vfma 0 16 32) ∧ decode [0x086144C0] = .ok (.vcmpLt 4 5 6)
  ∧ decode [0x080694E4] = .ok (.await 4 9 6) ∧ decode [0x00B000F8] = .ok (.fence .rel .dev)
  ∧ decode [0x103210F4] = .ok (.tlbi false .dev 1 2) ∧ decode [0x1C2043F4] = .ok (.svc 3 4 2) ∧ decode [0x180000F4] = .ok .halt

/-- R33 to R36, R41 and R336: in a context's turn, where the words at its pc decode to an instruction, the step is exec of exactly that
instruction, in the state in which its launch has paid for it, which differs in no context, no tile and no memory (R357); where they do
not, it raises ILLEGAL_OP with EVAL the first word. An asynchronous fault that is due is taken instead, unless the instruction takes a pending
BAR_OVER. In an event's turn the step is exec of the event, in such a state. That the launch has paid before the instruction executes is the
model's choice (log 27), and so is that the instruction is executed to see whether it takes a pending BAR_OVER (log 56). -/
def Obligations.StepRunsDecodedInstruction : Prop :=
  ∀ (s u : State) (l : Line) (cn : Nat) (hv : Bool) (i : Instr),
    let turn := (nextTurn s).2
    let e := elapse (nextTurn s).1 turn.wait
    let at_ := { e with cur := ⟨cn, hv⟩ }
    let v := u.modCtx (fun c => { c with further := c.further && c.inh })
    let Ends : State → Prop := fun x => step s = .next (pay x (unitCharge e x))
    let Paid : State → State → Prop := fun x y =>
      { y with cores := x.cores, launches := x.launches } = x
      ∧ y.launches.map (fun l => { l with energy := 0 }) = x.launches.map (fun l => { l with energy := 0 })
      ∧ (∀ k h, y.ctxOf k h = x.ctxOf k h) ∧ ∀ k, (y.core k).lm = (x.core k).lm ∧ (y.core k).tiles = (x.core k).tiles
    (turn.who = .issue cn hv → Fetches at_ u l →
      let ws := l.words.drop ((e.ctxOf cn hv).pc.toNat / 4 % 32)
      (asyncAfter at_ cn hv = none →
        (decode ws = .ok i → ∃ w, Paid v w ∧ step s = exec i w)
        ∧ (∀ why, decode ws = .error why → Ends (precise at_ .illegalOp ((ws.headD 0).setWidth 64))))
      ∧ (∀ x, asyncAfter at_ cn hv = some x → decode ws = .ok i →
        (exec i v = .next (takeBarOver v cn hv) → Ends (takeBarOver v cn hv))
        ∧ (∀ t, exec i v = .next t → t ≠ takeBarOver v cn hv → Ends x)))
    ∧ (turn.who = .event i → isEvent i = true → ∃ w, Paid e w ∧ step s = exec i w)

/-- The values that the specification gives for reset (R107, R143, R188, R211, R332, R175, R241, R351, R354): at power-on every context's
registers are zero and present, no context runs or is in a handler, SRSEED is 1, tiles are F32, RDVTO, LIMIT and PERIOD have their
values, and the start has not begun (R359). The memory's canonical form holds. MODE 0 of a compute core is the model's choice (log 7), and so is
mode O of each loaf before a start, which sets it (R241; log 7). -/
def Obligations.ResetState : Prop :=
  State.reset.memoryWf = true
  ∧ (∀ cn hv, let c := State.reset.ctxOf cn hv
    (∀ r : SReg, c.regs[r] = ⟨0, true⟩) ∧ c.task = none ∧ c.inh = false ∧ c.stop = false ∧ c.ecause = 0 ∧ c.srseed = 1
      ∧ c.vflag = 0 ∧ c.mode = decide (32768 ≤ cn) ∧ ∀ h : HandleNo, c.handles[h] = .unbound)
  ∧ (∀ cn, let c := State.reset.core cn
    (∀ t : TileNo, c.tiles[t].ty = .f32 ∧ c.tiles[t].dnz = false) ∧ c.rdvto = 0x00010000 ∧ c.en = false ∧ c.permit = false
      ∧ c.loan = ⟨false, 0, 0⟩ ∧ c.bconf = 0 ∧ c.trimc = 0)
  ∧ (∀ l, let x := State.reset.loaf l
    x.floor = 0 ∧ x.step = 0 ∧ x.rampEn = true ∧ x.period = 2000 ∧ x.modeE = false ∧ x.rto = 4)
  ∧ State.reset.crust.limit = 2000 ∧ State.reset.crust.step = 0 ∧ State.reset.launches = []

/-- Every step keeps every memory of the part in its canonical form: local memories, those in save frames, HBM, and the service cores'
own. -/
def Obligations.StepKeepsMemoryForm : Prop :=
  ∀ s t : State, s.memoryWf = true → step s = .next t → t.memoryWf = true

/-- Every step of the part answers a next state: no fault and no refusal ends a run. -/
def Obligations.EveryStepGoesOn : Prop := ∀ s : State, ∃ t, step s = .next t
end

