-- ==== Sys2Proof/Laws/Decode.lean ====
section
/-! SUPPORT. Laws of the fields of instruction words: each field of a word that a format builds reads back as it was put in. -/

namespace Sys2Proof

@[simp] theorem sregOf_val (r : SReg) : sregOf r.val = r := Fin.ext (Nat.mod_eq_of_lt r.isLt)

@[simp] theorem vregOf_val (v : VReg) : vregOf v.val = v := Fin.ext (Nat.mod_eq_of_lt v.isLt)

@[simp] theorem tileOf_val (t : TileNo) : tileOf t.val = t := Fin.ext (Nat.mod_eq_of_lt t.isLt)

@[simp] theorem hndOf_val (h : HandleNo) : hndOf h.val = h := Fin.ext (Nat.mod_eq_of_lt h.isLt)

@[simp] theorem fin8Of_val (n : Fin 8) : fin8Of n.val = n := Fin.ext (Nat.mod_eq_of_lt n.isLt)

@[simp] theorem fin16Of_val (n : Fin 16) : fin16Of n.val = n := Fin.ext (Nat.mod_eq_of_lt n.isLt)

@[simp] theorem fin32Of_val (n : Fin 32) : fin32Of n.val = n := Fin.ext (Nat.mod_eq_of_lt n.isLt)

@[simp] theorem fin64Of_val (n : Fin 64) : fin64Of n.val = n := Fin.ext (Nat.mod_eq_of_lt n.isLt)

@[simp] theorem dirOf_code (r : Dir) : dirOf (dirCode r) = r := by cases r <;> rfl

@[simp] theorem loadSizeOf_code (z : LoadSize) : loadSizeOf (loadSizeCode z) = some z := by cases z <;> rfl

@[simp] theorem storeSizeOf_code (z : StoreSize) : storeSizeOf (storeSizeCode z) = some z := by cases z <;> rfl

@[simp] theorem atomOpOf_code (o : AtomOp) : atomOpOf (atomOpCode o) = o := by cases o <;> rfl

@[simp] theorem atomOrdOf_code (r : AtomOrd) : atomOrdOf (atomOrdCode r) = r := by cases r <;> rfl

@[simp] theorem spaceOf_code (x : Space) : spaceOf (spaceCode x) = some x := by cases x <;> rfl

@[simp] theorem condOf_code (c : Cond) : condOf (condCode c) = some c := by cases c <;> rfl

@[simp] theorem tileTypeOf_code (t : TileType) : tileTypeOf (tileTypeCode t) = some t := by cases t <;> rfl

@[simp] theorem cordFnOf_code (f : CordFn) : cordFnOf (cordFnCode f) = f := by cases f <;> rfl

@[simp] theorem shapeOf_code (x : StreamShape) : shapeOf (shapeCode x) = some x := by cases x <;> rfl

@[simp] theorem redOpOf_code (o : RedOp) : redOpOf (redOpCode o) = some o := by cases o <;> rfl

@[simp] theorem redTypeOf_code (t : RedType) : redTypeOf (redTypeCode t) = some t := by cases t <;> rfl

@[simp] theorem fenceOrdOf_code (o : FenceOrd) : fenceOrdOf (fenceOrdCode o) = some o := by cases o <;> rfl

@[simp] theorem scopeOf_code (x : Scope) : scopeOf (scopeCode x) = x := by cases x <;> rfl

@[simp] theorem bitOf_code (b : Bool) : bitOf (boolCode b) = b := by cases b <;> rfl

/-- The literal of a literal's words. -/
@[simp] theorem litOf_words (l : Word) :
    litOf (wd (l.toNat % 4294967296)) (wd (l.toNat / 4294967296)) = l := by
  apply BitVec.eq_of_toNat_eq
  have := l.isLt
  simp only [litOf, wd, BitVec.toNat_ofNat]
  omega

/-- A word of a number below 2^32. -/
theorem toNat_wd {n : Nat} (h : n < 4294967296) : (wd n).toNat = n := by
  simp only [wd, BitVec.toNat_ofNat]
  omega

/-! ### Format A -/

section FormatA

variable {sel mod b a d op len : Nat}

theorem wA_lt (hs : sel < 64) (hm : mod < 64) (hb : b < 16) (ha : a < 16) (hd : d < 16) (ho : op < 64) (hl : len < 4) :
    wA sel mod b a d op len < 4294967296 := by
  unfold wA; omega

theorem fLen_wA (hl : len < 4) : fLen (wA sel mod b a d op len) = len := by
  unfold wA fLen; omega

theorem fOp_wA (ho : op < 64) (hl : len < 4) : fOp (wA sel mod b a d op len) = op := by
  unfold wA fOp; omega

theorem fSel_wA (hs : sel < 64) (hm : mod < 64) (hb : b < 16) (ha : a < 16) (hd : d < 16) (ho : op < 64) (hl : len < 4) :
    fSel (wA sel mod b a d op len) = sel := by
  unfold wA fSel; omega

theorem fMod_wA (hm : mod < 64) (hb : b < 16) (ha : a < 16) (hd : d < 16) (ho : op < 64) (hl : len < 4) :
    fMod (wA sel mod b a d op len) = mod := by
  unfold wA fMod; omega

theorem fB_wA (ha : a < 16) (hd : d < 16) (ho : op < 64) (hl : len < 4) :
    fB (wA sel mod b a d op len) = sregOf b := by
  unfold wA fB sregOf; apply Fin.ext; simp only; omega

theorem fA_wA (hd : d < 16) (ho : op < 64) (hl : len < 4) :
    fA (wA sel mod b a d op len) = sregOf a := by
  unfold wA fA sregOf; apply Fin.ext; simp only; omega

theorem fD_wA (ho : op < 64) (hl : len < 4) : fD (wA sel mod b a d op len) = sregOf d := by
  unfold wA fD sregOf; apply Fin.ext; simp only; omega

/-- The 10-bit number of b and MOD (R44). -/
theorem fCsr_wA {n : BitVec 10} (ha : a < 16) (hd : d < 16) (ho : op < 64) (hl : len < 4) :
    fCsr (wA sel (csrMod n) (csrB n) a d op len) = n := by
  have hn := n.isLt
  have hm : csrMod n < 64 := by unfold csrMod; omega
  have hb : csrB n < 16 := by unfold csrB; omega
  have h1 : wA sel (csrMod n) (csrB n) a d op len / 1048576 % 64 = csrMod n := fMod_wA hm hb ha hd ho hl
  have h2 : wA sel (csrMod n) (csrB n) a d op len / 65536 % 16 = csrB n := by unfold wA; omega
  have e : fCsr (wA sel (csrMod n) (csrB n) a d op len) = BitVec.ofNat 10 (csrMod n + csrB n * 64) := by
    unfold fCsr; rw [h1, h2]
  have e2 : csrMod n + csrB n * 64 = n.toNat := by unfold csrMod csrB; omega
  rw [e, e2]
  simp

end FormatA

/-! ### Format I -/

section FormatI

variable {imm a d op len : Nat}

theorem wI_lt (hi : imm < 65536) (ha : a < 16) (hd : d < 16) (ho : op < 64) (hl : len < 4) :
    wI imm a d op len < 4294967296 := by
  unfold wI; omega

theorem fLen_wI (hl : len < 4) : fLen (wI imm a d op len) = len := by
  unfold wI fLen; omega

theorem fOp_wI (ho : op < 64) (hl : len < 4) : fOp (wI imm a d op len) = op := by
  unfold wI fOp; omega

theorem imm_wI (ha : a < 16) (hd : d < 16) (ho : op < 64) (hl : len < 4) : wI imm a d op len / 65536 = imm := by
  unfold wI; omega

theorem fImm_wI (ha : a < 16) (hd : d < 16) (ho : op < 64) (hl : len < 4) :
    fImm (wI imm a d op len) = BitVec.ofNat 16 imm := by
  unfold fImm; rw [imm_wI ha hd ho hl]

theorem fA_wI (hd : d < 16) (ho : op < 64) (hl : len < 4) : fA (wI imm a d op len) = sregOf a := by
  unfold wI fA sregOf; apply Fin.ext; simp only; omega

theorem fD_wI (ho : op < 64) (hl : len < 4) : fD (wI imm a d op len) = sregOf d := by
  unfold wI fD sregOf; apply Fin.ext; simp only; omega

end FormatI

/-! ### Format I-M -/

section FormatM

variable {sz off a d op : Nat}

theorem wM_lt (hz : sz < 8) (hf : off < 8192) (ha : a < 16) (hd : d < 16) (ho : op < 64) :
    wM sz off a d op < 4294967296 := by
  unfold wM; omega

theorem fLen_wM : fLen (wM sz off a d op) = 0 := by
  unfold wM fLen; omega

theorem fOp_wM (ho : op < 64) : fOp (wM sz off a d op) = op := by
  unfold wM fOp; omega

theorem fSz_wM (hz : sz < 8) (hf : off < 8192) (ha : a < 16) (hd : d < 16) (ho : op < 64) :
    fSz (wM sz off a d op) = sz := by
  unfold wM fSz; omega

theorem fOff_wM (ha : a < 16) (hd : d < 16) (ho : op < 64) : fOff (wM sz off a d op) = BitVec.ofNat 13 off := by
  apply BitVec.eq_of_toNat_eq
  simp only [wM, fOff, BitVec.toNat_ofNat]; omega

theorem fA_wM (hd : d < 16) (ho : op < 64) : fA (wM sz off a d op) = sregOf a := by
  unfold wM fA sregOf; apply Fin.ext; simp only; omega

theorem fD_wM (ho : op < 64) : fD (wM sz off a d op) = sregOf d := by
  unfold wM fD sregOf; apply Fin.ext; simp only; omega

end FormatM

/-! ### Format B -/

section FormatB

variable {delta word b a c op len : Nat}

theorem wB_lt (ht : delta < 128) (hw : word < 32) (hb : b < 16) (ha : a < 16) (hc : c < 16) (ho : op < 64) (hl : len < 4) :
    wB delta word b a c op len < 4294967296 := by
  unfold wB; omega

theorem fLen_wB (hl : len < 4) : fLen (wB delta word b a c op len) = len := by
  unfold wB fLen; omega

theorem fOp_wB (ho : op < 64) (hl : len < 4) : fOp (wB delta word b a c op len) = op := by
  unfold wB fOp; omega

theorem fDelta_wB (hw : word < 32) (hb : b < 16) (ha : a < 16) (hc : c < 16) (ho : op < 64) (hl : len < 4) :
    fDelta (wB delta word b a c op len) = BitVec.ofNat 7 delta := by
  apply BitVec.eq_of_toNat_eq
  simp only [wB, fDelta, BitVec.toNat_ofNat]; omega

theorem fWord_wB (hb : b < 16) (ha : a < 16) (hc : c < 16) (ho : op < 64) (hl : len < 4) :
    fWord (wB delta word b a c op len) = fin32Of word := by
  unfold wB fWord fin32Of; apply Fin.ext; simp only; omega

theorem target_wB (hb : b < 16) (ha : a < 16) (hc : c < 16) (ho : op < 64) (hl : len < 4) :
    wB delta word b a c op len / 1048576 = delta * 32 + word := by
  unfold wB; omega

theorem fB_wB (ha : a < 16) (hc : c < 16) (ho : op < 64) (hl : len < 4) :
    fB (wB delta word b a c op len) = sregOf b := by
  unfold wB fB sregOf; apply Fin.ext; simp only; omega

theorem fA_wB (hc : c < 16) (ho : op < 64) (hl : len < 4) :
    fA (wB delta word b a c op len) = sregOf a := by
  unfold wB fA sregOf; apply Fin.ext; simp only; omega

theorem fD_wB (ho : op < 64) (hl : len < 4) : fD (wB delta word b a c op len) = sregOf c := by
  unfold wB fD sregOf; apply Fin.ext; simp only; omega

end FormatB

/-! ### Format V -/

section FormatV

variable {fn vb va vd op len : Nat}

theorem wV_lt (hn : fn < 64) (hb : vb < 64) (ha : va < 64) (hd : vd < 64) (ho : op < 64) (hl : len < 4) :
    wV fn vb va vd op len < 4294967296 := by
  unfold wV; omega

theorem fLen_wV (hl : len < 4) : fLen (wV fn vb va vd op len) = len := by
  unfold wV fLen; omega

theorem fOp_wV (ho : op < 64) (hl : len < 4) : fOp (wV fn vb va vd op len) = op := by
  unfold wV fOp; omega

theorem fSel_wV (hn : fn < 64) (hb : vb < 64) (ha : va < 64) (hd : vd < 64) (ho : op < 64) (hl : len < 4) :
    fSel (wV fn vb va vd op len) = fn := by
  unfold wV fSel; omega

theorem fVb_wV (ha : va < 64) (hd : vd < 64) (ho : op < 64) (hl : len < 4) :
    fVb (wV fn vb va vd op len) = vregOf vb := by
  unfold wV fVb vregOf; apply Fin.ext; simp only; omega

theorem fVa_wV (hd : vd < 64) (ho : op < 64) (hl : len < 4) :
    fVa (wV fn vb va vd op len) = vregOf va := by
  unfold wV fVa vregOf; apply Fin.ext; simp only; omega

theorem fVd_wV (ho : op < 64) (hl : len < 4) : fVd (wV fn vb va vd op len) = vregOf vd := by
  unfold wV fVd vregOf; apply Fin.ext; simp only; omega

end FormatV

/-! ### Decoding by OP -/

/-- A decoded instruction that is well formed. -/
theorem decode_of_words {ws : List Word32} {i : Instr} (h : decodeWords ws = .ok i) (hw : i.wf = true) :
    decode ws = .ok i := by
  unfold decode
  rw [h]
  show need i.wf .fieldValue (.ok i) = .ok i
  rw [hw]
  rfl

/-- What the decoder accepts is well formed. -/
theorem decode_wf {ws : List Word32} {i : Instr} (h : decode ws = .ok i) : i.wf = true := by
  unfold decode at h
  split at h
  · rename_i j _
    by_cases hw : j.wf = true
    · simp only [need, hw, if_true, Except.ok.injEq] at h
      rw [← h]; exact hw
    · simp [need, hw] at h
  · cases h

/-- A one-word form. -/
theorem decodeWords_base {n : Nat} (hn : n < 4294967296) (hl : fLen n = 0) : decodeWords [wd n] = decodeBase n := by
  simp only [decodeWords, toNat_wd hn, hl]

/-- A literal form. -/
theorem decodeWords_lit {n : Nat} (l : Word) (hn : n < 4294967296) (hl : fLen n = 1) :
    decodeWords (wd n :: litWords l) = decodeLit n l := by
  simp only [decodeWords, litWords, toNat_wd hn, hl, litOf_words]

/-- An extended form. -/
theorem decodeWords_ext {n x1 x2 : Nat} (hn : n < 4294967296) (h1 : x1 < 4294967296) (h2 : x2 < 4294967296)
    (hl : fLen n = 2) : decodeWords [wd n, wd x1, wd x2] = decodeExt n x1 x2 := by
  simp only [decodeWords, toNat_wd hn, toNat_wd h1, toNat_wd h2, hl]

theorem decodeBase_01 {w : Nat} (h : fOp w = 0x01) : decodeBase w = decodeAlu w := by
  unfold decodeBase; rw [h]; rfl

theorem decodeBase_03 {w : Nat} (h : fOp w = 0x03) : decodeBase w = decodeField .bext w := by
  unfold decodeBase; rw [h]; rfl

theorem decodeBase_04 {w : Nat} (h : fOp w = 0x04) : decodeBase w = decodeField .bins w := by
  unfold decodeBase; rw [h]; rfl

theorem decodeBase_05 {w : Nat} (h : fOp w = 0x05) : decodeBase w = .ok (.addi (fD w) (fA w) (fImm w)) := by
  unfold decodeBase; rw [h]; rfl

theorem decodeBase_06 {w : Nat} (h : fOp w = 0x06) : decodeBase w = .ok (.andi (fD w) (fA w) (fImm w)) := by
  unfold decodeBase; rw [h]; rfl

theorem decodeBase_07 {w : Nat} (h : fOp w = 0x07) : decodeBase w = .ok (.ori (fD w) (fA w) (fImm w)) := by
  unfold decodeBase; rw [h]; rfl

theorem decodeBase_08 {w : Nat} (h : fOp w = 0x08) : decodeBase w = .ok (.xori (fD w) (fA w) (fImm w)) := by
  unfold decodeBase; rw [h]; rfl

theorem decodeBase_09 {w : Nat} (h : fOp w = 0x09) : decodeBase w = decodeShift .shli w := by
  unfold decodeBase; rw [h]; rfl

theorem decodeBase_0A {w : Nat} (h : fOp w = 0x0A) : decodeBase w = decodeShift .shri w := by
  unfold decodeBase; rw [h]; rfl

theorem decodeBase_0B {w : Nat} (h : fOp w = 0x0B) : decodeBase w = decodeShift .srai w := by
  unfold decodeBase; rw [h]; rfl

theorem decodeBase_0C {w : Nat} (h : fOp w = 0x0C) : decodeBase w = need ((fA w).val == 0) .fieldNotZero (.ok (.li (fD w) (fImm w))) := by
  unfold decodeBase; rw [h]; rfl

theorem decodeBase_0D {w : Nat} (h : fOp w = 0x0D) : decodeBase w = need ((fA w).val == 0) .fieldNotZero (.ok (.lea (fD w) (fImm w))) := by
  unfold decodeBase; rw [h]; rfl

theorem decodeBase_10 {w : Nat} (h : fOp w = 0x10) : decodeBase w = decodeBranch w := by
  unfold decodeBase; rw [h]; rfl

theorem decodeBase_11 {w : Nat} (h : fOp w = 0x11) : decodeBase w = need ((fA w).val == 0 && (fB w).val == 0) .fieldNotZero (.ok (.call (fD w) (fDelta w) (fWord w))) := by
  unfold decodeBase; rw [h]; rfl

theorem decodeBase_12 {w : Nat} (h : fOp w = 0x12) : decodeBase w = decodeJump w := by
  unfold decodeBase; rw [h]; rfl

theorem decodeBase_13 {w : Nat} (h : fOp w = 0x13) : decodeBase w = need ((fD w).val == 0 && (fB w).val == 0) .fieldNotZero (.ok (.cont (fA w) (fDelta w) (fWord w))) := by
  unfold decodeBase; rw [h]; rfl

theorem decodeBase_14 {w : Nat} (h : fOp w = 0x14) : decodeBase w = decodeLane w := by
  unfold decodeBase; rw [h]; rfl

theorem decodeBase_15 {w : Nat} (h : fOp w = 0x15) : decodeBase w = need (fSel w == 0) .selUnassigned (need (fMod w < 8) .fieldNotZero (.ok (.send (fD w) (fA w) (fB w) (fin8Of (fMod w))))) := by
  unfold decodeBase; rw [h]; rfl

theorem decodeBase_18 {w : Nat} (h : fOp w = 0x18) : decodeBase w = pickCtor (loadSizeOf (fSz w)) .fieldValue fun z => .ok (.ldl (fD w) (fA w) z (fOff w)) := by
  unfold decodeBase; rw [h]; rfl

theorem decodeBase_19 {w : Nat} (h : fOp w = 0x19) : decodeBase w = pickCtor (storeSizeOf (fSz w)) .fieldValue fun z => .ok (.stl (fD w) (fA w) z (fOff w)) := by
  unfold decodeBase; rw [h]; rfl

theorem decodeBase_1A {w : Nat} (h : fOp w = 0x1A) : decodeBase w = decodeLocalRow w := by
  unfold decodeBase; rw [h]; rfl

theorem decodeBase_1B {w : Nat} (h : fOp w = 0x1B) : decodeBase w = decodePeer w := by
  unfold decodeBase; rw [h]; rfl

theorem decodeBase_1C {w : Nat} (h : fOp w = 0x1C) : decodeBase w = need (fSel w == 0) .selUnassigned (decodeAtom .amol w) := by
  unfold decodeBase; rw [h]; rfl

theorem decodeBase_1D {w : Nat} (h : fOp w = 0x1D) : decodeBase w = decodeRing w := by
  unfold decodeBase; rw [h]; rfl

theorem decodeBase_21 {w : Nat} (h : fOp w = 0x21) : decodeBase w = decodeObject w := by
  unfold decodeBase; rw [h]; rfl

theorem decodeBase_24 {w : Nat} (h : fOp w = 0x24) : decodeBase w = pickCtor (loadSizeOf (fSz w)) .fieldValue fun z => .ok (.ldg (fD w) (fA w) z (fOff w)) := by
  unfold decodeBase; rw [h]; rfl

theorem decodeBase_25 {w : Nat} (h : fOp w = 0x25) : decodeBase w = pickCtor (storeSizeOf (fSz w)) .fieldValue fun z => .ok (.stg (fD w) (fA w) z (fOff w)) := by
  unfold decodeBase; rw [h]; rfl

theorem decodeBase_26 {w : Nat} (h : fOp w = 0x26) : decodeBase w = decodeGlobalRow w := by
  unfold decodeBase; rw [h]; rfl

theorem decodeBase_27 {w : Nat} (h : fOp w = 0x27) : decodeBase w = decodeAmo w := by
  unfold decodeBase; rw [h]; rfl

theorem decodeBase_2A {w : Nat} (h : fOp w = 0x2A) : decodeBase w = decodeReedCtl w := by
  unfold decodeBase; rw [h]; rfl

theorem decodeBase_2C {w : Nat} (h : fOp w = 0x2C) : decodeBase w = decodePattern w := by
  unfold decodeBase; rw [h]; rfl

theorem decodeBase_2D {w : Nat} (h : fOp w = 0x2D) : decodeBase w = decodeTile w := by
  unfold decodeBase; rw [h]; rfl

theorem decodeBase_2F {w : Nat} (h : fOp w = 0x2F) : decodeBase w = decodeVec w := by
  unfold decodeBase; rw [h]; rfl

theorem decodeBase_30 {w : Nat} (h : fOp w = 0x30) : decodeBase w = decodeVcmp w := by
  unfold decodeBase; rw [h]; rfl

theorem decodeBase_31 {w : Nat} (h : fOp w = 0x31) : decodeBase w = decodeExchange w := by
  unfold decodeBase; rw [h]; rfl

theorem decodeBase_35 {w : Nat} (h : fOp w = 0x35) : decodeBase w = decodeStream w := by
  unfold decodeBase; rw [h]; rfl

theorem decodeBase_36 {w : Nat} (h : fOp w = 0x36) : decodeBase w = decodeBellows w := by
  unfold decodeBase; rw [h]; rfl

theorem decodeBase_38 {w : Nat} (h : fOp w = 0x38) : decodeBase w = decodeBarrier w := by
  unfold decodeBase; rw [h]; rfl

theorem decodeBase_39 {w : Nat} (h : fOp w = 0x39) : decodeBase w = decodeTask w := by
  unfold decodeBase; rw [h]; rfl

theorem decodeBase_3C {w : Nat} (h : fOp w = 0x3C) : decodeBase w = decodeHarvest w := by
  unfold decodeBase; rw [h]; rfl

theorem decodeBase_3D {w : Nat} (h : fOp w = 0x3D) : decodeBase w = decodeSystem w := by
  unfold decodeBase; rw [h]; rfl

theorem decodeBase_3E {w : Nat} (h : fOp w = 0x3E) : decodeBase w = decodeFence w := by
  unfold decodeBase; rw [h]; rfl

theorem decodeLit_01 {w : Nat} (l : Word) (h : fOp w = 0x01) : decodeLit w l = decodeAluLit w l := by
  unfold decodeLit; rw [h]; rfl

theorem decodeLit_05 {w : Nat} (l : Word) (h : fOp w = 0x05) : decodeLit w l = decodeImmLit .addiLit w l := by
  unfold decodeLit; rw [h]; rfl

theorem decodeLit_06 {w : Nat} (l : Word) (h : fOp w = 0x06) : decodeLit w l = decodeImmLit .andiLit w l := by
  unfold decodeLit; rw [h]; rfl

theorem decodeLit_07 {w : Nat} (l : Word) (h : fOp w = 0x07) : decodeLit w l = decodeImmLit .oriLit w l := by
  unfold decodeLit; rw [h]; rfl

theorem decodeLit_08 {w : Nat} (l : Word) (h : fOp w = 0x08) : decodeLit w l = decodeImmLit .xoriLit w l := by
  unfold decodeLit; rw [h]; rfl

theorem decodeLit_0C {w : Nat} (l : Word) (h : fOp w = 0x0C) : decodeLit w l = decodeMoveLit .liLit w l := by
  unfold decodeLit; rw [h]; rfl

theorem decodeLit_0D {w : Nat} (l : Word) (h : fOp w = 0x0D) : decodeLit w l = decodeMoveLit .leaLit w l := by
  unfold decodeLit; rw [h]; rfl

theorem decodeLit_10 {w : Nat} (l : Word) (h : fOp w = 0x10) : decodeLit w l = decodeBranchLit w l := by
  unfold decodeLit; rw [h]; rfl

theorem decodeLit_11 {w : Nat} (l : Word) (h : fOp w = 0x11) : decodeLit w l = litB w (need ((fA w).val == 0 && (fB w).val == 0) .fieldNotZero (.ok (.callLit (fD w) l))) := by
  unfold decodeLit; rw [h]; rfl

theorem decodeLit_13 {w : Nat} (l : Word) (h : fOp w = 0x13) : decodeLit w l = litB w (need ((fD w).val == 0 && (fB w).val == 0) .fieldNotZero (.ok (.contLit (fA w) l))) := by
  unfold decodeLit; rw [h]; rfl

theorem decodeLit_15 {w : Nat} (l : Word) (h : fOp w = 0x15) : decodeLit w l = litA w (need (fSel w == 0) .selUnassigned (need (fMod w < 8) .fieldNotZero (.ok (.sendLit (fD w) (fA w) (fin8Of (fMod w)) l)))) := by
  unfold decodeLit; rw [h]; rfl

theorem decodeLit_1A {w : Nat} (l : Word) (h : fOp w = 0x1A) : decodeLit w l = decodeLocalRowLit w l := by
  unfold decodeLit; rw [h]; rfl

theorem decodeLit_1B {w : Nat} (l : Word) (h : fOp w = 0x1B) : decodeLit w l = decodePeerLit w l := by
  unfold decodeLit; rw [h]; rfl

theorem decodeLit_1C {w : Nat} (l : Word) (h : fOp w = 0x1C) : decodeLit w l = need (fSel w == 0) .selUnassigned (decodeAtomLit .amolLit w l) := by
  unfold decodeLit; rw [h]; rfl

theorem decodeLit_26 {w : Nat} (l : Word) (h : fOp w = 0x26) : decodeLit w l = decodeGlobalRowLit w l := by
  unfold decodeLit; rw [h]; rfl

theorem decodeLit_27 {w : Nat} (l : Word) (h : fOp w = 0x27) : decodeLit w l = decodeAmoLit w l := by
  unfold decodeLit; rw [h]; rfl

theorem decodeLit_2F {w : Nat} (l : Word) (h : fOp w = 0x2F) : decodeLit w l = decodeVecLit w l := by
  unfold decodeLit; rw [h]; rfl

theorem decodeLit_30 {w : Nat} (l : Word) (h : fOp w = 0x30) : decodeLit w l = decodeVcmpLit w l := by
  unfold decodeLit; rw [h]; rfl

theorem decodeLit_38 {w : Nat} (l : Word) (h : fOp w = 0x38) : decodeLit w l = decodeBarrierLit w l := by
  unfold decodeLit; rw [h]; rfl

theorem decodeLit_39 {w : Nat} (l : Word) (h : fOp w = 0x39) : decodeLit w l = decodeTaskLit w l := by
  unfold decodeLit; rw [h]; rfl

theorem decodeExt_20 {w : Nat} (x1 x2 : Nat) (h : fOp w = 0x20) : decodeExt w x1 x2 = decodeCopy w x1 x2 := by
  unfold decodeExt; rw [h]; rfl

theorem decodeExt_28 {w : Nat} (x1 x2 : Nat) (h : fOp w = 0x28) : decodeExt w x1 x2 = decodeRset w x1 x2 := by
  unfold decodeExt; rw [h]; rfl

theorem decodeExt_29 {w : Nat} (x1 x2 : Nat) (h : fOp w = 0x29) : decodeExt w x1 x2 = decodeRfeed w x1 x2 := by
  unfold decodeExt; rw [h]; rfl

theorem decodeExt_2B {w : Nat} (x1 x2 : Nat) (h : fOp w = 0x2B) : decodeExt w x1 x2 = decodeTarm w x1 x2 := by
  unfold decodeExt; rw [h]; rfl

theorem decodeExt_2E {w : Nat} (x1 x2 : Nat) (h : fOp w = 0x2E) : decodeExt w x1 x2 = decodeDrain w x1 x2 := by
  unfold decodeExt; rw [h]; rfl

theorem decodeExt_32 {w : Nat} (x1 x2 : Nat) (h : fOp w = 0x32) : decodeExt w x1 x2 = decodeConvert w x1 x2 := by
  unfold decodeExt; rw [h]; rfl

theorem decodeExt_33 {w : Nat} (x1 x2 : Nat) (h : fOp w = 0x33) : decodeExt w x1 x2 = decodeCord w x1 x2 := by
  unfold decodeExt; rw [h]; rfl

theorem decodeExt_34 {w : Nat} (x1 x2 : Nat) (h : fOp w = 0x34) : decodeExt w x1 x2 = decodeSopen w x1 x2 := by
  unfold decodeExt; rw [h]; rfl

theorem decodeExt_3A {w : Nat} (x1 x2 : Nat) (h : fOp w = 0x3A) : decodeExt w x1 x2 = decodeLaunch w x1 x2 := by
  unfold decodeExt; rw [h]; rfl

end Sys2Proof
end

