-- ==== Sys2Proof/Laws/Memory.lean ====
section
/-! SUPPORT. Laws of numbered maps and of byte cells: a read after a write, other places alone, and the canonical form that every
write keeps. -/

namespace Sys2Proof.Machine

open Sys2Proof

/-! ### Numbered maps -/

@[simp] theorem mfind_mset_same {α : Type} (m : List (Nat × α)) (k : Nat) (v : α) : mfind (mset m k v) k = some v := by
  induction m with
  | nil => simp [mset, mfind]
  | cons p rest ih =>
    obtain ⟨j, w⟩ := p
    simp only [mset]
    split
    · simp [mfind]
    · split
      · simp [mfind]
      · rename_i h1 h2
        have : j ≠ k := fun h => h2 (by simp [h])
        simp [mfind, ih, this]

theorem mfind_mset_other {α : Type} (m : List (Nat × α)) (k j : Nat) (v : α) (h : j ≠ k) :
    mfind (mset m k v) j = mfind m j := by
  induction m with
  | nil => simp [mset, mfind, Ne.symm h]
  | cons p rest ih =>
    obtain ⟨i, w⟩ := p
    simp only [mset]
    split
    · simp [mfind, Ne.symm h]
    · split
      · rename_i h1 h2
        have h3 : k = i := by simpa using h2
        subst h3
        simp [mfind, Ne.symm h]
      · simp only [mfind]; split <;> simp_all

@[simp] theorem mget_mset_same {α : Type} (m : List (Nat × α)) (k : Nat) (v d : α) : mget (mset m k v) k d = v := by
  simp [mget]

theorem mget_mset_other {α : Type} (m : List (Nat × α)) (k j : Nat) (v d : α) (h : j ≠ k) :
    mget (mset m k v) j d = mget m j d := by
  simp [mget, mfind_mset_other m k j v h]

theorem mget_mset {α : Type} (m : List (Nat × α)) (k j : Nat) (v d : α) :
    mget (mset m k v) j d = if j = k then v else mget m j d := by
  split
  · subst j; simp
  · exact mget_mset_other m k j v d (by assumption)

/-- Two writes of one number leave the second. -/
@[simp] theorem mset_mset_same {α : Type} (m : List (Nat × α)) (k : Nat) (v w : α) :
    mset (mset m k v) k w = mset m k w := by
  induction m with
  | nil => simp [mset]
  | cons p rest ih =>
    obtain ⟨j, x⟩ := p
    by_cases h1 : k < j
    · simp [mset, h1]
    · by_cases h2 : (k == j) = true
      · simp [mset, h1, h2]
      · simp [mset, h1, h2, ih]

/-- Whatever holds of the new entry and of every old one holds of every entry. -/
theorem all_mset {α : Type} (p : Nat × α → Prop) (m : List (Nat × α)) (k : Nat) (v : α) (hv : p (k, v))
    (h : ∀ x ∈ m, p x) : ∀ x ∈ mset m k v, p x := by
  induction m with
  | nil => intro x hx; simp [mset] at hx; subst hx; exact hv
  | cons q rest ih =>
    obtain ⟨j, w⟩ := q
    intro x hx
    simp only [mset] at hx
    split at hx
    · rcases List.mem_cons.1 hx with h1 | h1
      · subst h1; exact hv
      · exact h x h1
    · split at hx
      · rcases List.mem_cons.1 hx with h1 | h1
        · subst h1; exact hv
        · exact h x (List.mem_cons_of_mem _ h1)
      · rcases List.mem_cons.1 hx with h1 | h1
        · subst h1; exact h _ List.mem_cons_self
        · exact ih (fun y hy => h y (List.mem_cons_of_mem _ hy)) x h1

/-- A listed value is one of the entries. -/
theorem mfind_mem {α : Type} (m : List (Nat × α)) (k : Nat) (v : α) (h : mfind m k = some v) : (k, v) ∈ m := by
  induction m with
  | nil => simp [mfind] at h
  | cons p rest ih =>
    obtain ⟨j, w⟩ := p
    simp only [mfind] at h
    split at h
    · rename_i hj
      have : j = k := by simpa using hj
      subst this; simp at h; subst h; exact List.mem_cons_self
    · exact List.mem_cons_of_mem _ (ih h)

/-! ### Byte cells -/

theorem cellsAbove_mono (m : List Host.Cell) {lo lo' : Nat} (h : lo' ≤ lo) (hm : cellsAbove lo m = true) :
    cellsAbove lo' m = true := by
  cases m with
  | nil => rfl
  | cons p rest =>
    obtain ⟨j, b⟩ := p
    simp only [cellsAbove, Bool.and_eq_true, decide_eq_true_eq] at hm ⊢
    exact ⟨⟨by omega, hm.1.2⟩, hm.2⟩

theorem cellGet_below (m : List Host.Cell) (lo a : Nat) (hm : cellsAbove lo m = true) (h : a < lo) : cellGet m a = 0 := by
  induction m generalizing lo with
  | nil => rfl
  | cons p rest ih =>
    obtain ⟨j, b⟩ := p
    simp only [cellsAbove, Bool.and_eq_true, decide_eq_true_eq] at hm
    have : j ≠ a := by omega
    simp [cellGet, this]
    exact ih (j + 1) hm.2 (by omega)

theorem cellSet_above (m : List Host.Cell) (lo a : Nat) (b : Byte) (hm : cellsAbove lo m = true) (h : lo ≤ a) :
    cellsAbove lo (cellSet m a b) = true := by
  induction m generalizing lo with
  | nil => by_cases hb : b = 0#8 <;> simp [cellSet, cellsAbove, hb, h]
  | cons p rest ih =>
    obtain ⟨j, c⟩ := p
    simp only [cellsAbove, Bool.and_eq_true, decide_eq_true_eq] at hm
    simp only [cellSet]
    split
    · by_cases hb : b = 0#8
      · simpa [hb, cellsAbove] using hm
      · rename_i h1
        simp [hb, cellsAbove, h]
        exact ⟨⟨by omega, by simpa using hm.1.2⟩, hm.2⟩
    · split
      · rename_i h1 h2
        have : a = j := by simpa using h2
        subst this
        by_cases hb : b = 0#8
        · simp [hb]; exact cellsAbove_mono rest (by omega) hm.2
        · simp [hb, cellsAbove, hm]
      · rename_i h1 h2
        have : a ≠ j := by simpa using h2
        simp only [cellsAbove, Bool.and_eq_true, decide_eq_true_eq]
        exact ⟨hm.1, ih (j + 1) hm.2 (by omega)⟩

/-- A write keeps the canonical form. -/
theorem cellSet_wf (m : List Host.Cell) (a : Nat) (b : Byte) (hm : Memory.wf m = true) : Memory.wf (cellSet m a b) = true :=
  cellSet_above m 0 a b hm (Nat.zero_le a)

/-- A write of many bytes keeps the canonical form. -/
theorem cellWrite_wf (m : List Host.Cell) (a : Nat) (bs : List Byte) (hm : Memory.wf m = true) :
    Memory.wf (cellWrite m a bs) = true := by
  induction bs generalizing m a with
  | nil => exact hm
  | cons b bs ih => exact ih _ _ (cellSet_wf m a b hm)

/-- A read after a write gives what was written, in a memory of canonical form. -/
theorem cellGet_cellSet_same (m : List Host.Cell) (a : Nat) (b : Byte) (lo : Nat) (hm : cellsAbove lo m = true) :
    cellGet (cellSet m a b) a = b := by
  induction m generalizing lo with
  | nil => by_cases hb : b = 0#8 <;> simp [cellSet, cellGet, hb]
  | cons p rest ih =>
    obtain ⟨j, c⟩ := p
    have hm' := hm
    simp only [cellsAbove, Bool.and_eq_true, decide_eq_true_eq] at hm
    simp only [cellSet]
    split
    · rename_i h
      by_cases hb : b = 0#8
      · subst hb
        have : j ≠ a := by omega
        simp [cellGet, this]
        exact cellGet_below rest (j + 1) a hm.2 (by omega)
      · simp [hb, cellGet]
    · split
      · rename_i h1 h2
        have : a = j := by simpa using h2
        subst this
        by_cases hb : b = 0#8
        · subst hb; simp; exact cellGet_below rest (a + 1) a hm.2 (by omega)
        · simp [hb, cellGet]
      · rename_i h1 h2
        have : j ≠ a := fun h => h2 (by simp [h])
        simp [cellGet, this, ih (j + 1) hm.2]

/-- A write leaves every other byte alone. -/
theorem cellGet_cellSet_other (m : List Host.Cell) (a x : Nat) (b : Byte) (h : x ≠ a) :
    cellGet (cellSet m a b) x = cellGet m x := by
  induction m with
  | nil => by_cases hb : b = 0#8 <;> simp [cellSet, cellGet, hb, Ne.symm h]
  | cons p rest ih =>
    obtain ⟨j, c⟩ := p
    simp only [cellSet]
    split
    · by_cases hb : b = 0#8 <;> simp [hb, cellGet, Ne.symm h]
    · split
      · rename_i h1 h2
        have : a = j := by simpa using h2
        subst this
        by_cases hb : b = 0#8 <;> simp [hb, cellGet, Ne.symm h]
      · simp only [cellGet, ih]

/-- A write of many bytes leaves every byte outside it alone. -/
theorem cellGet_cellWrite_other (m : List Host.Cell) (a x : Nat) (bs : List Byte) (h : x < a ∨ a + bs.length ≤ x) :
    cellGet (cellWrite m a bs) x = cellGet m x := by
  induction bs generalizing m a with
  | nil => rfl
  | cons b bs ih =>
    simp only [List.length_cons] at h
    simp only [cellWrite]
    rw [ih _ _ (by omega)]
    exact cellGet_cellSet_other m a x b (by omega)

/-- A write of many bytes is read back. -/
theorem cellGet_cellWrite_in (m : List Host.Cell) (a i : Nat) (bs : List Byte) (hm : Memory.wf m = true)
    (h : i < bs.length) : cellGet (cellWrite m a bs) (a + i) = bs[i] := by
  induction bs generalizing m a i with
  | nil => simp at h
  | cons b bs ih =>
    simp only [cellWrite]
    cases i with
    | zero =>
      simp only [Nat.add_zero]
      rw [cellGet_cellWrite_other _ _ _ _ (by omega), cellGet_cellSet_same m a b 0 hm]
      rfl
    | succ i =>
      rw [show a + (i + 1) = a + 1 + i by omega, ih _ _ _ (cellSet_wf m a b hm) (by simpa using h)]
      simp

/-! ### Bytes and numbers -/

@[simp] theorem natLe_length (n v : Nat) : (natLe n v).length = n := by
  induction n generalizing v with
  | zero => rfl
  | succ n ih => simp [natLe, ih]

/-- The number of the little-endian bytes of a number. -/
theorem leNat_natLe (n v : Nat) : leNat (natLe n v) = v % 256 ^ n := by
  induction n generalizing v with
  | zero => simp [natLe, leNat, Nat.mod_one]
  | succ n ih =>
    simp only [natLe, leNat, ih, BitVec.toNat_ofNat]
    have h : v % (256 * 256 ^ n) = v % 256 + 256 * (v / 256 % 256 ^ n) := Nat.mod_mul
    have e : 256 ^ (n + 1) = 256 * 256 ^ n := by rw [Nat.pow_succ, Nat.mul_comm]
    rw [e, h]

@[simp] theorem cellRead_length (m : List Host.Cell) (a n : Nat) : (cellRead m a n).length = n := by
  induction n generalizing a with
  | zero => rfl
  | succ n ih => simp [cellRead, ih]

end Sys2Proof.Machine
end

