-- ==== Sys2Proof/Laws/State.lean ====
section
/-! SUPPORT. Field laws: what each update of the state, of a core and of a context leaves in every field, one lemma per field, and
what a core, a context or a register reads after an update. -/

namespace Sys2Proof.Machine

open Sys2Proof

/-! ### setCore -/

@[simp] theorem State.setCore_cur (s : State) (cn : Nat) (c : Core) : (s.setCore cn c).cur = s.cur := rfl
@[simp] theorem State.setCore_agenda (s : State) (cn : Nat) (c : Core) : (s.setCore cn c).agenda = s.agenda := rfl
@[simp] theorem State.setCore_now (s : State) (cn : Nat) (c : Core) : (s.setCore cn c).now = s.now := rfl
@[simp] theorem State.setCore_time (s : State) (cn : Nat) (c : Core) : (s.setCore cn c).time = s.time := rfl
@[simp] theorem State.setCore_slewLeft (s : State) (cn : Nat) (c : Core) : (s.setCore cn c).slewLeft = s.slewLeft := rfl
@[simp] theorem State.setCore_slewAcc (s : State) (cn : Nat) (c : Core) : (s.setCore cn c).slewAcc = s.slewAcc := rfl
@[simp] theorem State.setCore_fresh (s : State) (cn : Nat) (c : Core) : (s.setCore cn c).fresh = s.fresh := rfl
@[simp] theorem State.setCore_ids (s : State) (cn : Nat) (c : Core) : (s.setCore cn c).ids = s.ids := rfl
@[simp] theorem State.setCore_reeds (s : State) (cn : Nat) (c : Core) : (s.setCore cn c).reeds = s.reeds := rfl
@[simp] theorem State.setCore_slices (s : State) (cn : Nat) (c : Core) : (s.setCore cn c).slices = s.slices := rfl
@[simp] theorem State.setCore_loaves (s : State) (cn : Nat) (c : Core) : (s.setCore cn c).loaves = s.loaves := rfl
@[simp] theorem State.setCore_links (s : State) (cn : Nat) (c : Core) : (s.setCore cn c).links = s.links := rfl
@[simp] theorem State.setCore_hbm (s : State) (cn : Nat) (c : Core) : (s.setCore cn c).hbm = s.hbm := rfl
@[simp] theorem State.setCore_net (s : State) (cn : Nat) (c : Core) : (s.setCore cn c).net = s.net := rfl
@[simp] theorem State.setCore_streams (s : State) (cn : Nat) (c : Core) : (s.setCore cn c).streams = s.streams := rfl
@[simp] theorem State.setCore_bellows (s : State) (cn : Nat) (c : Core) : (s.setCore cn c).bellows = s.bellows := rfl
@[simp] theorem State.setCore_launches (s : State) (cn : Nat) (c : Core) : (s.setCore cn c).launches = s.launches := rfl
@[simp] theorem State.setCore_lreqs (s : State) (cn : Nat) (c : Core) : (s.setCore cn c).lreqs = s.lreqs := rfl
@[simp] theorem State.setCore_posts (s : State) (cn : Nat) (c : Core) : (s.setCore cn c).posts = s.posts := rfl
@[simp] theorem State.setCore_crust (s : State) (cn : Nat) (c : Core) : (s.setCore cn c).crust = s.crust := rfl
@[simp] theorem State.setCore_reed_at (s : State) (cn : Nat) (c : Core) (i : Nat) : (s.setCore cn c).reed i = s.reed i := rfl
@[simp] theorem State.setCore_slice_at (s : State) (cn : Nat) (c : Core) (i : Nat) : (s.setCore cn c).slice i = s.slice i := rfl
@[simp] theorem State.setCore_loaf_at (s : State) (cn : Nat) (c : Core) (i : Nat) : (s.setCore cn c).loaf i = s.loaf i := rfl
@[simp] theorem State.setCore_launch_at (s : State) (cn : Nat) (c : Core) (i : Nat) : (s.setCore cn c).launch i = s.launch i := rfl

/-! ### modCore -/

@[simp] theorem State.modCore_cur (s : State) (cn : Nat) (f : Core → Core) : (s.modCore cn f).cur = s.cur := rfl
@[simp] theorem State.modCore_agenda (s : State) (cn : Nat) (f : Core → Core) : (s.modCore cn f).agenda = s.agenda := rfl
@[simp] theorem State.modCore_now (s : State) (cn : Nat) (f : Core → Core) : (s.modCore cn f).now = s.now := rfl
@[simp] theorem State.modCore_time (s : State) (cn : Nat) (f : Core → Core) : (s.modCore cn f).time = s.time := rfl
@[simp] theorem State.modCore_slewLeft (s : State) (cn : Nat) (f : Core → Core) : (s.modCore cn f).slewLeft = s.slewLeft := rfl
@[simp] theorem State.modCore_slewAcc (s : State) (cn : Nat) (f : Core → Core) : (s.modCore cn f).slewAcc = s.slewAcc := rfl
@[simp] theorem State.modCore_fresh (s : State) (cn : Nat) (f : Core → Core) : (s.modCore cn f).fresh = s.fresh := rfl
@[simp] theorem State.modCore_ids (s : State) (cn : Nat) (f : Core → Core) : (s.modCore cn f).ids = s.ids := rfl
@[simp] theorem State.modCore_reeds (s : State) (cn : Nat) (f : Core → Core) : (s.modCore cn f).reeds = s.reeds := rfl
@[simp] theorem State.modCore_slices (s : State) (cn : Nat) (f : Core → Core) : (s.modCore cn f).slices = s.slices := rfl
@[simp] theorem State.modCore_loaves (s : State) (cn : Nat) (f : Core → Core) : (s.modCore cn f).loaves = s.loaves := rfl
@[simp] theorem State.modCore_links (s : State) (cn : Nat) (f : Core → Core) : (s.modCore cn f).links = s.links := rfl
@[simp] theorem State.modCore_hbm (s : State) (cn : Nat) (f : Core → Core) : (s.modCore cn f).hbm = s.hbm := rfl
@[simp] theorem State.modCore_net (s : State) (cn : Nat) (f : Core → Core) : (s.modCore cn f).net = s.net := rfl
@[simp] theorem State.modCore_streams (s : State) (cn : Nat) (f : Core → Core) : (s.modCore cn f).streams = s.streams := rfl
@[simp] theorem State.modCore_bellows (s : State) (cn : Nat) (f : Core → Core) : (s.modCore cn f).bellows = s.bellows := rfl
@[simp] theorem State.modCore_launches (s : State) (cn : Nat) (f : Core → Core) : (s.modCore cn f).launches = s.launches := rfl
@[simp] theorem State.modCore_lreqs (s : State) (cn : Nat) (f : Core → Core) : (s.modCore cn f).lreqs = s.lreqs := rfl
@[simp] theorem State.modCore_posts (s : State) (cn : Nat) (f : Core → Core) : (s.modCore cn f).posts = s.posts := rfl
@[simp] theorem State.modCore_crust (s : State) (cn : Nat) (f : Core → Core) : (s.modCore cn f).crust = s.crust := rfl
@[simp] theorem State.modCore_reed_at (s : State) (cn : Nat) (f : Core → Core) (i : Nat) : (s.modCore cn f).reed i = s.reed i := rfl
@[simp] theorem State.modCore_slice_at (s : State) (cn : Nat) (f : Core → Core) (i : Nat) : (s.modCore cn f).slice i = s.slice i := rfl
@[simp] theorem State.modCore_loaf_at (s : State) (cn : Nat) (f : Core → Core) (i : Nat) : (s.modCore cn f).loaf i = s.loaf i := rfl
@[simp] theorem State.modCore_launch_at (s : State) (cn : Nat) (f : Core → Core) (i : Nat) : (s.modCore cn f).launch i = s.launch i := rfl

/-! ### modCtxOf -/

@[simp] theorem State.modCtxOf_cur (s : State) (cn : Nat) (hv : Bool) (f : Ctx → Ctx) : (s.modCtxOf cn hv f).cur = s.cur := rfl
@[simp] theorem State.modCtxOf_agenda (s : State) (cn : Nat) (hv : Bool) (f : Ctx → Ctx) : (s.modCtxOf cn hv f).agenda = s.agenda := rfl
@[simp] theorem State.modCtxOf_now (s : State) (cn : Nat) (hv : Bool) (f : Ctx → Ctx) : (s.modCtxOf cn hv f).now = s.now := rfl
@[simp] theorem State.modCtxOf_time (s : State) (cn : Nat) (hv : Bool) (f : Ctx → Ctx) : (s.modCtxOf cn hv f).time = s.time := rfl
@[simp] theorem State.modCtxOf_slewLeft (s : State) (cn : Nat) (hv : Bool) (f : Ctx → Ctx) : (s.modCtxOf cn hv f).slewLeft = s.slewLeft := rfl
@[simp] theorem State.modCtxOf_slewAcc (s : State) (cn : Nat) (hv : Bool) (f : Ctx → Ctx) : (s.modCtxOf cn hv f).slewAcc = s.slewAcc := rfl
@[simp] theorem State.modCtxOf_fresh (s : State) (cn : Nat) (hv : Bool) (f : Ctx → Ctx) : (s.modCtxOf cn hv f).fresh = s.fresh := rfl
@[simp] theorem State.modCtxOf_ids (s : State) (cn : Nat) (hv : Bool) (f : Ctx → Ctx) : (s.modCtxOf cn hv f).ids = s.ids := rfl
@[simp] theorem State.modCtxOf_reeds (s : State) (cn : Nat) (hv : Bool) (f : Ctx → Ctx) : (s.modCtxOf cn hv f).reeds = s.reeds := rfl
@[simp] theorem State.modCtxOf_slices (s : State) (cn : Nat) (hv : Bool) (f : Ctx → Ctx) : (s.modCtxOf cn hv f).slices = s.slices := rfl
@[simp] theorem State.modCtxOf_loaves (s : State) (cn : Nat) (hv : Bool) (f : Ctx → Ctx) : (s.modCtxOf cn hv f).loaves = s.loaves := rfl
@[simp] theorem State.modCtxOf_links (s : State) (cn : Nat) (hv : Bool) (f : Ctx → Ctx) : (s.modCtxOf cn hv f).links = s.links := rfl
@[simp] theorem State.modCtxOf_hbm (s : State) (cn : Nat) (hv : Bool) (f : Ctx → Ctx) : (s.modCtxOf cn hv f).hbm = s.hbm := rfl
@[simp] theorem State.modCtxOf_net (s : State) (cn : Nat) (hv : Bool) (f : Ctx → Ctx) : (s.modCtxOf cn hv f).net = s.net := rfl
@[simp] theorem State.modCtxOf_streams (s : State) (cn : Nat) (hv : Bool) (f : Ctx → Ctx) : (s.modCtxOf cn hv f).streams = s.streams := rfl
@[simp] theorem State.modCtxOf_bellows (s : State) (cn : Nat) (hv : Bool) (f : Ctx → Ctx) : (s.modCtxOf cn hv f).bellows = s.bellows := rfl
@[simp] theorem State.modCtxOf_launches (s : State) (cn : Nat) (hv : Bool) (f : Ctx → Ctx) : (s.modCtxOf cn hv f).launches = s.launches := rfl
@[simp] theorem State.modCtxOf_lreqs (s : State) (cn : Nat) (hv : Bool) (f : Ctx → Ctx) : (s.modCtxOf cn hv f).lreqs = s.lreqs := rfl
@[simp] theorem State.modCtxOf_posts (s : State) (cn : Nat) (hv : Bool) (f : Ctx → Ctx) : (s.modCtxOf cn hv f).posts = s.posts := rfl
@[simp] theorem State.modCtxOf_crust (s : State) (cn : Nat) (hv : Bool) (f : Ctx → Ctx) : (s.modCtxOf cn hv f).crust = s.crust := rfl
@[simp] theorem State.modCtxOf_reed_at (s : State) (cn : Nat) (hv : Bool) (f : Ctx → Ctx) (i : Nat) : (s.modCtxOf cn hv f).reed i = s.reed i := rfl
@[simp] theorem State.modCtxOf_slice_at (s : State) (cn : Nat) (hv : Bool) (f : Ctx → Ctx) (i : Nat) : (s.modCtxOf cn hv f).slice i = s.slice i := rfl
@[simp] theorem State.modCtxOf_loaf_at (s : State) (cn : Nat) (hv : Bool) (f : Ctx → Ctx) (i : Nat) : (s.modCtxOf cn hv f).loaf i = s.loaf i := rfl
@[simp] theorem State.modCtxOf_launch_at (s : State) (cn : Nat) (hv : Bool) (f : Ctx → Ctx) (i : Nat) : (s.modCtxOf cn hv f).launch i = s.launch i := rfl

/-! ### modCtx -/

@[simp] theorem State.modCtx_cur (s : State) (f : Ctx → Ctx) : (s.modCtx f).cur = s.cur := rfl
@[simp] theorem State.modCtx_agenda (s : State) (f : Ctx → Ctx) : (s.modCtx f).agenda = s.agenda := rfl
@[simp] theorem State.modCtx_now (s : State) (f : Ctx → Ctx) : (s.modCtx f).now = s.now := rfl
@[simp] theorem State.modCtx_time (s : State) (f : Ctx → Ctx) : (s.modCtx f).time = s.time := rfl
@[simp] theorem State.modCtx_slewLeft (s : State) (f : Ctx → Ctx) : (s.modCtx f).slewLeft = s.slewLeft := rfl
@[simp] theorem State.modCtx_slewAcc (s : State) (f : Ctx → Ctx) : (s.modCtx f).slewAcc = s.slewAcc := rfl
@[simp] theorem State.modCtx_fresh (s : State) (f : Ctx → Ctx) : (s.modCtx f).fresh = s.fresh := rfl
@[simp] theorem State.modCtx_ids (s : State) (f : Ctx → Ctx) : (s.modCtx f).ids = s.ids := rfl
@[simp] theorem State.modCtx_reeds (s : State) (f : Ctx → Ctx) : (s.modCtx f).reeds = s.reeds := rfl
@[simp] theorem State.modCtx_slices (s : State) (f : Ctx → Ctx) : (s.modCtx f).slices = s.slices := rfl
@[simp] theorem State.modCtx_loaves (s : State) (f : Ctx → Ctx) : (s.modCtx f).loaves = s.loaves := rfl
@[simp] theorem State.modCtx_links (s : State) (f : Ctx → Ctx) : (s.modCtx f).links = s.links := rfl
@[simp] theorem State.modCtx_hbm (s : State) (f : Ctx → Ctx) : (s.modCtx f).hbm = s.hbm := rfl
@[simp] theorem State.modCtx_net (s : State) (f : Ctx → Ctx) : (s.modCtx f).net = s.net := rfl
@[simp] theorem State.modCtx_streams (s : State) (f : Ctx → Ctx) : (s.modCtx f).streams = s.streams := rfl
@[simp] theorem State.modCtx_bellows (s : State) (f : Ctx → Ctx) : (s.modCtx f).bellows = s.bellows := rfl
@[simp] theorem State.modCtx_launches (s : State) (f : Ctx → Ctx) : (s.modCtx f).launches = s.launches := rfl
@[simp] theorem State.modCtx_lreqs (s : State) (f : Ctx → Ctx) : (s.modCtx f).lreqs = s.lreqs := rfl
@[simp] theorem State.modCtx_posts (s : State) (f : Ctx → Ctx) : (s.modCtx f).posts = s.posts := rfl
@[simp] theorem State.modCtx_crust (s : State) (f : Ctx → Ctx) : (s.modCtx f).crust = s.crust := rfl
@[simp] theorem State.modCtx_reed_at (s : State) (f : Ctx → Ctx) (i : Nat) : (s.modCtx f).reed i = s.reed i := rfl
@[simp] theorem State.modCtx_slice_at (s : State) (f : Ctx → Ctx) (i : Nat) : (s.modCtx f).slice i = s.slice i := rfl
@[simp] theorem State.modCtx_loaf_at (s : State) (f : Ctx → Ctx) (i : Nat) : (s.modCtx f).loaf i = s.loaf i := rfl
@[simp] theorem State.modCtx_launch_at (s : State) (f : Ctx → Ctx) (i : Nat) : (s.modCtx f).launch i = s.launch i := rfl

/-! ### modMe -/

@[simp] theorem State.modMe_cur (s : State) (f : Core → Core) : (s.modMe f).cur = s.cur := rfl
@[simp] theorem State.modMe_agenda (s : State) (f : Core → Core) : (s.modMe f).agenda = s.agenda := rfl
@[simp] theorem State.modMe_now (s : State) (f : Core → Core) : (s.modMe f).now = s.now := rfl
@[simp] theorem State.modMe_time (s : State) (f : Core → Core) : (s.modMe f).time = s.time := rfl
@[simp] theorem State.modMe_slewLeft (s : State) (f : Core → Core) : (s.modMe f).slewLeft = s.slewLeft := rfl
@[simp] theorem State.modMe_slewAcc (s : State) (f : Core → Core) : (s.modMe f).slewAcc = s.slewAcc := rfl
@[simp] theorem State.modMe_fresh (s : State) (f : Core → Core) : (s.modMe f).fresh = s.fresh := rfl
@[simp] theorem State.modMe_ids (s : State) (f : Core → Core) : (s.modMe f).ids = s.ids := rfl
@[simp] theorem State.modMe_reeds (s : State) (f : Core → Core) : (s.modMe f).reeds = s.reeds := rfl
@[simp] theorem State.modMe_slices (s : State) (f : Core → Core) : (s.modMe f).slices = s.slices := rfl
@[simp] theorem State.modMe_loaves (s : State) (f : Core → Core) : (s.modMe f).loaves = s.loaves := rfl
@[simp] theorem State.modMe_links (s : State) (f : Core → Core) : (s.modMe f).links = s.links := rfl
@[simp] theorem State.modMe_hbm (s : State) (f : Core → Core) : (s.modMe f).hbm = s.hbm := rfl
@[simp] theorem State.modMe_net (s : State) (f : Core → Core) : (s.modMe f).net = s.net := rfl
@[simp] theorem State.modMe_streams (s : State) (f : Core → Core) : (s.modMe f).streams = s.streams := rfl
@[simp] theorem State.modMe_bellows (s : State) (f : Core → Core) : (s.modMe f).bellows = s.bellows := rfl
@[simp] theorem State.modMe_launches (s : State) (f : Core → Core) : (s.modMe f).launches = s.launches := rfl
@[simp] theorem State.modMe_lreqs (s : State) (f : Core → Core) : (s.modMe f).lreqs = s.lreqs := rfl
@[simp] theorem State.modMe_posts (s : State) (f : Core → Core) : (s.modMe f).posts = s.posts := rfl
@[simp] theorem State.modMe_crust (s : State) (f : Core → Core) : (s.modMe f).crust = s.crust := rfl
@[simp] theorem State.modMe_reed_at (s : State) (f : Core → Core) (i : Nat) : (s.modMe f).reed i = s.reed i := rfl
@[simp] theorem State.modMe_slice_at (s : State) (f : Core → Core) (i : Nat) : (s.modMe f).slice i = s.slice i := rfl
@[simp] theorem State.modMe_loaf_at (s : State) (f : Core → Core) (i : Nat) : (s.modMe f).loaf i = s.loaf i := rfl
@[simp] theorem State.modMe_launch_at (s : State) (f : Core → Core) (i : Nat) : (s.modMe f).launch i = s.launch i := rfl

/-! ### setReg -/

@[simp] theorem State.setReg_cur (s : State) (r : SReg) (v : Word) : (s.setReg r v).cur = s.cur := rfl
@[simp] theorem State.setReg_agenda (s : State) (r : SReg) (v : Word) : (s.setReg r v).agenda = s.agenda := rfl
@[simp] theorem State.setReg_now (s : State) (r : SReg) (v : Word) : (s.setReg r v).now = s.now := rfl
@[simp] theorem State.setReg_time (s : State) (r : SReg) (v : Word) : (s.setReg r v).time = s.time := rfl
@[simp] theorem State.setReg_slewLeft (s : State) (r : SReg) (v : Word) : (s.setReg r v).slewLeft = s.slewLeft := rfl
@[simp] theorem State.setReg_slewAcc (s : State) (r : SReg) (v : Word) : (s.setReg r v).slewAcc = s.slewAcc := rfl
@[simp] theorem State.setReg_fresh (s : State) (r : SReg) (v : Word) : (s.setReg r v).fresh = s.fresh := rfl
@[simp] theorem State.setReg_ids (s : State) (r : SReg) (v : Word) : (s.setReg r v).ids = s.ids := rfl
@[simp] theorem State.setReg_reeds (s : State) (r : SReg) (v : Word) : (s.setReg r v).reeds = s.reeds := rfl
@[simp] theorem State.setReg_slices (s : State) (r : SReg) (v : Word) : (s.setReg r v).slices = s.slices := rfl
@[simp] theorem State.setReg_loaves (s : State) (r : SReg) (v : Word) : (s.setReg r v).loaves = s.loaves := rfl
@[simp] theorem State.setReg_links (s : State) (r : SReg) (v : Word) : (s.setReg r v).links = s.links := rfl
@[simp] theorem State.setReg_hbm (s : State) (r : SReg) (v : Word) : (s.setReg r v).hbm = s.hbm := rfl
@[simp] theorem State.setReg_net (s : State) (r : SReg) (v : Word) : (s.setReg r v).net = s.net := rfl
@[simp] theorem State.setReg_streams (s : State) (r : SReg) (v : Word) : (s.setReg r v).streams = s.streams := rfl
@[simp] theorem State.setReg_bellows (s : State) (r : SReg) (v : Word) : (s.setReg r v).bellows = s.bellows := rfl
@[simp] theorem State.setReg_launches (s : State) (r : SReg) (v : Word) : (s.setReg r v).launches = s.launches := rfl
@[simp] theorem State.setReg_lreqs (s : State) (r : SReg) (v : Word) : (s.setReg r v).lreqs = s.lreqs := rfl
@[simp] theorem State.setReg_posts (s : State) (r : SReg) (v : Word) : (s.setReg r v).posts = s.posts := rfl
@[simp] theorem State.setReg_crust (s : State) (r : SReg) (v : Word) : (s.setReg r v).crust = s.crust := rfl
@[simp] theorem State.setReg_reed_at (s : State) (r : SReg) (v : Word) (i : Nat) : (s.setReg r v).reed i = s.reed i := rfl
@[simp] theorem State.setReg_slice_at (s : State) (r : SReg) (v : Word) (i : Nat) : (s.setReg r v).slice i = s.slice i := rfl
@[simp] theorem State.setReg_loaf_at (s : State) (r : SReg) (v : Word) (i : Nat) : (s.setReg r v).loaf i = s.loaf i := rfl
@[simp] theorem State.setReg_launch_at (s : State) (r : SReg) (v : Word) (i : Nat) : (s.setReg r v).launch i = s.launch i := rfl

/-! ### clearReg -/

@[simp] theorem State.clearReg_cur (s : State) (r : SReg) : (s.clearReg r).cur = s.cur := rfl
@[simp] theorem State.clearReg_agenda (s : State) (r : SReg) : (s.clearReg r).agenda = s.agenda := rfl
@[simp] theorem State.clearReg_now (s : State) (r : SReg) : (s.clearReg r).now = s.now := rfl
@[simp] theorem State.clearReg_time (s : State) (r : SReg) : (s.clearReg r).time = s.time := rfl
@[simp] theorem State.clearReg_slewLeft (s : State) (r : SReg) : (s.clearReg r).slewLeft = s.slewLeft := rfl
@[simp] theorem State.clearReg_slewAcc (s : State) (r : SReg) : (s.clearReg r).slewAcc = s.slewAcc := rfl
@[simp] theorem State.clearReg_fresh (s : State) (r : SReg) : (s.clearReg r).fresh = s.fresh := rfl
@[simp] theorem State.clearReg_ids (s : State) (r : SReg) : (s.clearReg r).ids = s.ids := rfl
@[simp] theorem State.clearReg_reeds (s : State) (r : SReg) : (s.clearReg r).reeds = s.reeds := rfl
@[simp] theorem State.clearReg_slices (s : State) (r : SReg) : (s.clearReg r).slices = s.slices := rfl
@[simp] theorem State.clearReg_loaves (s : State) (r : SReg) : (s.clearReg r).loaves = s.loaves := rfl
@[simp] theorem State.clearReg_links (s : State) (r : SReg) : (s.clearReg r).links = s.links := rfl
@[simp] theorem State.clearReg_hbm (s : State) (r : SReg) : (s.clearReg r).hbm = s.hbm := rfl
@[simp] theorem State.clearReg_net (s : State) (r : SReg) : (s.clearReg r).net = s.net := rfl
@[simp] theorem State.clearReg_streams (s : State) (r : SReg) : (s.clearReg r).streams = s.streams := rfl
@[simp] theorem State.clearReg_bellows (s : State) (r : SReg) : (s.clearReg r).bellows = s.bellows := rfl
@[simp] theorem State.clearReg_launches (s : State) (r : SReg) : (s.clearReg r).launches = s.launches := rfl
@[simp] theorem State.clearReg_lreqs (s : State) (r : SReg) : (s.clearReg r).lreqs = s.lreqs := rfl
@[simp] theorem State.clearReg_posts (s : State) (r : SReg) : (s.clearReg r).posts = s.posts := rfl
@[simp] theorem State.clearReg_crust (s : State) (r : SReg) : (s.clearReg r).crust = s.crust := rfl
@[simp] theorem State.clearReg_reed_at (s : State) (r : SReg) (i : Nat) : (s.clearReg r).reed i = s.reed i := rfl
@[simp] theorem State.clearReg_slice_at (s : State) (r : SReg) (i : Nat) : (s.clearReg r).slice i = s.slice i := rfl
@[simp] theorem State.clearReg_loaf_at (s : State) (r : SReg) (i : Nat) : (s.clearReg r).loaf i = s.loaf i := rfl
@[simp] theorem State.clearReg_launch_at (s : State) (r : SReg) (i : Nat) : (s.clearReg r).launch i = s.launch i := rfl

/-! ### setRow -/

@[simp] theorem State.setRow_cur (s : State) (v : VReg) (b : RowBits) : (s.setRow v b).cur = s.cur := rfl
@[simp] theorem State.setRow_agenda (s : State) (v : VReg) (b : RowBits) : (s.setRow v b).agenda = s.agenda := rfl
@[simp] theorem State.setRow_now (s : State) (v : VReg) (b : RowBits) : (s.setRow v b).now = s.now := rfl
@[simp] theorem State.setRow_time (s : State) (v : VReg) (b : RowBits) : (s.setRow v b).time = s.time := rfl
@[simp] theorem State.setRow_slewLeft (s : State) (v : VReg) (b : RowBits) : (s.setRow v b).slewLeft = s.slewLeft := rfl
@[simp] theorem State.setRow_slewAcc (s : State) (v : VReg) (b : RowBits) : (s.setRow v b).slewAcc = s.slewAcc := rfl
@[simp] theorem State.setRow_fresh (s : State) (v : VReg) (b : RowBits) : (s.setRow v b).fresh = s.fresh := rfl
@[simp] theorem State.setRow_ids (s : State) (v : VReg) (b : RowBits) : (s.setRow v b).ids = s.ids := rfl
@[simp] theorem State.setRow_reeds (s : State) (v : VReg) (b : RowBits) : (s.setRow v b).reeds = s.reeds := rfl
@[simp] theorem State.setRow_slices (s : State) (v : VReg) (b : RowBits) : (s.setRow v b).slices = s.slices := rfl
@[simp] theorem State.setRow_loaves (s : State) (v : VReg) (b : RowBits) : (s.setRow v b).loaves = s.loaves := rfl
@[simp] theorem State.setRow_links (s : State) (v : VReg) (b : RowBits) : (s.setRow v b).links = s.links := rfl
@[simp] theorem State.setRow_hbm (s : State) (v : VReg) (b : RowBits) : (s.setRow v b).hbm = s.hbm := rfl
@[simp] theorem State.setRow_net (s : State) (v : VReg) (b : RowBits) : (s.setRow v b).net = s.net := rfl
@[simp] theorem State.setRow_streams (s : State) (v : VReg) (b : RowBits) : (s.setRow v b).streams = s.streams := rfl
@[simp] theorem State.setRow_bellows (s : State) (v : VReg) (b : RowBits) : (s.setRow v b).bellows = s.bellows := rfl
@[simp] theorem State.setRow_launches (s : State) (v : VReg) (b : RowBits) : (s.setRow v b).launches = s.launches := rfl
@[simp] theorem State.setRow_lreqs (s : State) (v : VReg) (b : RowBits) : (s.setRow v b).lreqs = s.lreqs := rfl
@[simp] theorem State.setRow_posts (s : State) (v : VReg) (b : RowBits) : (s.setRow v b).posts = s.posts := rfl
@[simp] theorem State.setRow_crust (s : State) (v : VReg) (b : RowBits) : (s.setRow v b).crust = s.crust := rfl
@[simp] theorem State.setRow_reed_at (s : State) (v : VReg) (b : RowBits) (i : Nat) : (s.setRow v b).reed i = s.reed i := rfl
@[simp] theorem State.setRow_slice_at (s : State) (v : VReg) (b : RowBits) (i : Nat) : (s.setRow v b).slice i = s.slice i := rfl
@[simp] theorem State.setRow_loaf_at (s : State) (v : VReg) (b : RowBits) (i : Nat) : (s.setRow v b).loaf i = s.loaf i := rfl
@[simp] theorem State.setRow_launch_at (s : State) (v : VReg) (b : RowBits) (i : Nat) : (s.setRow v b).launch i = s.launch i := rfl

/-! ### clearRow -/

@[simp] theorem State.clearRow_cur (s : State) (v : VReg) : (s.clearRow v).cur = s.cur := rfl
@[simp] theorem State.clearRow_agenda (s : State) (v : VReg) : (s.clearRow v).agenda = s.agenda := rfl
@[simp] theorem State.clearRow_now (s : State) (v : VReg) : (s.clearRow v).now = s.now := rfl
@[simp] theorem State.clearRow_time (s : State) (v : VReg) : (s.clearRow v).time = s.time := rfl
@[simp] theorem State.clearRow_slewLeft (s : State) (v : VReg) : (s.clearRow v).slewLeft = s.slewLeft := rfl
@[simp] theorem State.clearRow_slewAcc (s : State) (v : VReg) : (s.clearRow v).slewAcc = s.slewAcc := rfl
@[simp] theorem State.clearRow_fresh (s : State) (v : VReg) : (s.clearRow v).fresh = s.fresh := rfl
@[simp] theorem State.clearRow_ids (s : State) (v : VReg) : (s.clearRow v).ids = s.ids := rfl
@[simp] theorem State.clearRow_reeds (s : State) (v : VReg) : (s.clearRow v).reeds = s.reeds := rfl
@[simp] theorem State.clearRow_slices (s : State) (v : VReg) : (s.clearRow v).slices = s.slices := rfl
@[simp] theorem State.clearRow_loaves (s : State) (v : VReg) : (s.clearRow v).loaves = s.loaves := rfl
@[simp] theorem State.clearRow_links (s : State) (v : VReg) : (s.clearRow v).links = s.links := rfl
@[simp] theorem State.clearRow_hbm (s : State) (v : VReg) : (s.clearRow v).hbm = s.hbm := rfl
@[simp] theorem State.clearRow_net (s : State) (v : VReg) : (s.clearRow v).net = s.net := rfl
@[simp] theorem State.clearRow_streams (s : State) (v : VReg) : (s.clearRow v).streams = s.streams := rfl
@[simp] theorem State.clearRow_bellows (s : State) (v : VReg) : (s.clearRow v).bellows = s.bellows := rfl
@[simp] theorem State.clearRow_launches (s : State) (v : VReg) : (s.clearRow v).launches = s.launches := rfl
@[simp] theorem State.clearRow_lreqs (s : State) (v : VReg) : (s.clearRow v).lreqs = s.lreqs := rfl
@[simp] theorem State.clearRow_posts (s : State) (v : VReg) : (s.clearRow v).posts = s.posts := rfl
@[simp] theorem State.clearRow_crust (s : State) (v : VReg) : (s.clearRow v).crust = s.crust := rfl
@[simp] theorem State.clearRow_reed_at (s : State) (v : VReg) (i : Nat) : (s.clearRow v).reed i = s.reed i := rfl
@[simp] theorem State.clearRow_slice_at (s : State) (v : VReg) (i : Nat) : (s.clearRow v).slice i = s.slice i := rfl
@[simp] theorem State.clearRow_loaf_at (s : State) (v : VReg) (i : Nat) : (s.clearRow v).loaf i = s.loaf i := rfl
@[simp] theorem State.clearRow_launch_at (s : State) (v : VReg) (i : Nat) : (s.clearRow v).launch i = s.launch i := rfl

/-! ### advance -/

@[simp] theorem State.advance_cur (s : State) (n : Nat) : (s.advance n).cur = s.cur := rfl
@[simp] theorem State.advance_agenda (s : State) (n : Nat) : (s.advance n).agenda = s.agenda := rfl
@[simp] theorem State.advance_now (s : State) (n : Nat) : (s.advance n).now = s.now := rfl
@[simp] theorem State.advance_time (s : State) (n : Nat) : (s.advance n).time = s.time := rfl
@[simp] theorem State.advance_slewLeft (s : State) (n : Nat) : (s.advance n).slewLeft = s.slewLeft := rfl
@[simp] theorem State.advance_slewAcc (s : State) (n : Nat) : (s.advance n).slewAcc = s.slewAcc := rfl
@[simp] theorem State.advance_fresh (s : State) (n : Nat) : (s.advance n).fresh = s.fresh := rfl
@[simp] theorem State.advance_ids (s : State) (n : Nat) : (s.advance n).ids = s.ids := rfl
@[simp] theorem State.advance_reeds (s : State) (n : Nat) : (s.advance n).reeds = s.reeds := rfl
@[simp] theorem State.advance_slices (s : State) (n : Nat) : (s.advance n).slices = s.slices := rfl
@[simp] theorem State.advance_loaves (s : State) (n : Nat) : (s.advance n).loaves = s.loaves := rfl
@[simp] theorem State.advance_links (s : State) (n : Nat) : (s.advance n).links = s.links := rfl
@[simp] theorem State.advance_hbm (s : State) (n : Nat) : (s.advance n).hbm = s.hbm := rfl
@[simp] theorem State.advance_net (s : State) (n : Nat) : (s.advance n).net = s.net := rfl
@[simp] theorem State.advance_streams (s : State) (n : Nat) : (s.advance n).streams = s.streams := rfl
@[simp] theorem State.advance_bellows (s : State) (n : Nat) : (s.advance n).bellows = s.bellows := rfl
@[simp] theorem State.advance_launches (s : State) (n : Nat) : (s.advance n).launches = s.launches := rfl
@[simp] theorem State.advance_lreqs (s : State) (n : Nat) : (s.advance n).lreqs = s.lreqs := rfl
@[simp] theorem State.advance_posts (s : State) (n : Nat) : (s.advance n).posts = s.posts := rfl
@[simp] theorem State.advance_crust (s : State) (n : Nat) : (s.advance n).crust = s.crust := rfl
@[simp] theorem State.advance_reed_at (s : State) (n : Nat) (i : Nat) : (s.advance n).reed i = s.reed i := rfl
@[simp] theorem State.advance_slice_at (s : State) (n : Nat) (i : Nat) : (s.advance n).slice i = s.slice i := rfl
@[simp] theorem State.advance_loaf_at (s : State) (n : Nat) (i : Nat) : (s.advance n).loaf i = s.loaf i := rfl
@[simp] theorem State.advance_launch_at (s : State) (n : Nat) (i : Nat) : (s.advance n).launch i = s.launch i := rfl

/-! ### jump -/

@[simp] theorem State.jump_cur (s : State) (a : Word) : (s.jump a).cur = s.cur := rfl
@[simp] theorem State.jump_agenda (s : State) (a : Word) : (s.jump a).agenda = s.agenda := rfl
@[simp] theorem State.jump_now (s : State) (a : Word) : (s.jump a).now = s.now := rfl
@[simp] theorem State.jump_time (s : State) (a : Word) : (s.jump a).time = s.time := rfl
@[simp] theorem State.jump_slewLeft (s : State) (a : Word) : (s.jump a).slewLeft = s.slewLeft := rfl
@[simp] theorem State.jump_slewAcc (s : State) (a : Word) : (s.jump a).slewAcc = s.slewAcc := rfl
@[simp] theorem State.jump_fresh (s : State) (a : Word) : (s.jump a).fresh = s.fresh := rfl
@[simp] theorem State.jump_ids (s : State) (a : Word) : (s.jump a).ids = s.ids := rfl
@[simp] theorem State.jump_reeds (s : State) (a : Word) : (s.jump a).reeds = s.reeds := rfl
@[simp] theorem State.jump_slices (s : State) (a : Word) : (s.jump a).slices = s.slices := rfl
@[simp] theorem State.jump_loaves (s : State) (a : Word) : (s.jump a).loaves = s.loaves := rfl
@[simp] theorem State.jump_links (s : State) (a : Word) : (s.jump a).links = s.links := rfl
@[simp] theorem State.jump_hbm (s : State) (a : Word) : (s.jump a).hbm = s.hbm := rfl
@[simp] theorem State.jump_net (s : State) (a : Word) : (s.jump a).net = s.net := rfl
@[simp] theorem State.jump_streams (s : State) (a : Word) : (s.jump a).streams = s.streams := rfl
@[simp] theorem State.jump_bellows (s : State) (a : Word) : (s.jump a).bellows = s.bellows := rfl
@[simp] theorem State.jump_launches (s : State) (a : Word) : (s.jump a).launches = s.launches := rfl
@[simp] theorem State.jump_lreqs (s : State) (a : Word) : (s.jump a).lreqs = s.lreqs := rfl
@[simp] theorem State.jump_posts (s : State) (a : Word) : (s.jump a).posts = s.posts := rfl
@[simp] theorem State.jump_crust (s : State) (a : Word) : (s.jump a).crust = s.crust := rfl
@[simp] theorem State.jump_reed_at (s : State) (a : Word) (i : Nat) : (s.jump a).reed i = s.reed i := rfl
@[simp] theorem State.jump_slice_at (s : State) (a : Word) (i : Nat) : (s.jump a).slice i = s.slice i := rfl
@[simp] theorem State.jump_loaf_at (s : State) (a : Word) (i : Nat) : (s.jump a).loaf i = s.loaf i := rfl
@[simp] theorem State.jump_launch_at (s : State) (a : Word) (i : Nat) : (s.jump a).launch i = s.launch i := rfl

/-! ### stalled -/

@[simp] theorem State.stalled_cur (s : State) (k : Option Nat) : (s.stalled k).cur = s.cur := rfl
@[simp] theorem State.stalled_agenda (s : State) (k : Option Nat) : (s.stalled k).agenda = s.agenda := rfl
@[simp] theorem State.stalled_now (s : State) (k : Option Nat) : (s.stalled k).now = s.now := rfl
@[simp] theorem State.stalled_time (s : State) (k : Option Nat) : (s.stalled k).time = s.time := rfl
@[simp] theorem State.stalled_slewLeft (s : State) (k : Option Nat) : (s.stalled k).slewLeft = s.slewLeft := rfl
@[simp] theorem State.stalled_slewAcc (s : State) (k : Option Nat) : (s.stalled k).slewAcc = s.slewAcc := rfl
@[simp] theorem State.stalled_fresh (s : State) (k : Option Nat) : (s.stalled k).fresh = s.fresh := rfl
@[simp] theorem State.stalled_ids (s : State) (k : Option Nat) : (s.stalled k).ids = s.ids := rfl
@[simp] theorem State.stalled_reeds (s : State) (k : Option Nat) : (s.stalled k).reeds = s.reeds := rfl
@[simp] theorem State.stalled_slices (s : State) (k : Option Nat) : (s.stalled k).slices = s.slices := rfl
@[simp] theorem State.stalled_loaves (s : State) (k : Option Nat) : (s.stalled k).loaves = s.loaves := rfl
@[simp] theorem State.stalled_links (s : State) (k : Option Nat) : (s.stalled k).links = s.links := rfl
@[simp] theorem State.stalled_hbm (s : State) (k : Option Nat) : (s.stalled k).hbm = s.hbm := rfl
@[simp] theorem State.stalled_net (s : State) (k : Option Nat) : (s.stalled k).net = s.net := rfl
@[simp] theorem State.stalled_streams (s : State) (k : Option Nat) : (s.stalled k).streams = s.streams := rfl
@[simp] theorem State.stalled_bellows (s : State) (k : Option Nat) : (s.stalled k).bellows = s.bellows := rfl
@[simp] theorem State.stalled_launches (s : State) (k : Option Nat) : (s.stalled k).launches = s.launches := rfl
@[simp] theorem State.stalled_lreqs (s : State) (k : Option Nat) : (s.stalled k).lreqs = s.lreqs := rfl
@[simp] theorem State.stalled_posts (s : State) (k : Option Nat) : (s.stalled k).posts = s.posts := rfl
@[simp] theorem State.stalled_crust (s : State) (k : Option Nat) : (s.stalled k).crust = s.crust := rfl
@[simp] theorem State.stalled_reed_at (s : State) (k : Option Nat) (i : Nat) : (s.stalled k).reed i = s.reed i := rfl
@[simp] theorem State.stalled_slice_at (s : State) (k : Option Nat) (i : Nat) : (s.stalled k).slice i = s.slice i := rfl
@[simp] theorem State.stalled_loaf_at (s : State) (k : Option Nat) (i : Nat) : (s.stalled k).loaf i = s.loaf i := rfl
@[simp] theorem State.stalled_launch_at (s : State) (k : Option Nat) (i : Nat) : (s.stalled k).launch i = s.launch i := rfl

/-! ### ran -/

@[simp] theorem State.ran_cur (s : State)  : (s.ran).cur = s.cur := rfl
@[simp] theorem State.ran_agenda (s : State)  : (s.ran).agenda = s.agenda := rfl
@[simp] theorem State.ran_now (s : State)  : (s.ran).now = s.now := rfl
@[simp] theorem State.ran_time (s : State)  : (s.ran).time = s.time := rfl
@[simp] theorem State.ran_slewLeft (s : State)  : (s.ran).slewLeft = s.slewLeft := rfl
@[simp] theorem State.ran_slewAcc (s : State)  : (s.ran).slewAcc = s.slewAcc := rfl
@[simp] theorem State.ran_fresh (s : State)  : (s.ran).fresh = s.fresh := rfl
@[simp] theorem State.ran_ids (s : State)  : (s.ran).ids = s.ids := rfl
@[simp] theorem State.ran_reeds (s : State)  : (s.ran).reeds = s.reeds := rfl
@[simp] theorem State.ran_slices (s : State)  : (s.ran).slices = s.slices := rfl
@[simp] theorem State.ran_loaves (s : State)  : (s.ran).loaves = s.loaves := rfl
@[simp] theorem State.ran_links (s : State)  : (s.ran).links = s.links := rfl
@[simp] theorem State.ran_hbm (s : State)  : (s.ran).hbm = s.hbm := rfl
@[simp] theorem State.ran_net (s : State)  : (s.ran).net = s.net := rfl
@[simp] theorem State.ran_streams (s : State)  : (s.ran).streams = s.streams := rfl
@[simp] theorem State.ran_bellows (s : State)  : (s.ran).bellows = s.bellows := rfl
@[simp] theorem State.ran_launches (s : State)  : (s.ran).launches = s.launches := rfl
@[simp] theorem State.ran_lreqs (s : State)  : (s.ran).lreqs = s.lreqs := rfl
@[simp] theorem State.ran_posts (s : State)  : (s.ran).posts = s.posts := rfl
@[simp] theorem State.ran_crust (s : State)  : (s.ran).crust = s.crust := rfl
@[simp] theorem State.ran_reed_at (s : State)  (i : Nat) : (s.ran).reed i = s.reed i := rfl
@[simp] theorem State.ran_slice_at (s : State)  (i : Nat) : (s.ran).slice i = s.slice i := rfl
@[simp] theorem State.ran_loaf_at (s : State)  (i : Nat) : (s.ran).loaf i = s.loaf i := rfl
@[simp] theorem State.ran_launch_at (s : State)  (i : Nat) : (s.ran).launch i = s.launch i := rfl

/-! ### raise -/

@[simp] theorem State.raise_cur (s : State) (e : BitVec 6) : (s.raise e).cur = s.cur := rfl
@[simp] theorem State.raise_agenda (s : State) (e : BitVec 6) : (s.raise e).agenda = s.agenda := rfl
@[simp] theorem State.raise_now (s : State) (e : BitVec 6) : (s.raise e).now = s.now := rfl
@[simp] theorem State.raise_time (s : State) (e : BitVec 6) : (s.raise e).time = s.time := rfl
@[simp] theorem State.raise_slewLeft (s : State) (e : BitVec 6) : (s.raise e).slewLeft = s.slewLeft := rfl
@[simp] theorem State.raise_slewAcc (s : State) (e : BitVec 6) : (s.raise e).slewAcc = s.slewAcc := rfl
@[simp] theorem State.raise_fresh (s : State) (e : BitVec 6) : (s.raise e).fresh = s.fresh := rfl
@[simp] theorem State.raise_ids (s : State) (e : BitVec 6) : (s.raise e).ids = s.ids := rfl
@[simp] theorem State.raise_reeds (s : State) (e : BitVec 6) : (s.raise e).reeds = s.reeds := rfl
@[simp] theorem State.raise_slices (s : State) (e : BitVec 6) : (s.raise e).slices = s.slices := rfl
@[simp] theorem State.raise_loaves (s : State) (e : BitVec 6) : (s.raise e).loaves = s.loaves := rfl
@[simp] theorem State.raise_links (s : State) (e : BitVec 6) : (s.raise e).links = s.links := rfl
@[simp] theorem State.raise_hbm (s : State) (e : BitVec 6) : (s.raise e).hbm = s.hbm := rfl
@[simp] theorem State.raise_net (s : State) (e : BitVec 6) : (s.raise e).net = s.net := rfl
@[simp] theorem State.raise_streams (s : State) (e : BitVec 6) : (s.raise e).streams = s.streams := rfl
@[simp] theorem State.raise_bellows (s : State) (e : BitVec 6) : (s.raise e).bellows = s.bellows := rfl
@[simp] theorem State.raise_launches (s : State) (e : BitVec 6) : (s.raise e).launches = s.launches := rfl
@[simp] theorem State.raise_lreqs (s : State) (e : BitVec 6) : (s.raise e).lreqs = s.lreqs := rfl
@[simp] theorem State.raise_posts (s : State) (e : BitVec 6) : (s.raise e).posts = s.posts := rfl
@[simp] theorem State.raise_crust (s : State) (e : BitVec 6) : (s.raise e).crust = s.crust := rfl
@[simp] theorem State.raise_reed_at (s : State) (e : BitVec 6) (i : Nat) : (s.raise e).reed i = s.reed i := rfl
@[simp] theorem State.raise_slice_at (s : State) (e : BitVec 6) (i : Nat) : (s.raise e).slice i = s.slice i := rfl
@[simp] theorem State.raise_loaf_at (s : State) (e : BitVec 6) (i : Nat) : (s.raise e).loaf i = s.loaf i := rfl
@[simp] theorem State.raise_launch_at (s : State) (e : BitVec 6) (i : Nat) : (s.raise e).launch i = s.launch i := rfl

/-! ### modReed -/

@[simp] theorem State.modReed_cur (s : State) (r : Nat) (f : Reed → Reed) : (s.modReed r f).cur = s.cur := rfl
@[simp] theorem State.modReed_agenda (s : State) (r : Nat) (f : Reed → Reed) : (s.modReed r f).agenda = s.agenda := rfl
@[simp] theorem State.modReed_now (s : State) (r : Nat) (f : Reed → Reed) : (s.modReed r f).now = s.now := rfl
@[simp] theorem State.modReed_time (s : State) (r : Nat) (f : Reed → Reed) : (s.modReed r f).time = s.time := rfl
@[simp] theorem State.modReed_slewLeft (s : State) (r : Nat) (f : Reed → Reed) : (s.modReed r f).slewLeft = s.slewLeft := rfl
@[simp] theorem State.modReed_slewAcc (s : State) (r : Nat) (f : Reed → Reed) : (s.modReed r f).slewAcc = s.slewAcc := rfl
@[simp] theorem State.modReed_fresh (s : State) (r : Nat) (f : Reed → Reed) : (s.modReed r f).fresh = s.fresh := rfl
@[simp] theorem State.modReed_ids (s : State) (r : Nat) (f : Reed → Reed) : (s.modReed r f).ids = s.ids := rfl
@[simp] theorem State.modReed_cores (s : State) (r : Nat) (f : Reed → Reed) : (s.modReed r f).cores = s.cores := rfl
@[simp] theorem State.modReed_slices (s : State) (r : Nat) (f : Reed → Reed) : (s.modReed r f).slices = s.slices := rfl
@[simp] theorem State.modReed_loaves (s : State) (r : Nat) (f : Reed → Reed) : (s.modReed r f).loaves = s.loaves := rfl
@[simp] theorem State.modReed_links (s : State) (r : Nat) (f : Reed → Reed) : (s.modReed r f).links = s.links := rfl
@[simp] theorem State.modReed_hbm (s : State) (r : Nat) (f : Reed → Reed) : (s.modReed r f).hbm = s.hbm := rfl
@[simp] theorem State.modReed_net (s : State) (r : Nat) (f : Reed → Reed) : (s.modReed r f).net = s.net := rfl
@[simp] theorem State.modReed_streams (s : State) (r : Nat) (f : Reed → Reed) : (s.modReed r f).streams = s.streams := rfl
@[simp] theorem State.modReed_bellows (s : State) (r : Nat) (f : Reed → Reed) : (s.modReed r f).bellows = s.bellows := rfl
@[simp] theorem State.modReed_launches (s : State) (r : Nat) (f : Reed → Reed) : (s.modReed r f).launches = s.launches := rfl
@[simp] theorem State.modReed_lreqs (s : State) (r : Nat) (f : Reed → Reed) : (s.modReed r f).lreqs = s.lreqs := rfl
@[simp] theorem State.modReed_posts (s : State) (r : Nat) (f : Reed → Reed) : (s.modReed r f).posts = s.posts := rfl
@[simp] theorem State.modReed_crust (s : State) (r : Nat) (f : Reed → Reed) : (s.modReed r f).crust = s.crust := rfl
@[simp] theorem State.modReed_core (s : State) (r : Nat) (f : Reed → Reed) (i : Nat) : (s.modReed r f).core i = s.core i := rfl
@[simp] theorem State.modReed_ctxOf (s : State) (r : Nat) (f : Reed → Reed) (i : Nat) (h : Bool) : (s.modReed r f).ctxOf i h = s.ctxOf i h := rfl
@[simp] theorem State.modReed_ctx (s : State) (r : Nat) (f : Reed → Reed) : (s.modReed r f).ctx = s.ctx := rfl
@[simp] theorem State.modReed_me (s : State) (r : Nat) (f : Reed → Reed) : (s.modReed r f).me = s.me := rfl
@[simp] theorem State.modReed_slice_at (s : State) (r : Nat) (f : Reed → Reed) (i : Nat) : (s.modReed r f).slice i = s.slice i := rfl
@[simp] theorem State.modReed_loaf_at (s : State) (r : Nat) (f : Reed → Reed) (i : Nat) : (s.modReed r f).loaf i = s.loaf i := rfl
@[simp] theorem State.modReed_launch_at (s : State) (r : Nat) (f : Reed → Reed) (i : Nat) : (s.modReed r f).launch i = s.launch i := rfl

/-! ### modSlice -/

@[simp] theorem State.modSlice_cur (s : State) (n : Nat) (f : Slice → Slice) : (s.modSlice n f).cur = s.cur := rfl
@[simp] theorem State.modSlice_agenda (s : State) (n : Nat) (f : Slice → Slice) : (s.modSlice n f).agenda = s.agenda := rfl
@[simp] theorem State.modSlice_now (s : State) (n : Nat) (f : Slice → Slice) : (s.modSlice n f).now = s.now := rfl
@[simp] theorem State.modSlice_time (s : State) (n : Nat) (f : Slice → Slice) : (s.modSlice n f).time = s.time := rfl
@[simp] theorem State.modSlice_slewLeft (s : State) (n : Nat) (f : Slice → Slice) : (s.modSlice n f).slewLeft = s.slewLeft := rfl
@[simp] theorem State.modSlice_slewAcc (s : State) (n : Nat) (f : Slice → Slice) : (s.modSlice n f).slewAcc = s.slewAcc := rfl
@[simp] theorem State.modSlice_fresh (s : State) (n : Nat) (f : Slice → Slice) : (s.modSlice n f).fresh = s.fresh := rfl
@[simp] theorem State.modSlice_ids (s : State) (n : Nat) (f : Slice → Slice) : (s.modSlice n f).ids = s.ids := rfl
@[simp] theorem State.modSlice_cores (s : State) (n : Nat) (f : Slice → Slice) : (s.modSlice n f).cores = s.cores := rfl
@[simp] theorem State.modSlice_reeds (s : State) (n : Nat) (f : Slice → Slice) : (s.modSlice n f).reeds = s.reeds := rfl
@[simp] theorem State.modSlice_loaves (s : State) (n : Nat) (f : Slice → Slice) : (s.modSlice n f).loaves = s.loaves := rfl
@[simp] theorem State.modSlice_links (s : State) (n : Nat) (f : Slice → Slice) : (s.modSlice n f).links = s.links := rfl
@[simp] theorem State.modSlice_hbm (s : State) (n : Nat) (f : Slice → Slice) : (s.modSlice n f).hbm = s.hbm := rfl
@[simp] theorem State.modSlice_net (s : State) (n : Nat) (f : Slice → Slice) : (s.modSlice n f).net = s.net := rfl
@[simp] theorem State.modSlice_streams (s : State) (n : Nat) (f : Slice → Slice) : (s.modSlice n f).streams = s.streams := rfl
@[simp] theorem State.modSlice_bellows (s : State) (n : Nat) (f : Slice → Slice) : (s.modSlice n f).bellows = s.bellows := rfl
@[simp] theorem State.modSlice_launches (s : State) (n : Nat) (f : Slice → Slice) : (s.modSlice n f).launches = s.launches := rfl
@[simp] theorem State.modSlice_lreqs (s : State) (n : Nat) (f : Slice → Slice) : (s.modSlice n f).lreqs = s.lreqs := rfl
@[simp] theorem State.modSlice_posts (s : State) (n : Nat) (f : Slice → Slice) : (s.modSlice n f).posts = s.posts := rfl
@[simp] theorem State.modSlice_crust (s : State) (n : Nat) (f : Slice → Slice) : (s.modSlice n f).crust = s.crust := rfl
@[simp] theorem State.modSlice_core (s : State) (n : Nat) (f : Slice → Slice) (i : Nat) : (s.modSlice n f).core i = s.core i := rfl
@[simp] theorem State.modSlice_ctxOf (s : State) (n : Nat) (f : Slice → Slice) (i : Nat) (h : Bool) : (s.modSlice n f).ctxOf i h = s.ctxOf i h := rfl
@[simp] theorem State.modSlice_ctx (s : State) (n : Nat) (f : Slice → Slice) : (s.modSlice n f).ctx = s.ctx := rfl
@[simp] theorem State.modSlice_me (s : State) (n : Nat) (f : Slice → Slice) : (s.modSlice n f).me = s.me := rfl
@[simp] theorem State.modSlice_reed_at (s : State) (n : Nat) (f : Slice → Slice) (i : Nat) : (s.modSlice n f).reed i = s.reed i := rfl
@[simp] theorem State.modSlice_loaf_at (s : State) (n : Nat) (f : Slice → Slice) (i : Nat) : (s.modSlice n f).loaf i = s.loaf i := rfl
@[simp] theorem State.modSlice_launch_at (s : State) (n : Nat) (f : Slice → Slice) (i : Nat) : (s.modSlice n f).launch i = s.launch i := rfl

/-! ### modLoaf -/

@[simp] theorem State.modLoaf_cur (s : State) (n : Nat) (f : Loaf → Loaf) : (s.modLoaf n f).cur = s.cur := rfl
@[simp] theorem State.modLoaf_agenda (s : State) (n : Nat) (f : Loaf → Loaf) : (s.modLoaf n f).agenda = s.agenda := rfl
@[simp] theorem State.modLoaf_now (s : State) (n : Nat) (f : Loaf → Loaf) : (s.modLoaf n f).now = s.now := rfl
@[simp] theorem State.modLoaf_time (s : State) (n : Nat) (f : Loaf → Loaf) : (s.modLoaf n f).time = s.time := rfl
@[simp] theorem State.modLoaf_slewLeft (s : State) (n : Nat) (f : Loaf → Loaf) : (s.modLoaf n f).slewLeft = s.slewLeft := rfl
@[simp] theorem State.modLoaf_slewAcc (s : State) (n : Nat) (f : Loaf → Loaf) : (s.modLoaf n f).slewAcc = s.slewAcc := rfl
@[simp] theorem State.modLoaf_fresh (s : State) (n : Nat) (f : Loaf → Loaf) : (s.modLoaf n f).fresh = s.fresh := rfl
@[simp] theorem State.modLoaf_ids (s : State) (n : Nat) (f : Loaf → Loaf) : (s.modLoaf n f).ids = s.ids := rfl
@[simp] theorem State.modLoaf_cores (s : State) (n : Nat) (f : Loaf → Loaf) : (s.modLoaf n f).cores = s.cores := rfl
@[simp] theorem State.modLoaf_reeds (s : State) (n : Nat) (f : Loaf → Loaf) : (s.modLoaf n f).reeds = s.reeds := rfl
@[simp] theorem State.modLoaf_slices (s : State) (n : Nat) (f : Loaf → Loaf) : (s.modLoaf n f).slices = s.slices := rfl
@[simp] theorem State.modLoaf_links (s : State) (n : Nat) (f : Loaf → Loaf) : (s.modLoaf n f).links = s.links := rfl
@[simp] theorem State.modLoaf_hbm (s : State) (n : Nat) (f : Loaf → Loaf) : (s.modLoaf n f).hbm = s.hbm := rfl
@[simp] theorem State.modLoaf_net (s : State) (n : Nat) (f : Loaf → Loaf) : (s.modLoaf n f).net = s.net := rfl
@[simp] theorem State.modLoaf_streams (s : State) (n : Nat) (f : Loaf → Loaf) : (s.modLoaf n f).streams = s.streams := rfl
@[simp] theorem State.modLoaf_bellows (s : State) (n : Nat) (f : Loaf → Loaf) : (s.modLoaf n f).bellows = s.bellows := rfl
@[simp] theorem State.modLoaf_launches (s : State) (n : Nat) (f : Loaf → Loaf) : (s.modLoaf n f).launches = s.launches := rfl
@[simp] theorem State.modLoaf_lreqs (s : State) (n : Nat) (f : Loaf → Loaf) : (s.modLoaf n f).lreqs = s.lreqs := rfl
@[simp] theorem State.modLoaf_posts (s : State) (n : Nat) (f : Loaf → Loaf) : (s.modLoaf n f).posts = s.posts := rfl
@[simp] theorem State.modLoaf_crust (s : State) (n : Nat) (f : Loaf → Loaf) : (s.modLoaf n f).crust = s.crust := rfl
@[simp] theorem State.modLoaf_core (s : State) (n : Nat) (f : Loaf → Loaf) (i : Nat) : (s.modLoaf n f).core i = s.core i := rfl
@[simp] theorem State.modLoaf_ctxOf (s : State) (n : Nat) (f : Loaf → Loaf) (i : Nat) (h : Bool) : (s.modLoaf n f).ctxOf i h = s.ctxOf i h := rfl
@[simp] theorem State.modLoaf_ctx (s : State) (n : Nat) (f : Loaf → Loaf) : (s.modLoaf n f).ctx = s.ctx := rfl
@[simp] theorem State.modLoaf_me (s : State) (n : Nat) (f : Loaf → Loaf) : (s.modLoaf n f).me = s.me := rfl
@[simp] theorem State.modLoaf_reed_at (s : State) (n : Nat) (f : Loaf → Loaf) (i : Nat) : (s.modLoaf n f).reed i = s.reed i := rfl
@[simp] theorem State.modLoaf_slice_at (s : State) (n : Nat) (f : Loaf → Loaf) (i : Nat) : (s.modLoaf n f).slice i = s.slice i := rfl
@[simp] theorem State.modLoaf_launch_at (s : State) (n : Nat) (f : Loaf → Loaf) (i : Nat) : (s.modLoaf n f).launch i = s.launch i := rfl

/-! ### modCrust -/

@[simp] theorem State.modCrust_cur (s : State) (f : Crust → Crust) : (s.modCrust f).cur = s.cur := rfl
@[simp] theorem State.modCrust_agenda (s : State) (f : Crust → Crust) : (s.modCrust f).agenda = s.agenda := rfl
@[simp] theorem State.modCrust_now (s : State) (f : Crust → Crust) : (s.modCrust f).now = s.now := rfl
@[simp] theorem State.modCrust_time (s : State) (f : Crust → Crust) : (s.modCrust f).time = s.time := rfl
@[simp] theorem State.modCrust_slewLeft (s : State) (f : Crust → Crust) : (s.modCrust f).slewLeft = s.slewLeft := rfl
@[simp] theorem State.modCrust_slewAcc (s : State) (f : Crust → Crust) : (s.modCrust f).slewAcc = s.slewAcc := rfl
@[simp] theorem State.modCrust_fresh (s : State) (f : Crust → Crust) : (s.modCrust f).fresh = s.fresh := rfl
@[simp] theorem State.modCrust_ids (s : State) (f : Crust → Crust) : (s.modCrust f).ids = s.ids := rfl
@[simp] theorem State.modCrust_cores (s : State) (f : Crust → Crust) : (s.modCrust f).cores = s.cores := rfl
@[simp] theorem State.modCrust_reeds (s : State) (f : Crust → Crust) : (s.modCrust f).reeds = s.reeds := rfl
@[simp] theorem State.modCrust_slices (s : State) (f : Crust → Crust) : (s.modCrust f).slices = s.slices := rfl
@[simp] theorem State.modCrust_loaves (s : State) (f : Crust → Crust) : (s.modCrust f).loaves = s.loaves := rfl
@[simp] theorem State.modCrust_links (s : State) (f : Crust → Crust) : (s.modCrust f).links = s.links := rfl
@[simp] theorem State.modCrust_hbm (s : State) (f : Crust → Crust) : (s.modCrust f).hbm = s.hbm := rfl
@[simp] theorem State.modCrust_net (s : State) (f : Crust → Crust) : (s.modCrust f).net = s.net := rfl
@[simp] theorem State.modCrust_streams (s : State) (f : Crust → Crust) : (s.modCrust f).streams = s.streams := rfl
@[simp] theorem State.modCrust_bellows (s : State) (f : Crust → Crust) : (s.modCrust f).bellows = s.bellows := rfl
@[simp] theorem State.modCrust_launches (s : State) (f : Crust → Crust) : (s.modCrust f).launches = s.launches := rfl
@[simp] theorem State.modCrust_lreqs (s : State) (f : Crust → Crust) : (s.modCrust f).lreqs = s.lreqs := rfl
@[simp] theorem State.modCrust_posts (s : State) (f : Crust → Crust) : (s.modCrust f).posts = s.posts := rfl
@[simp] theorem State.modCrust_core (s : State) (f : Crust → Crust) (i : Nat) : (s.modCrust f).core i = s.core i := rfl
@[simp] theorem State.modCrust_ctxOf (s : State) (f : Crust → Crust) (i : Nat) (h : Bool) : (s.modCrust f).ctxOf i h = s.ctxOf i h := rfl
@[simp] theorem State.modCrust_ctx (s : State) (f : Crust → Crust) : (s.modCrust f).ctx = s.ctx := rfl
@[simp] theorem State.modCrust_me (s : State) (f : Crust → Crust) : (s.modCrust f).me = s.me := rfl
@[simp] theorem State.modCrust_reed_at (s : State) (f : Crust → Crust) (i : Nat) : (s.modCrust f).reed i = s.reed i := rfl
@[simp] theorem State.modCrust_slice_at (s : State) (f : Crust → Crust) (i : Nat) : (s.modCrust f).slice i = s.slice i := rfl
@[simp] theorem State.modCrust_loaf_at (s : State) (f : Crust → Crust) (i : Nat) : (s.modCrust f).loaf i = s.loaf i := rfl
@[simp] theorem State.modCrust_launch_at (s : State) (f : Crust → Crust) (i : Nat) : (s.modCrust f).launch i = s.launch i := rfl

/-! ### modLaunch -/

@[simp] theorem State.modLaunch_cur (s : State) (n : Nat) (f : Launch → Launch) : (s.modLaunch n f).cur = s.cur := rfl
@[simp] theorem State.modLaunch_agenda (s : State) (n : Nat) (f : Launch → Launch) : (s.modLaunch n f).agenda = s.agenda := rfl
@[simp] theorem State.modLaunch_now (s : State) (n : Nat) (f : Launch → Launch) : (s.modLaunch n f).now = s.now := rfl
@[simp] theorem State.modLaunch_time (s : State) (n : Nat) (f : Launch → Launch) : (s.modLaunch n f).time = s.time := rfl
@[simp] theorem State.modLaunch_slewLeft (s : State) (n : Nat) (f : Launch → Launch) : (s.modLaunch n f).slewLeft = s.slewLeft := rfl
@[simp] theorem State.modLaunch_slewAcc (s : State) (n : Nat) (f : Launch → Launch) : (s.modLaunch n f).slewAcc = s.slewAcc := rfl
@[simp] theorem State.modLaunch_fresh (s : State) (n : Nat) (f : Launch → Launch) : (s.modLaunch n f).fresh = s.fresh := rfl
@[simp] theorem State.modLaunch_ids (s : State) (n : Nat) (f : Launch → Launch) : (s.modLaunch n f).ids = s.ids := rfl
@[simp] theorem State.modLaunch_cores (s : State) (n : Nat) (f : Launch → Launch) : (s.modLaunch n f).cores = s.cores := rfl
@[simp] theorem State.modLaunch_reeds (s : State) (n : Nat) (f : Launch → Launch) : (s.modLaunch n f).reeds = s.reeds := rfl
@[simp] theorem State.modLaunch_slices (s : State) (n : Nat) (f : Launch → Launch) : (s.modLaunch n f).slices = s.slices := rfl
@[simp] theorem State.modLaunch_loaves (s : State) (n : Nat) (f : Launch → Launch) : (s.modLaunch n f).loaves = s.loaves := rfl
@[simp] theorem State.modLaunch_links (s : State) (n : Nat) (f : Launch → Launch) : (s.modLaunch n f).links = s.links := rfl
@[simp] theorem State.modLaunch_hbm (s : State) (n : Nat) (f : Launch → Launch) : (s.modLaunch n f).hbm = s.hbm := rfl
@[simp] theorem State.modLaunch_net (s : State) (n : Nat) (f : Launch → Launch) : (s.modLaunch n f).net = s.net := rfl
@[simp] theorem State.modLaunch_streams (s : State) (n : Nat) (f : Launch → Launch) : (s.modLaunch n f).streams = s.streams := rfl
@[simp] theorem State.modLaunch_bellows (s : State) (n : Nat) (f : Launch → Launch) : (s.modLaunch n f).bellows = s.bellows := rfl
@[simp] theorem State.modLaunch_lreqs (s : State) (n : Nat) (f : Launch → Launch) : (s.modLaunch n f).lreqs = s.lreqs := rfl
@[simp] theorem State.modLaunch_posts (s : State) (n : Nat) (f : Launch → Launch) : (s.modLaunch n f).posts = s.posts := rfl
@[simp] theorem State.modLaunch_crust (s : State) (n : Nat) (f : Launch → Launch) : (s.modLaunch n f).crust = s.crust := rfl
@[simp] theorem State.modLaunch_core (s : State) (n : Nat) (f : Launch → Launch) (i : Nat) : (s.modLaunch n f).core i = s.core i := rfl
@[simp] theorem State.modLaunch_ctxOf (s : State) (n : Nat) (f : Launch → Launch) (i : Nat) (h : Bool) : (s.modLaunch n f).ctxOf i h = s.ctxOf i h := rfl
@[simp] theorem State.modLaunch_ctx (s : State) (n : Nat) (f : Launch → Launch) : (s.modLaunch n f).ctx = s.ctx := rfl
@[simp] theorem State.modLaunch_me (s : State) (n : Nat) (f : Launch → Launch) : (s.modLaunch n f).me = s.me := rfl
@[simp] theorem State.modLaunch_reed_at (s : State) (n : Nat) (f : Launch → Launch) (i : Nat) : (s.modLaunch n f).reed i = s.reed i := rfl
@[simp] theorem State.modLaunch_slice_at (s : State) (n : Nat) (f : Launch → Launch) (i : Nat) : (s.modLaunch n f).slice i = s.slice i := rfl
@[simp] theorem State.modLaunch_loaf_at (s : State) (n : Nat) (f : Launch → Launch) (i : Nat) : (s.modLaunch n f).loaf i = s.loaf i := rfl

/-! ### take -/

@[simp] theorem State.take_cur (s : State) (k : Nat) : (s.take k).cur = s.cur := rfl
@[simp] theorem State.take_agenda (s : State) (k : Nat) : (s.take k).agenda = s.agenda := rfl
@[simp] theorem State.take_now (s : State) (k : Nat) : (s.take k).now = s.now := rfl
@[simp] theorem State.take_time (s : State) (k : Nat) : (s.take k).time = s.time := rfl
@[simp] theorem State.take_slewLeft (s : State) (k : Nat) : (s.take k).slewLeft = s.slewLeft := rfl
@[simp] theorem State.take_slewAcc (s : State) (k : Nat) : (s.take k).slewAcc = s.slewAcc := rfl
@[simp] theorem State.take_fresh (s : State) (k : Nat) : (s.take k).fresh = s.fresh := rfl
@[simp] theorem State.take_ids (s : State) (k : Nat) : (s.take k).ids = s.ids := rfl
@[simp] theorem State.take_cores (s : State) (k : Nat) : (s.take k).cores = s.cores := rfl
@[simp] theorem State.take_reeds (s : State) (k : Nat) : (s.take k).reeds = s.reeds := rfl
@[simp] theorem State.take_slices (s : State) (k : Nat) : (s.take k).slices = s.slices := rfl
@[simp] theorem State.take_loaves (s : State) (k : Nat) : (s.take k).loaves = s.loaves := rfl
@[simp] theorem State.take_links (s : State) (k : Nat) : (s.take k).links = s.links := rfl
@[simp] theorem State.take_hbm (s : State) (k : Nat) : (s.take k).hbm = s.hbm := rfl
@[simp] theorem State.take_streams (s : State) (k : Nat) : (s.take k).streams = s.streams := rfl
@[simp] theorem State.take_bellows (s : State) (k : Nat) : (s.take k).bellows = s.bellows := rfl
@[simp] theorem State.take_launches (s : State) (k : Nat) : (s.take k).launches = s.launches := rfl
@[simp] theorem State.take_lreqs (s : State) (k : Nat) : (s.take k).lreqs = s.lreqs := rfl
@[simp] theorem State.take_posts (s : State) (k : Nat) : (s.take k).posts = s.posts := rfl
@[simp] theorem State.take_crust (s : State) (k : Nat) : (s.take k).crust = s.crust := rfl
@[simp] theorem State.take_core (s : State) (k : Nat) (i : Nat) : (s.take k).core i = s.core i := rfl
@[simp] theorem State.take_ctxOf (s : State) (k : Nat) (i : Nat) (h : Bool) : (s.take k).ctxOf i h = s.ctxOf i h := rfl
@[simp] theorem State.take_ctx (s : State) (k : Nat) : (s.take k).ctx = s.ctx := rfl
@[simp] theorem State.take_me (s : State) (k : Nat) : (s.take k).me = s.me := rfl
@[simp] theorem State.take_reed_at (s : State) (k : Nat) (i : Nat) : (s.take k).reed i = s.reed i := rfl
@[simp] theorem State.take_slice_at (s : State) (k : Nat) (i : Nat) : (s.take k).slice i = s.slice i := rfl
@[simp] theorem State.take_loaf_at (s : State) (k : Nat) (i : Nat) : (s.take k).loaf i = s.loaf i := rfl
@[simp] theorem State.take_launch_at (s : State) (k : Nat) (i : Nat) : (s.take k).launch i = s.launch i := rfl

/-! ### A new number, a free byte -/

@[simp] theorem State.newId_cur (s : State) : s.newId.1.cur = s.cur := rfl
@[simp] theorem State.newId_agenda (s : State) : s.newId.1.agenda = s.agenda := rfl
@[simp] theorem State.newId_now (s : State) : s.newId.1.now = s.now := rfl
@[simp] theorem State.newId_time (s : State) : s.newId.1.time = s.time := rfl
@[simp] theorem State.newId_slewLeft (s : State) : s.newId.1.slewLeft = s.slewLeft := rfl
@[simp] theorem State.newId_slewAcc (s : State) : s.newId.1.slewAcc = s.slewAcc := rfl
@[simp] theorem State.newId_fresh (s : State) : s.newId.1.fresh = s.fresh := rfl
@[simp] theorem State.newId_cores (s : State) : s.newId.1.cores = s.cores := rfl
@[simp] theorem State.newId_reeds (s : State) : s.newId.1.reeds = s.reeds := rfl
@[simp] theorem State.newId_slices (s : State) : s.newId.1.slices = s.slices := rfl
@[simp] theorem State.newId_loaves (s : State) : s.newId.1.loaves = s.loaves := rfl
@[simp] theorem State.newId_links (s : State) : s.newId.1.links = s.links := rfl
@[simp] theorem State.newId_hbm (s : State) : s.newId.1.hbm = s.hbm := rfl
@[simp] theorem State.newId_net (s : State) : s.newId.1.net = s.net := rfl
@[simp] theorem State.newId_streams (s : State) : s.newId.1.streams = s.streams := rfl
@[simp] theorem State.newId_bellows (s : State) : s.newId.1.bellows = s.bellows := rfl
@[simp] theorem State.newId_launches (s : State) : s.newId.1.launches = s.launches := rfl
@[simp] theorem State.newId_lreqs (s : State) : s.newId.1.lreqs = s.lreqs := rfl
@[simp] theorem State.newId_posts (s : State) : s.newId.1.posts = s.posts := rfl
@[simp] theorem State.newId_crust (s : State) : s.newId.1.crust = s.crust := rfl
@[simp] theorem State.newId_ids (s : State) : s.newId.1.ids = s.ids + 1 := rfl
@[simp] theorem State.newId_core (s : State) (i : Nat) : s.newId.1.core i = s.core i := rfl
@[simp] theorem State.newId_ctx (s : State) : s.newId.1.ctx = s.ctx := rfl
@[simp] theorem State.newId_me (s : State) : s.newId.1.me = s.me := rfl
@[simp] theorem State.noise_cur (s : State) : s.noise.1.cur = s.cur := rfl
@[simp] theorem State.noise_agenda (s : State) : s.noise.1.agenda = s.agenda := rfl
@[simp] theorem State.noise_now (s : State) : s.noise.1.now = s.now := rfl
@[simp] theorem State.noise_time (s : State) : s.noise.1.time = s.time := rfl
@[simp] theorem State.noise_slewLeft (s : State) : s.noise.1.slewLeft = s.slewLeft := rfl
@[simp] theorem State.noise_slewAcc (s : State) : s.noise.1.slewAcc = s.slewAcc := rfl
@[simp] theorem State.noise_ids (s : State) : s.noise.1.ids = s.ids := rfl
@[simp] theorem State.noise_cores (s : State) : s.noise.1.cores = s.cores := rfl
@[simp] theorem State.noise_reeds (s : State) : s.noise.1.reeds = s.reeds := rfl
@[simp] theorem State.noise_slices (s : State) : s.noise.1.slices = s.slices := rfl
@[simp] theorem State.noise_loaves (s : State) : s.noise.1.loaves = s.loaves := rfl
@[simp] theorem State.noise_links (s : State) : s.noise.1.links = s.links := rfl
@[simp] theorem State.noise_hbm (s : State) : s.noise.1.hbm = s.hbm := rfl
@[simp] theorem State.noise_net (s : State) : s.noise.1.net = s.net := rfl
@[simp] theorem State.noise_streams (s : State) : s.noise.1.streams = s.streams := rfl
@[simp] theorem State.noise_bellows (s : State) : s.noise.1.bellows = s.bellows := rfl
@[simp] theorem State.noise_launches (s : State) : s.noise.1.launches = s.launches := rfl
@[simp] theorem State.noise_lreqs (s : State) : s.noise.1.lreqs = s.lreqs := rfl
@[simp] theorem State.noise_posts (s : State) : s.noise.1.posts = s.posts := rfl
@[simp] theorem State.noise_crust (s : State) : s.noise.1.crust = s.crust := rfl

/-! ### A core with a row or a context replaced -/

@[simp] theorem Core.setRow_owner (c : Core) (v : VReg) (r : Row) : (c.setRow v r).owner = c.owner := rfl
@[simp] theorem Core.setRow_harv (c : Core) (v : VReg) (r : Row) : (c.setRow v r).harv = c.harv := rfl
@[simp] theorem Core.setRow_launch (c : Core) (v : VReg) (r : Row) : (c.setRow v r).launch = c.launch := rfl
@[simp] theorem Core.setRow_lm (c : Core) (v : VReg) (r : Row) : (c.setRow v r).lm = c.lm := rfl
@[simp] theorem Core.setRow_arms (c : Core) (v : VReg) (r : Row) : (c.setRow v r).arms = c.arms := rfl
@[simp] theorem Core.setRow_store (c : Core) (v : VReg) (r : Row) : (c.setRow v r).store = c.store := rfl
@[simp] theorem Core.setRow_vcords (c : Core) (v : VReg) (r : Row) : (c.setRow v r).vcords = c.vcords := rfl
@[simp] theorem Core.setRow_dtlb (c : Core) (v : VReg) (r : Row) : (c.setRow v r).dtlb = c.dtlb := rfl
@[simp] theorem Core.setRow_itlb (c : Core) (v : VReg) (r : Row) : (c.setRow v r).itlb = c.itlb := rfl
@[simp] theorem Core.setRow_copies (c : Core) (v : VReg) (r : Row) : (c.setRow v r).copies = c.copies := rfl
@[simp] theorem Core.setRow_board (c : Core) (v : VReg) (r : Row) : (c.setRow v r).board = c.board := rfl
@[simp] theorem Core.setRow_ports (c : Core) (v : VReg) (r : Row) : (c.setRow v r).ports = c.ports := rfl
@[simp] theorem Core.setRow_awaits (c : Core) (v : VReg) (r : Row) : (c.setRow v r).awaits = c.awaits := rfl
@[simp] theorem Core.setRow_lanes (c : Core) (v : VReg) (r : Row) : (c.setRow v r).lanes = c.lanes := rfl
@[simp] theorem Core.setRow_bconf (c : Core) (v : VReg) (r : Row) : (c.setRow v r).bconf = c.bconf := rfl
@[simp] theorem Core.setRow_trimc (c : Core) (v : VReg) (r : Row) : (c.setRow v r).trimc = c.trimc := rfl
@[simp] theorem Core.setRow_rdvto (c : Core) (v : VReg) (r : Row) : (c.setRow v r).rdvto = c.rdvto := rfl
@[simp] theorem Core.setRow_en (c : Core) (v : VReg) (r : Row) : (c.setRow v r).en = c.en := rfl
@[simp] theorem Core.setRow_permit (c : Core) (v : VReg) (r : Row) : (c.setRow v r).permit = c.permit := rfl
@[simp] theorem Core.setRow_excld (c : Core) (v : VReg) (r : Row) : (c.setRow v r).excld = c.excld := rfl
@[simp] theorem Core.setRow_parked (c : Core) (v : VReg) (r : Row) : (c.setRow v r).parked = c.parked := rfl
@[simp] theorem Core.setRow_parking (c : Core) (v : VReg) (r : Row) : (c.setRow v r).parking = c.parking := rfl
@[simp] theorem Core.setRow_revokes (c : Core) (v : VReg) (r : Row) : (c.setRow v r).revokes = c.revokes := rfl
@[simp] theorem Core.setRow_loan (c : Core) (v : VReg) (r : Row) : (c.setRow v r).loan = c.loan := rfl
@[simp] theorem Core.setRow_since (c : Core) (v : VReg) (r : Row) : (c.setRow v r).since = c.since := rfl
@[simp] theorem Core.setRow_elig (c : Core) (v : VReg) (r : Row) : (c.setRow v r).elig = c.elig := rfl
@[simp] theorem Core.setRow_lastChan (c : Core) (v : VReg) (r : Row) : (c.setRow v r).lastChan = c.lastChan := rfl
@[simp] theorem Core.setRow_preempt (c : Core) (v : VReg) (r : Row) : (c.setRow v r).preempt = c.preempt := rfl
@[simp] theorem Core.setRow_gone (c : Core) (v : VReg) (r : Row) : (c.setRow v r).gone = c.gone := rfl
@[simp] theorem Core.setRow_tilesOf (c : Core) (v : VReg) (r : Row) : (c.setRow v r).tilesOf = c.tilesOf := rfl
@[simp] theorem Core.setRow_fab (c : Core) (v : VReg) (r : Row) : (c.setRow v r).fab = c.fab := rfl
@[simp] theorem Core.setRow_qwaits (c : Core) (v : VReg) (r : Row) : (c.setRow v r).qwaits = c.qwaits := rfl
@[simp] theorem Core.setRow_bwaits (c : Core) (v : VReg) (r : Row) : (c.setRow v r).bwaits = c.bwaits := rfl
@[simp] theorem Core.setRow_frames (c : Core) (v : VReg) (r : Row) : (c.setRow v r).frames = c.frames := rfl
@[simp] theorem Core.setRow_retired (c : Core) (v : VReg) (r : Row) : (c.setRow v r).retired = c.retired := rfl
@[simp] theorem Core.setRow_corrected (c : Core) (v : VReg) (r : Row) : (c.setRow v r).corrected = c.corrected := rfl
@[simp] theorem Core.setCtx_launch (c : Core) (hv : Bool) (x : Ctx) : (c.setCtx hv x).launch = c.launch := by
  cases hv <;> rfl
@[simp] theorem Core.setCtx_lm (c : Core) (hv : Bool) (x : Ctx) : (c.setCtx hv x).lm = c.lm := by
  cases hv <;> rfl
@[simp] theorem Core.setCtx_tiles (c : Core) (hv : Bool) (x : Ctx) : (c.setCtx hv x).tiles = c.tiles := by
  cases hv <;> rfl
@[simp] theorem Core.setCtx_arms (c : Core) (hv : Bool) (x : Ctx) : (c.setCtx hv x).arms = c.arms := by
  cases hv <;> rfl
@[simp] theorem Core.setCtx_store (c : Core) (hv : Bool) (x : Ctx) : (c.setCtx hv x).store = c.store := by
  cases hv <;> rfl
@[simp] theorem Core.setCtx_vcords (c : Core) (hv : Bool) (x : Ctx) : (c.setCtx hv x).vcords = c.vcords := by
  cases hv <;> rfl
@[simp] theorem Core.setCtx_dtlb (c : Core) (hv : Bool) (x : Ctx) : (c.setCtx hv x).dtlb = c.dtlb := by
  cases hv <;> rfl
@[simp] theorem Core.setCtx_itlb (c : Core) (hv : Bool) (x : Ctx) : (c.setCtx hv x).itlb = c.itlb := by
  cases hv <;> rfl
@[simp] theorem Core.setCtx_copies (c : Core) (hv : Bool) (x : Ctx) : (c.setCtx hv x).copies = c.copies := by
  cases hv <;> rfl
@[simp] theorem Core.setCtx_board (c : Core) (hv : Bool) (x : Ctx) : (c.setCtx hv x).board = c.board := by
  cases hv <;> rfl
@[simp] theorem Core.setCtx_ports (c : Core) (hv : Bool) (x : Ctx) : (c.setCtx hv x).ports = c.ports := by
  cases hv <;> rfl
@[simp] theorem Core.setCtx_awaits (c : Core) (hv : Bool) (x : Ctx) : (c.setCtx hv x).awaits = c.awaits := by
  cases hv <;> rfl
@[simp] theorem Core.setCtx_lanes (c : Core) (hv : Bool) (x : Ctx) : (c.setCtx hv x).lanes = c.lanes := by
  cases hv <;> rfl
@[simp] theorem Core.setCtx_bconf (c : Core) (hv : Bool) (x : Ctx) : (c.setCtx hv x).bconf = c.bconf := by
  cases hv <;> rfl
@[simp] theorem Core.setCtx_trimc (c : Core) (hv : Bool) (x : Ctx) : (c.setCtx hv x).trimc = c.trimc := by
  cases hv <;> rfl
@[simp] theorem Core.setCtx_rdvto (c : Core) (hv : Bool) (x : Ctx) : (c.setCtx hv x).rdvto = c.rdvto := by
  cases hv <;> rfl
@[simp] theorem Core.setCtx_en (c : Core) (hv : Bool) (x : Ctx) : (c.setCtx hv x).en = c.en := by
  cases hv <;> rfl
@[simp] theorem Core.setCtx_permit (c : Core) (hv : Bool) (x : Ctx) : (c.setCtx hv x).permit = c.permit := by
  cases hv <;> rfl
@[simp] theorem Core.setCtx_excld (c : Core) (hv : Bool) (x : Ctx) : (c.setCtx hv x).excld = c.excld := by
  cases hv <;> rfl
@[simp] theorem Core.setCtx_parked (c : Core) (hv : Bool) (x : Ctx) : (c.setCtx hv x).parked = c.parked := by
  cases hv <;> rfl
@[simp] theorem Core.setCtx_parking (c : Core) (hv : Bool) (x : Ctx) : (c.setCtx hv x).parking = c.parking := by
  cases hv <;> rfl
@[simp] theorem Core.setCtx_revokes (c : Core) (hv : Bool) (x : Ctx) : (c.setCtx hv x).revokes = c.revokes := by
  cases hv <;> rfl
@[simp] theorem Core.setCtx_loan (c : Core) (hv : Bool) (x : Ctx) : (c.setCtx hv x).loan = c.loan := by
  cases hv <;> rfl
@[simp] theorem Core.setCtx_since (c : Core) (hv : Bool) (x : Ctx) : (c.setCtx hv x).since = c.since := by
  cases hv <;> rfl
@[simp] theorem Core.setCtx_elig (c : Core) (hv : Bool) (x : Ctx) : (c.setCtx hv x).elig = c.elig := by
  cases hv <;> rfl
@[simp] theorem Core.setCtx_lastChan (c : Core) (hv : Bool) (x : Ctx) : (c.setCtx hv x).lastChan = c.lastChan := by
  cases hv <;> rfl
@[simp] theorem Core.setCtx_preempt (c : Core) (hv : Bool) (x : Ctx) : (c.setCtx hv x).preempt = c.preempt := by
  cases hv <;> rfl
@[simp] theorem Core.setCtx_gone (c : Core) (hv : Bool) (x : Ctx) : (c.setCtx hv x).gone = c.gone := by
  cases hv <;> rfl
@[simp] theorem Core.setCtx_tilesOf (c : Core) (hv : Bool) (x : Ctx) : (c.setCtx hv x).tilesOf = c.tilesOf := by
  cases hv <;> rfl
@[simp] theorem Core.setCtx_fab (c : Core) (hv : Bool) (x : Ctx) : (c.setCtx hv x).fab = c.fab := by
  cases hv <;> rfl
@[simp] theorem Core.setCtx_qwaits (c : Core) (hv : Bool) (x : Ctx) : (c.setCtx hv x).qwaits = c.qwaits := by
  cases hv <;> rfl
@[simp] theorem Core.setCtx_bwaits (c : Core) (hv : Bool) (x : Ctx) : (c.setCtx hv x).bwaits = c.bwaits := by
  cases hv <;> rfl
@[simp] theorem Core.setCtx_frames (c : Core) (hv : Bool) (x : Ctx) : (c.setCtx hv x).frames = c.frames := by
  cases hv <;> rfl
@[simp] theorem Core.setCtx_retired (c : Core) (hv : Bool) (x : Ctx) : (c.setCtx hv x).retired = c.retired := by
  cases hv <;> rfl
@[simp] theorem Core.setCtx_corrected (c : Core) (hv : Bool) (x : Ctx) : (c.setCtx hv x).corrected = c.corrected := by
  cases hv <;> rfl
@[simp] theorem Core.setCtx_ctx (c : Core) (hv : Bool) (x : Ctx) : (c.setCtx hv x).ctx hv = x := by cases hv <;> rfl

@[simp] theorem Core.setCtx_ctx_not (c : Core) (hv : Bool) (x : Ctx) : (c.setCtx hv x).ctx (!hv) = c.ctx (!hv) := by
  cases hv <;> rfl

@[simp] theorem Core.setCtx_setCtx (c : Core) (hv : Bool) (x y : Ctx) : (c.setCtx hv x).setCtx hv y = c.setCtx hv y := by
  cases hv <;> rfl

@[simp] theorem Core.setCtx_row (c : Core) (hv : Bool) (x : Ctx) (v : VReg) : (c.setCtx hv x).row v = c.row v := by
  cases hv <;> rfl

/-! ### A context with a register replaced -/

@[simp] theorem Ctx.setReg_pc (c : Ctx) (r : SReg) (v : Word) : (c.setReg r v).pc = c.pc := rfl
@[simp] theorem Ctx.clearReg_pc (c : Ctx) (r : SReg) : (c.clearReg r).pc = c.pc := rfl
@[simp] theorem Ctx.setReg_closedFrom (c : Ctx) (r : SReg) (v : Word) : (c.setReg r v).closedFrom = c.closedFrom := rfl
@[simp] theorem Ctx.clearReg_closedFrom (c : Ctx) (r : SReg) : (c.clearReg r).closedFrom = c.closedFrom := rfl
@[simp] theorem Ctx.setReg_task (c : Ctx) (r : SReg) (v : Word) : (c.setReg r v).task = c.task := rfl
@[simp] theorem Ctx.clearReg_task (c : Ctx) (r : SReg) : (c.clearReg r).task = c.task := rfl
@[simp] theorem Ctx.setReg_mode (c : Ctx) (r : SReg) (v : Word) : (c.setReg r v).mode = c.mode := rfl
@[simp] theorem Ctx.clearReg_mode (c : Ctx) (r : SReg) : (c.clearReg r).mode = c.mode := rfl
@[simp] theorem Ctx.setReg_pmode (c : Ctx) (r : SReg) (v : Word) : (c.setReg r v).pmode = c.pmode := rfl
@[simp] theorem Ctx.clearReg_pmode (c : Ctx) (r : SReg) : (c.clearReg r).pmode = c.pmode := rfl
@[simp] theorem Ctx.setReg_inh (c : Ctx) (r : SReg) (v : Word) : (c.setReg r v).inh = c.inh := rfl
@[simp] theorem Ctx.clearReg_inh (c : Ctx) (r : SReg) : (c.clearReg r).inh = c.inh := rfl
@[simp] theorem Ctx.setReg_dbl (c : Ctx) (r : SReg) (v : Word) : (c.setReg r v).dbl = c.dbl := rfl
@[simp] theorem Ctx.clearReg_dbl (c : Ctx) (r : SReg) : (c.clearReg r).dbl = c.dbl := rfl
@[simp] theorem Ctx.setReg_stop (c : Ctx) (r : SReg) (v : Word) : (c.setReg r v).stop = c.stop := rfl
@[simp] theorem Ctx.clearReg_stop (c : Ctx) (r : SReg) : (c.clearReg r).stop = c.stop := rfl
@[simp] theorem Ctx.setReg_povf (c : Ctx) (r : SReg) (v : Word) : (c.setReg r v).povf = c.povf := rfl
@[simp] theorem Ctx.clearReg_povf (c : Ctx) (r : SReg) : (c.clearReg r).povf = c.povf := rfl
@[simp] theorem Ctx.setReg_ecause (c : Ctx) (r : SReg) (v : Word) : (c.setReg r v).ecause = c.ecause := rfl
@[simp] theorem Ctx.clearReg_ecause (c : Ctx) (r : SReg) : (c.clearReg r).ecause = c.ecause := rfl
@[simp] theorem Ctx.setReg_epc (c : Ctx) (r : SReg) (v : Word) : (c.setReg r v).epc = c.epc := rfl
@[simp] theorem Ctx.clearReg_epc (c : Ctx) (r : SReg) : (c.clearReg r).epc = c.epc := rfl
@[simp] theorem Ctx.setReg_eval (c : Ctx) (r : SReg) (v : Word) : (c.setReg r v).eval = c.eval := rfl
@[simp] theorem Ctx.clearReg_eval (c : Ctx) (r : SReg) : (c.clearReg r).eval = c.eval := rfl
@[simp] theorem Ctx.setReg_async (c : Ctx) (r : SReg) (v : Word) : (c.setReg r v).async = c.async := rfl
@[simp] theorem Ctx.clearReg_async (c : Ctx) (r : SReg) : (c.clearReg r).async = c.async := rfl
@[simp] theorem Ctx.setReg_held (c : Ctx) (r : SReg) (v : Word) : (c.setReg r v).held = c.held := rfl
@[simp] theorem Ctx.clearReg_held (c : Ctx) (r : SReg) : (c.clearReg r).held = c.held := rfl
@[simp] theorem Ctx.setReg_further (c : Ctx) (r : SReg) (v : Word) : (c.setReg r v).further = c.further := rfl
@[simp] theorem Ctx.clearReg_further (c : Ctx) (r : SReg) : (c.clearReg r).further = c.further := rfl
@[simp] theorem Ctx.setReg_srseed (c : Ctx) (r : SReg) (v : Word) : (c.setReg r v).srseed = c.srseed := rfl
@[simp] theorem Ctx.clearReg_srseed (c : Ctx) (r : SReg) : (c.clearReg r).srseed = c.srseed := rfl
@[simp] theorem Ctx.setReg_vflag (c : Ctx) (r : SReg) (v : Word) : (c.setReg r v).vflag = c.vflag := rfl
@[simp] theorem Ctx.clearReg_vflag (c : Ctx) (r : SReg) : (c.clearReg r).vflag = c.vflag := rfl
@[simp] theorem Ctx.setReg_handles (c : Ctx) (r : SReg) (v : Word) : (c.setReg r v).handles = c.handles := rfl
@[simp] theorem Ctx.clearReg_handles (c : Ctx) (r : SReg) : (c.clearReg r).handles = c.handles := rfl
@[simp] theorem Ctx.setReg_out (c : Ctx) (r : SReg) (v : Word) : (c.setReg r v).out = c.out := rfl
@[simp] theorem Ctx.clearReg_out (c : Ctx) (r : SReg) : (c.clearReg r).out = c.out := rfl
@[simp] theorem Ctx.setReg_rels (c : Ctx) (r : SReg) (v : Word) : (c.setReg r v).rels = c.rels := rfl
@[simp] theorem Ctx.clearReg_rels (c : Ctx) (r : SReg) : (c.clearReg r).rels = c.rels := rfl
@[simp] theorem Ctx.setReg_bank (c : Ctx) (r : SReg) (v : Word) : (c.setReg r v).bank = c.bank := rfl
@[simp] theorem Ctx.clearReg_bank (c : Ctx) (r : SReg) : (c.clearReg r).bank = c.bank := rfl
@[simp] theorem Ctx.setReg_stall (c : Ctx) (r : SReg) (v : Word) : (c.setReg r v).stall = c.stall := rfl
@[simp] theorem Ctx.clearReg_stall (c : Ctx) (r : SReg) : (c.clearReg r).stall = c.stall := rfl
@[simp] theorem Ctx.setReg_walk (c : Ctx) (r : SReg) (v : Word) : (c.setReg r v).walk = c.walk := rfl
@[simp] theorem Ctx.clearReg_walk (c : Ctx) (r : SReg) : (c.clearReg r).walk = c.walk := rfl
@[simp] theorem Ctx.setReg_fill (c : Ctx) (r : SReg) (v : Word) : (c.setReg r v).fill = c.fill := rfl
@[simp] theorem Ctx.clearReg_fill (c : Ctx) (r : SReg) : (c.clearReg r).fill = c.fill := rfl
@[simp] theorem Ctx.setReg_icache (c : Ctx) (r : SReg) (v : Word) : (c.setReg r v).icache = c.icache := rfl
@[simp] theorem Ctx.clearReg_icache (c : Ctx) (r : SReg) : (c.clearReg r).icache = c.icache := rfl
@[simp] theorem Ctx.setReg_ngets (c : Ctx) (r : SReg) (v : Word) : (c.setReg r v).ngets = c.ngets := rfl
@[simp] theorem Ctx.clearReg_ngets (c : Ctx) (r : SReg) : (c.clearReg r).ngets = c.ngets := rfl
@[simp] theorem Ctx.setReg_sends (c : Ctx) (r : SReg) (v : Word) : (c.setReg r v).sends = c.sends := rfl
@[simp] theorem Ctx.clearReg_sends (c : Ctx) (r : SReg) : (c.clearReg r).sends = c.sends := rfl
@[simp] theorem Ctx.setReg_svc (c : Ctx) (r : SReg) (v : Word) : (c.setReg r v).svc = c.svc := rfl
@[simp] theorem Ctx.setReg_units (c : Ctx) (r : SReg) (v : Word) : (c.setReg r v).units = c.units := rfl
@[simp] theorem Ctx.setReg_born (c : Ctx) (r : SReg) (v : Word) : (c.setReg r v).born = c.born := rfl
@[simp] theorem Ctx.clearReg_svc (c : Ctx) (r : SReg) : (c.clearReg r).svc = c.svc := rfl
@[simp] theorem Ctx.clearReg_units (c : Ctx) (r : SReg) : (c.clearReg r).units = c.units := rfl
@[simp] theorem Ctx.clearReg_born (c : Ctx) (r : SReg) : (c.clearReg r).born = c.born := rfl
@[simp] theorem Ctx.setReg_inval (c : Ctx) (r : SReg) (v : Word) : (c.setReg r v).inval = c.inval := rfl
@[simp] theorem Ctx.clearReg_inval (c : Ctx) (r : SReg) : (c.clearReg r).inval = c.inval := rfl
@[simp] theorem Ctx.setReg_ending (c : Ctx) (r : SReg) (v : Word) : (c.setReg r v).ending = c.ending := rfl
@[simp] theorem Ctx.clearReg_ending (c : Ctx) (r : SReg) : (c.clearReg r).ending = c.ending := rfl
@[simp] theorem Ctx.setReg_moving (c : Ctx) (r : SReg) (v : Word) : (c.setReg r v).moving = c.moving := rfl
@[simp] theorem Ctx.clearReg_moving (c : Ctx) (r : SReg) : (c.clearReg r).moving = c.moving := rfl
@[simp] theorem Ctx.setReg_pflt (c : Ctx) (r : SReg) (v : Word) : (c.setReg r v).pflt = c.pflt := rfl
@[simp] theorem Ctx.clearReg_pflt (c : Ctx) (r : SReg) : (c.clearReg r).pflt = c.pflt := rfl
@[simp] theorem Ctx.setReg_arrive (c : Ctx) (r : SReg) (v : Word) : (c.setReg r v).arrive = c.arrive := rfl
@[simp] theorem Ctx.clearReg_arrive (c : Ctx) (r : SReg) : (c.clearReg r).arrive = c.arrive := rfl

theorem Ctx.setReg_at (c : Ctx) (r : SReg) (v : Word) : (c.setReg r v).regs[r] = ⟨v, true⟩ := by
  simp [Ctx.setReg]

theorem Ctx.setReg_other (c : Ctx) (r x : SReg) (v : Word) (h : x ≠ r) : (c.setReg r v).regs[x] = c.regs[x] := by
  have : r.val ≠ x.val := fun e => h (Fin.ext e.symm)
  simp [Ctx.setReg, this]

theorem Ctx.clearReg_at (c : Ctx) (r : SReg) : (c.clearReg r).regs[r] = ⟨c.regs[r].val, false⟩ := by
  simp [Ctx.clearReg]

theorem Ctx.clearReg_other (c : Ctx) (r x : SReg) (h : x ≠ r) : (c.clearReg r).regs[x] = c.regs[x] := by
  have : r.val ≠ x.val := fun e => h (Fin.ext e.symm)
  simp [Ctx.clearReg, this]

/-! ### What an update leaves to be read -/

@[simp] theorem State.setCore_core_same (s : State) (cn : Nat) (c : Core) : (s.setCore cn c).core cn = c := by
  simp [State.core, State.setCore]

theorem State.setCore_core_other (s : State) (cn i : Nat) (c : Core) (h : i ≠ cn) : (s.setCore cn c).core i = s.core i := by
  simp [State.core, State.setCore, mget_mset_other _ _ _ _ _ h]

@[simp] theorem State.modCore_core_same (s : State) (cn : Nat) (f : Core → Core) : (s.modCore cn f).core cn = f (s.core cn) := by
  simp [State.modCore]

theorem State.modCore_core_other (s : State) (cn i : Nat) (f : Core → Core) (h : i ≠ cn) :
    (s.modCore cn f).core i = s.core i := by
  simp [State.modCore, State.setCore_core_other _ _ _ _ h]

theorem State.modCore_core (s : State) (cn i : Nat) (f : Core → Core) :
    (s.modCore cn f).core i = if i = cn then f (s.core cn) else s.core i := by
  split
  · subst i; simp
  · exact State.modCore_core_other s cn i f (by assumption)

@[simp] theorem State.modCore_modCore (s : State) (cn : Nat) (f g : Core → Core) :
    (s.modCore cn f).modCore cn g = s.modCore cn (fun c => g (f c)) := by
  simp [State.modCore, State.setCore, State.core]

@[simp] theorem State.modCtxOf_ctxOf_same (s : State) (cn : Nat) (hv : Bool) (f : Ctx → Ctx) :
    (s.modCtxOf cn hv f).ctxOf cn hv = f (s.ctxOf cn hv) := by
  simp [State.ctxOf, State.modCtxOf]

@[simp] theorem State.modCtxOf_ctxOf_not (s : State) (cn : Nat) (hv : Bool) (f : Ctx → Ctx) :
    (s.modCtxOf cn hv f).ctxOf cn (!hv) = s.ctxOf cn (!hv) := by
  simp [State.ctxOf, State.modCtxOf]

theorem State.modCtxOf_ctxOf_other (s : State) (cn i : Nat) (hv h : Bool) (f : Ctx → Ctx) (hi : i ≠ cn) :
    (s.modCtxOf cn hv f).ctxOf i h = s.ctxOf i h := by
  simp [State.ctxOf, State.modCtxOf, State.modCore_core_other _ _ _ _ hi]

@[simp] theorem State.modCtxOf_modCtxOf (s : State) (cn : Nat) (hv : Bool) (f g : Ctx → Ctx) :
    (s.modCtxOf cn hv f).modCtxOf cn hv g = s.modCtxOf cn hv (fun c => g (f c)) := by
  simp [State.modCtxOf]

@[simp] theorem State.modCtx_ctx (s : State) (f : Ctx → Ctx) : (s.modCtx f).ctx = f s.ctx := by
  simp [State.ctx, State.modCtx]

@[simp] theorem State.modCtx_modCtx (s : State) (f g : Ctx → Ctx) : (s.modCtx f).modCtx g = s.modCtx (fun c => g (f c)) := by
  simp [State.modCtx]

@[simp] theorem State.modMe_me (s : State) (f : Core → Core) : (s.modMe f).me = f s.me := by
  simp [State.me, State.modMe]

theorem State.modCtx_eq_modMe (s : State) (f : Ctx → Ctx) :
    s.modCtx f = s.modMe (fun c => c.setCtx s.cur.hv (f (c.ctx s.cur.hv))) := rfl

@[simp] theorem State.setReg_ctx (s : State) (r : SReg) (v : Word) : (s.setReg r v).ctx = s.ctx.setReg r v := by
  simp [State.setReg]

@[simp] theorem State.clearReg_ctx (s : State) (r : SReg) : (s.clearReg r).ctx = s.ctx.clearReg r := by
  simp [State.clearReg]

@[simp] theorem State.ran_ctx (s : State) : s.ran.ctx = { s.ctx with stall := none } := by simp [State.ran]

@[simp] theorem State.jump_ctx (s : State) (t : Word) : (s.jump t).ctx = { s.ctx with pc := t, closedFrom := none } := by
  simp [State.jump]

@[simp] theorem State.advance_ctx (s : State) (n : Nat) :
    (s.advance n).ctx = { s.ctx with pc := (s.ctx.nextPc n).1, closedFrom := (s.ctx.nextPc n).2 } := by
  simp [State.advance]

/-- A change of the issuing context leaves every byte of every local memory. -/
@[simp] theorem State.modCtx_lmByte (s : State) (f : Ctx → Ctx) (cn off : Nat) :
    (s.modCtx f).lmByte cn off = s.lmByte cn off := by
  simp only [State.lmByte, State.modCtx, State.modCtxOf, State.modCore_core]
  split
  · rename_i h; subst h; simp
  · rfl

@[simp] theorem State.modCtx_hbmByte (s : State) (f : Ctx → Ctx) (pa : Nat) : (s.modCtx f).hbmByte pa = s.hbmByte pa := rfl

/-- A change of the issuing context alone. -/
theorem onlyCtx_modCtx (s : State) (f : Ctx → Ctx) : OnlyCtx s (s.modCtx f) := by
  simp [OnlyCtx, State.modCtx, State.modCtxOf, State.modCore, State.setCore, State.ctx, State.ctxOf, State.core]

/-- A state that differs in the issuing context alone has the same memory. -/
theorem OnlyCtx.sameMemory {s t : State} (h : OnlyCtx s t) : SameMemory s t := by
  rw [h]
  exact ⟨fun _ _ => by simp, fun _ => by simp⟩

end Sys2Proof.Machine
end

