-- ==== Sys2Proof/Laws/Ops.lean ====
section
/-! SUPPORT. One law for each shared operation of Sys2Proof/Machine/Ops.lean: what it answers, and everything it can do. -/

namespace Sys2Proof.Machine

open Sys2Proof

/-! ### How a meaning ends -/

@[simp] theorem finish_ok (s t : State) : finish s (.ok t) = .next t.ran := rfl

/-- A stall that does not count, and a counted one before its bound, stalls the context; at the bound it raises PRESENCE_TIMEOUT (R110). -/
theorem finish_stall (s : State) (k : Option Nat) : finish s (.error (.stall k)) = .next (match k with
    | none => s.stalled none
    | some c => if s.ctx.overdue then precise s .presenceTimeout (BitVec.ofNat 64 c) else s.stalled (some c)) := by
  cases k <;> rfl

theorem finish_wait (s t : State) : finish s (.error (.wait t)) = .next (t.stalled none) := rfl

theorem finish_trap (s : State) (c : Cause) (v : Word) : finish s (.error (.trap c v)) = .next (preciseOp s c v) := rfl

/-- A trap that is not an uncorrectable error reports nothing. -/
theorem preciseOp_eq (s : State) {c : Cause} (v : Word) (h : (c == .eccUncorr) = false) : preciseOp s c v = precise s c v := by
  simp [preciseOp, h]

theorem finish_barOver (s : State) : finish s (.error .barOver) = .next (takeBarOver s s.cur.core s.cur.hv) := rfl

/-- Every meaning that ends by `finish` answers a next state. -/
theorem finish_next (s : State) (r : Act) : finish s r = .next (settle s r) := rfl

@[simp] theorem need_true (c : Cause) (v : Word) : need true c v = .ok () := rfl

@[simp] theorem need_false (c : Cause) (v : Word) : need false c v = .error (.trap c v) := rfl

@[simp] theorem waitFor_true (k : Option Nat) : waitFor true k = .ok () := rfl

@[simp] theorem waitFor_false (k : Option Nat) : waitFor false k = .error (.stall k) := rfl

@[simp] theorem legal_true (w : Word32) : legal true w = .ok () := rfl

@[simp] theorem legal_false (w : Word32) : legal false w = .error (illegal w) := rfl

@[simp] theorem bind_ok {ε α β : Type} (x : α) (f : α → Except ε β) : (Except.ok x >>= f) = f x := rfl

@[simp] theorem bind_error {ε α β : Type} (e : ε) (f : α → Except ε β) : ((Except.error e : Except ε α) >>= f) = .error e := rfl

/-- A sequence that succeeds is two that succeed. -/
theorem bind_eq_ok {ε α β : Type} {x : Except ε α} {f : α → Except ε β} {b : β} (h : (x >>= f) = .ok b) :
    ∃ a, x = .ok a ∧ f a = .ok b := by
  cases x with
  | error e => cases h
  | ok a => exact ⟨a, rfl, h⟩

/-! ### Registers and rows -/

theorem readReg_ok {s : State} {r : SReg} (h : Readable s r) : readReg s r = .ok (s.val r) := by
  obtain ⟨hp, hb⟩ := h
  have hp : s.ctx.regs[r].present = true := hp
  have : (!s.ctx.inh && s.ctx.bops.any (fun b => b.reg == some r)) = false := by
    rcases hb with hi | hb
    · simp [hi]
    · have : s.ctx.bops.any (fun b => b.reg == some r) = false := by
        simpa [List.any_eq_false] using hb
      simp [this]
  simp only [readReg, this, hp]
  rfl

/-- A read of a register answers its value, waits for its presence, or comes to a BAR_OVER. -/
theorem readReg_cases (s : State) (r : SReg) :
    readReg s r = .ok (s.val r) ∨ (readReg s r = .error (.stall (some r.val)) ∧ ¬ Present s r)
      ∨ (readReg s r = .error .barOver ∧ s.ctx.inh = false ∧ s.ctx.bops ≠ []) := by
  by_cases hb : (!s.ctx.inh && s.ctx.bops.any (fun b => b.reg == some r)) = true
  · refine .inr (.inr ⟨by simp only [readReg, hb, if_true], ?_, ?_⟩)
    · simp only [Bool.and_eq_true, Bool.not_eq_true'] at hb; exact hb.1
    · intro h; simp [h] at hb
  · have hb := eq_false_of_ne_true hb
    by_cases hp : s.ctx.regs[r].present = true
    · exact .inl (by simp only [readReg, hb, hp]; rfl)
    · refine .inr (.inl ⟨?_, hp⟩)
      simp only [readReg, hb, eq_false_of_ne_true hp]; rfl

theorem destFree_ok {s : State} {r : SReg} (h : Present s r) : destFree s r = .ok () := by
  have h : s.ctx.regs[r].present = true := h
  simp only [destFree, h, if_true]

theorem destFree_cases (s : State) (r : SReg) :
    destFree s r = .ok () ∨ (destFree s r = .error (.stall (some r.val)) ∧ ¬ Present s r) := by
  by_cases h : s.ctx.regs[r].present = true
  · exact .inl (destFree_ok h)
  · refine .inr ⟨?_, h⟩
    simp only [destFree, eq_false_of_ne_true h]; rfl

theorem readRow_ok {s : State} {v : VReg} (h : RowPresent s v) : readRow s v = .ok (s.me.row v).bits := by
  have h : (s.me.row v).present = true := h
  simp only [readRow, h, if_true]

theorem rowFree_ok {s : State} {v : VReg} (h : RowPresent s v) : rowFree s v = .ok () := by
  have h : (s.me.row v).present = true := h
  simp only [rowFree, h, if_true]

theorem readRow_cases (s : State) (v : VReg) :
    readRow s v = .ok (s.me.row v).bits ∨ (readRow s v = .error (.stall (rowCode v)) ∧ ¬ RowPresent s v) := by
  by_cases h : (s.me.row v).present = true
  · exact .inl (readRow_ok h)
  · refine .inr ⟨?_, h⟩
    simp only [readRow, eq_false_of_ne_true h]; rfl

theorem rowFree_cases (s : State) (v : VReg) :
    rowFree s v = .ok () ∨ (rowFree s v = .error (.stall (rowCode v)) ∧ ¬ RowPresent s v) := by
  by_cases h : (s.me.row v).present = true
  · exact .inl (rowFree_ok h)
  · refine .inr ⟨?_, h⟩
    simp only [rowFree, eq_false_of_ne_true h]; rfl

theorem Core.setRow_row (c : Core) (v : VReg) (r : Row) : (c.setRow v r).row v = r := by
  simp [Core.setRow, Core.row, rowIdx]

theorem Core.setRow_row_other (c : Core) (v x : VReg) (r : Row) (h : x ≠ v) : (c.setRow v r).row x = c.row x := by
  have hne : v.val ≠ x.val := fun e => h (Fin.ext e.symm)
  by_cases ht : v.val / 16 = x.val / 16
  · have hr : v.val % 16 ≠ x.val % 16 := by omega
    have e : c.tiles[v.val / 16] = c.tiles[x.val / 16] := by simp only [ht]
    simp [Core.setRow, Core.row, rowIdx, ht, hr]
  · simp [Core.setRow, Core.row, rowIdx, ht]

@[simp] theorem State.setRow_ctx (s : State) (v : VReg) (b : RowBits) : (s.setRow v b).ctx = s.ctx := by
  simp only [State.ctx, State.ctxOf, State.setRow, State.modMe, State.modCore, State.setCore_core_same, State.setCore_cur]
  cases s.cur.hv <;> rfl

@[simp] theorem State.clearRow_ctx (s : State) (v : VReg) : (s.clearRow v).ctx = s.ctx := by
  simp only [State.ctx, State.ctxOf, State.clearRow, State.modMe, State.modCore, State.setCore_core_same, State.setCore_cur]
  cases s.cur.hv <;> rfl

theorem State.setRow_row (s : State) (v : VReg) (b : RowBits) : (s.setRow v b).me.row v = ⟨b, true⟩ := by
  simp [State.setRow, Core.setRow_row]

theorem State.setRow_row_other (s : State) (v x : VReg) (b : RowBits) (h : x ≠ v) :
    (s.setRow v b).me.row x = s.me.row x := by
  simp [State.setRow, Core.setRow_row_other _ _ _ _ h]

/-! ### Order and tags -/

theorem orderOk_load {s : State} (h : ∀ o ∈ s.ctx.out, o.acq = false) : orderOk s false = .ok () := by
  have : s.ctx.out.any (·.acq) = false := by simpa [List.any_eq_false] using h
  simp [orderOk, this]

theorem orderOk_store {s : State} (h : ∀ o ∈ s.ctx.out, o.acq = false) (hl : s.ctx.loadOut = false) (hr : s.ctx.rels = []) :
    orderOk s true = .ok () := by
  have : s.ctx.out.any (·.acq) = false := by simpa [List.any_eq_false] using h
  simp [orderOk, this, hl, hr]

/-! ### Shapes of scalar arithmetic -/

theorem regReg_ok (f : Word → Word → Word) {s : State} {d a b : SReg} (ha : Readable s a) (hb : Readable s b)
    (hd : Present s d) : regReg f d a b s = .ok ((s.setReg d (f (s.val a) (s.val b))).advance 1) := by
  simp [regReg, readReg_ok ha, readReg_ok hb, destFree_ok hd]

theorem regVal_ok (f : Word → Word → Word) {s : State} {d a : SReg} (k : Word) (n : Nat) (ha : Readable s a)
    (hd : Present s d) : regVal f d a k n s = .ok ((s.setReg d (f (s.val a) k)).advance n) := by
  simp [regVal, readReg_ok ha, destFree_ok hd]

theorem regSet_ok {s : State} {d : SReg} (v : Word) (n : Nat) (hd : Present s d) :
    regSet d v n s = .ok ((s.setReg d v).advance n) := by
  simp [regSet, destFree_ok hd]

/-- A register operation writes its destination and moves on, waits for a register, or comes to a BAR_OVER. -/
theorem regReg_cases (f : Word → Word → Word) (d a b : SReg) (s : State) :
    regReg f d a b s = .ok ((s.setReg d (f (s.val a) (s.val b))).advance 1) ∨ (∃ k, regReg f d a b s = .error (.stall k))
      ∨ (regReg f d a b s = .error .barOver ∧ s.ctx.inh = false ∧ s.ctx.bops ≠ []) := by
  simp only [regReg]
  rcases readReg_cases s a with h | ⟨h, -⟩ | ⟨h, h'⟩ <;> rw [h]
  · rcases readReg_cases s b with g | ⟨g, -⟩ | ⟨g, g'⟩ <;> rw [g]
    · rcases destFree_cases s d with k | ⟨k, -⟩ <;> rw [k]
      · exact .inl rfl
      · exact .inr (.inl ⟨_, rfl⟩)
    · exact .inr (.inl ⟨_, rfl⟩)
    · exact .inr (.inr ⟨rfl, g'⟩)
  · exact .inr (.inl ⟨_, rfl⟩)
  · exact .inr (.inr ⟨rfl, h'⟩)

/-- The same for one register and a value. -/
theorem regVal_cases (f : Word → Word → Word) (d a : SReg) (k : Word) (n : Nat) (s : State) :
    regVal f d a k n s = .ok ((s.setReg d (f (s.val a) k)).advance n) ∨ (∃ c, regVal f d a k n s = .error (.stall c))
      ∨ (regVal f d a k n s = .error .barOver ∧ s.ctx.inh = false ∧ s.ctx.bops ≠ []) := by
  simp only [regVal]
  rcases readReg_cases s a with h | ⟨h, -⟩ | ⟨h, h'⟩ <;> rw [h]
  · rcases destFree_cases s d with g | ⟨g, -⟩ <;> rw [g]
    · exact .inl rfl
    · exact .inr (.inl ⟨_, rfl⟩)
  · exact .inr (.inl ⟨_, rfl⟩)
  · exact .inr (.inr ⟨rfl, h'⟩)

/-- The same for a value that no register gives. -/
theorem regSet_cases (d : SReg) (v : Word) (n : Nat) (s : State) :
    regSet d v n s = .ok ((s.setReg d v).advance n) ∨ (∃ c, regSet d v n s = .error (.stall c)) := by
  simp only [regSet]
  rcases destFree_cases s d with g | ⟨g, -⟩ <;> rw [g]
  · exact .inl rfl
  · exact .inr ⟨_, rfl⟩

/-! ### Packets -/

/-- Sending leaves everything but the fabric state of the sender's core, the packets in flight and the numbers. -/
theorem send_ctx (s : State) (l : Letter) : (send s l).1.ctx = s.ctx := by
  have key : ∀ (u : State) (f : Fab), (u.modCore l.src (fun c => { c with fab := f })).ctx = u.ctx := by
    intro u f
    simp only [State.ctx, State.ctxOf, State.modCore_cur, State.modCore_core]
    split
    · rename_i h; rw [h]; cases u.cur.hv <;> rfl
    · rfl
  simp only [send]
  exact key _ _

@[simp] theorem send_ids (s : State) (l : Letter) : (send s l).1.ids = s.ids + 1 := rfl

@[simp] theorem send_id (s : State) (l : Letter) : (send s l).2 = s.ids := rfl

/-- A packet that was sent is the last in flight, with the body and ends of its letter. -/
theorem send_net (s : State) (l : Letter) :
    ∃ p : Packet, (send s l).1.net = s.net ++ [p] ∧ p.id = s.ids ∧ p.src = l.src ∧ p.dst = l.dst ∧ p.vn = l.vn
      ∧ p.launch = l.launch ∧ p.body = l.body ∧ p.ord = l.ord ∧ p.rel = l.rel ∧ p.trim = false :=
  ⟨_, rfl, rfl, rfl, rfl, rfl, rfl, rfl, rfl, rfl, rfl⟩

end Sys2Proof.Machine
end

