-- ==== Sys2Proof/Machine/Loader.lean ====
section
/-! DEFINITION. What the assembler and the loader make of a program, as far as memory sees it: the packing of a function into lines
(R48), relocations and RELOC_RANGE (R49, R50), the places of sections (R327), the page entries of code and data (R368), and the
descriptor of .launch (R47, R303). No instruction uses this file. -/

namespace Sys2Proof.Machine

open Sys2Proof

/-! ### Lines (R33, R48) -/

/-- An instruction of a function: its words, and whether a label makes it a target. -/
structure Placed where
  words  : List Word32
  target : Bool
  deriving DecidableEq, Repr

/-- Bits of the word offsets, from payload word 0 on, of the instructions that satisfy a test. -/
def markBits (p : Placed → Bool) : Nat → List Placed → Nat
  | _, [] => 0
  | off, i :: rest => (if p i then 2 ^ off else 0) + markBits p (off + i.words.length) rest

/-- A code line with its two header words; unused words are zero. -/
def codeLine (head closed : Bool) (is : List Placed) : List Word32 :=
  let ws := is.flatMap (·.words)
  let h1 := markBits (·.target) 0 is + (if closed then 2 ^ 30 else 0) + (if head then 2 ^ 31 else 0)
  let h0 := markBits (fun _ => true) 0 is + 2 ^ 30
  let par := (popc 32 h0 + popc 32 h1) % 2
  BitVec.ofNat 32 (h0 + par * 2 ^ 31) :: BitVec.ofNat 32 h1 :: ws ++ List.replicate (30 - ws.length) 0

/-- Instructions split into lines: a new line begins where the next one does not fit. -/
def splitLines : List Placed → List Placed → List (List Placed)
  | cur, [] => [cur]
  | cur, i :: rest =>
    if (cur.flatMap (·.words)).length + i.words.length ≤ 30 then splitLines (cur ++ [i]) rest
    else cur :: splitLines [i] rest

/-- A call, after which control returns to the next instruction (R48, R120). -/
def isCall : Instr → Bool
  | .call .. | .callLit .. | .callr .. => true
  | _ => false

/-- The instructions of a function with their targets: the entry, what labels name, and what follows a call (R48). -/
def markTargets : Bool → List (Instr × Bool) → List Placed
  | _, [] => []
  | after, (i, label) :: rest => ⟨encode i, after || label⟩ :: markTargets (isCall i) rest

/-- A function's lines: HEAD on the first, CLOSED on the last (R47, R48). -/
def packFunc (is : List (Instr × Bool)) : List (List Word32) :=
  let ls := splitLines [] (markTargets true is)
  ls.zipIdx.map (fun p => codeLine (p.2 == 0) (p.2 + 1 == ls.length) p.1)

/-! ### Relocations (R49, R50) -/

/-- The relocations that jexasm leaves. LINE7 has the distance in lines and the target word. -/
inductive Reloc where
  | line7 (word : Nat) | lit64 | imm16s | off13 | loff16 (lo : Nat)
  deriving DecidableEq, Repr

/-- A value fits its field (R49). -/
def Reloc.fits (r : Reloc) (v : Int) : Bool :=
  match r with
  | .line7 w => -64 ≤ v && v ≤ 63 && 2 ≤ w && w ≤ 31
  | .lit64 => -(2 ^ 63 : Int) ≤ v && v < (2 ^ 64 : Int)
  | .imm16s => -32768 ≤ v && v ≤ 32767
  | .off13 => -4096 ≤ v && v ≤ 4095
  | .loff16 _ => 0 ≤ v && v ≤ 0xFFFF

/-- The low bits of an integer. -/
def lowBits (n : Nat) (v : Int) : Nat := (v % (2 ^ n : Int)).toNat

/-- An instruction's words as one number with a value in the field: delta and word at [31:20] of word 0 (R42), the literal in
words 1 and 2, imm16 at [31:16] (R21), OFF at [28:16] (R23), and a 16-bit X field at its bit. -/
def Reloc.put (r : Reloc) (n : Nat) (v : Int) : Nat :=
  match r with
  | .line7 w => putBits (putBits n 25 7 (lowBits 7 v)) 20 5 w
  | .lit64 => putBits n 32 64 (lowBits 64 v)
  | .imm16s => putBits n 16 16 (lowBits 16 v)
  | .off13 => putBits n 16 13 (lowBits 13 v)
  | .loff16 lo => putBits n lo 16 (lowBits 16 v)

/-- Words of an instruction as a number, word 0 lowest. -/
def wordsNat : List Word32 → Nat
  | [] => 0
  | w :: ws => w.toNat + 2 ^ 32 * wordsNat ws

/-- A relocation of one instruction; none is RELOC_RANGE. -/
def relocate (ws : List Word32) (r : Reloc) (v : Int) : Option (List Word32) :=
  if r.fits v then some (wordsOf ws.length (r.put (wordsNat ws) v)) else none

/-- A load resolves every relocation or fails as a whole (R50). -/
def relocateAll : List (List Word32 × Reloc × Int) → Option (List (List Word32))
  | [] => some []
  | (ws, r, v) :: rest =>
    match relocate ws r v, relocateAll rest with
    | some x, some xs => some (x :: xs)
    | _, _ => none

/-! ### Sections and pages (R327, R368) -/

/-- The first address at or above `at_` that suits a section whose largest .align is `align`, a power of two (R327). -/
def sectionPlace (at_ align : Nat) : Nat :=
  let k := Nat.max 128 align
  (at_ + k - 1) / k * k

/-- A leaf entry for a 64 KiB page (R57, R368): code, or global data with the race check that the load request names. -/
def loadedPage (code rchk : Bool) (frame key : Nat) : Word :=
  let b (x : Bool) (i : Nat) : Nat := if x then 2 ^ i else 0
  BitVec.ofNat 64 (3 + 4 + b (!code) 3 + b code 4 + frame / 65536 % 2 ^ 23 * 65536 + b (!code && rchk) 46 + key % 4096 * 2 ^ 52)

/-- The descriptor of .launch (R47, R303): a rectangle, no table, LQ 6. -/
def launchDesc (entry : Word) (x y w h budget : Nat) : List Byte :=
  natLe 64 (entry.toNat + x % 256 * 2 ^ 128 + y % 128 * 2 ^ 136 + (w - 1) % 256 * 2 ^ 144 + (h - 1) % 256 * 2 ^ 152
    + budget % 2 ^ 64 * 2 ^ 320 + 6 * 2 ^ 460)

end Sys2Proof.Machine
end

