-- ==== Sys2Proof/Tests/Slice0.lean ====
section
/-! SUPPORT. The model's own tests. First, terms that are not well formed, one for each check; then the words of the examples of
the specification, decoded; then, for every obligation with hypotheses, states that meet them, clause by clause; then single steps
with results worked out by hand from the rules. -/

open Sys2Proof Sys2Proof.Machine

set_option Elab.async false

/-! ### Terms that the checks of well-formedness refuse (R23..R32, R41) -/

theorem test_wf_fields : Instr.wf (.bext 1 2 60 4) = false ∧ Instr.wf (.bins 1 2 63 1) = false ∧ Instr.wf (.bext 1 2 60 3) = true := by
  decide

theorem test_wf_target_words : Instr.wf (.b 0 1) = false ∧ Instr.wf (.bc .eq 1 2 0 0) = false ∧ Instr.wf (.call 1 0 1) = false
    ∧ Instr.wf (.cont 1 0 1) = false ∧ Instr.wf (.b 0 2) = true := by decide

theorem test_wf_zero_conditions : Instr.wf (.bc .z 1 2 0 2) = false ∧ Instr.wf (.bc .nz 1 0 0 1) = false
    ∧ Instr.wf (.bcLit .z 1 2 8) = false ∧ Instr.wf (.bcLit .nz 1 2 8) = false := by decide

theorem test_wf_literal_targets : Instr.wf (.bLit 4) = false ∧ Instr.wf (.callLit 1 9) = false ∧ Instr.wf (.contLit 1 128) = false
    ∧ Instr.wf (.bcLit .lt 1 2 10) = false ∧ Instr.wf (.bLit 8) = true := by decide

theorem test_wf_register_ranges : Instr.wf (.send 13 1 2 4) = false ∧ Instr.wf (.send 0 1 2 5) = false
    ∧ Instr.wf (.sendLit 3 1 0 8) = false ∧ Instr.wf (.svc 1 13 4) = false ∧ Instr.wf (.svc 1 2 0) = false
    ∧ Instr.wf (.svc 1 0 5) = false ∧ Instr.wf (.send 12 1 2 4) = true := by decide

theorem test_wf_atomic_loads : Instr.wf (.amo .ld false .none 1 2 3) = false ∧ Instr.wf (.amo .ld false .rel 1 2 0) = false
    ∧ Instr.wf (.amol .ld true .ar 1 2 0) = false ∧ Instr.wf (.amoLit .ld false .none 1 2 8) = false
    ∧ Instr.wf (.amolLit .ld false .none 1 2 8) = false ∧ Instr.wf (.amol .ld true .acq 1 2 0) = true := by decide

theorem test_wf_reeds : Instr.wf (.rset 1 2 0 0 .e false false 0 1) = false ∧ Instr.wf (.rset 1 2 0 0 .e false true 1 1) = false
    ∧ Instr.wf (.rset 1 2 0 0 .e false false 1 16) = false ∧ Instr.wf (.rfeed 1 2 3 0 0 .e 0 0 9 7) = false
    ∧ Instr.wf (.tarm 1 false 0 0 9 7 false) = false ∧ Instr.wf (.tarm 1 true 0 1 0 0 false) = false
    ∧ Instr.wf (.rfeed 1 2 3 0 0 .e 0 0 8 7) = true := by decide

theorem test_wf_tiles : Instr.wf (.tcfg 0 .i32 true) = false ∧ Instr.wf (.tcfg 0 .bf16 true) = true
    ∧ Instr.wf (.tdrain 1 2 3 0 9 15 0 0 0 0) = false ∧ Instr.wf (.tdrain 1 2 0 0 10 9 0 0 0 0) = false
    ∧ Instr.wf (.tdrain 1 2 0 0 10 15 5 0 0 0) = false ∧ Instr.wf (.tdrain 1 2 3 0 10 10 0 5 0 0) = false
    ∧ Instr.wf (.tdrain 1 2 0 0 10 15 0 0 32 0) = false ∧ Instr.wf (.tdrain 1 2 3 0 10 10 0 0 0 32) = false
    ∧ Instr.wf (.tdrain 1 2 3 0 10 15 0 0 0 0) = false ∧ Instr.wf (.tdrain 1 2 0 0 10 15 0 0 0 0) = true := by decide

theorem test_wf_conversions : Instr.wf (.vnnz 1 2 13) = false ∧ Instr.wf (.vcvt 1 2 0 9 10 0 false) = false
    ∧ Instr.wf (.vcvt 1 2 0 10 13 0 false) = false ∧ Instr.wf (.vcvt 1 2 0 10 10 5 false) = false
    ∧ Instr.wf (.vcvt 1 2 4 2 10 0 false) = false ∧ Instr.wf (.vcvt 1 2 3 2 10 0 false) = true
    ∧ Instr.wf (.vq 1 2 1 2 10 0 false) = false ∧ Instr.wf (.vq 1 13 3 2 10 0 false) = false
    ∧ Instr.wf (.vq 1 0 3 9 10 0 true) = false ∧ Instr.wf (.vq 1 0 3 7 10 0 false) = false
    ∧ Instr.wf (.vq 1 0 3 2 11 0 false) = false ∧ Instr.wf (.vq 1 0 3 2 10 5 false) = false
    ∧ Instr.wf (.vscale 1 2 3 11 0 false) = false ∧ Instr.wf (.vscale 1 2 3 10 5 false) = false := by decide

theorem test_wf_others : Instr.wf (.vcord 1 2 .sin 3) = false ∧ Instr.wf (.vcord 1 2 .sin 31) = false
    ∧ Instr.wf (.sopen 1 2 .one 1 0 false) = false ∧ Instr.wf (.launch 1 2 3 1) = false ∧ Instr.wf (.launch 1 2 3 6) = false
    ∧ Instr.wf (.tlbi true .dev 1 2) = false ∧ Instr.wf (.tlbv true .dev 2) = false ∧ Instr.wf (.vcord 1 2 .sin 30) = true := by
  decide

/-! ### Words of the specification's examples -/

theorem test_decode_arithmetic : decode [0x14065404] = .ok (.div 4 5 6) ∧ decode [0x00FF4318] = .ok (.andi 3 4 0xFF)
    ∧ decode [0x00043224] = .ok (.shli 2 3 4) ∧ decode [0x2030210C] = .ok (.bext 1 2 8 3)
    ∧ decode [0x02000534] = .ok (.lea 5 0x200) := by decide

theorem test_decode_control : decode [0xFE621340] = .ok (.bc .lt 1 2 (-1) 6) ∧ decode [0x06200F44] = .ok (.call 15 3 2)
    ∧ decode [0x00006F48] = .ok (.callr 15 6) ∧ decode [0x08000048] = .ok .done ∧ decode [0x00C0404C] = .ok (.cont 4 0 12)
    ∧ decode [0x04100450] = .ok (.nget 4 .w) ∧ decode [0x00221454] = .ok (.send 4 1 2 2) := by decide

theorem test_decode_global : decode [0x60101390] = .ok (.ldg 3 1 .d 16) ∧ decode [0x00209098] = .ok (.ldgV 16 2 2)
    ∧ decode [0x01CCB69C] = .ok (.amo .add true .none 6 11 12) := by decide

theorem test_decode_local : decode [0x40081360] = .ok (.ldl 3 1 .w 8) ∧ decode [0x00209068] = .ok (.ldlV 16 2 2)
    ∧ decode [0x0810216C] = .ok (.stpN 1 2 0 true) ∧ decode [0x01878670] = .ok (.amol .add false .none 6 8 7)
    ∧ decode [0x000BA982, 0x40000000, 0] = .ok (.cpy 9 10 11 .glob .loc) ∧ decode [0x00009384] = .ok (.cwait 3 9)
    ∧ decode [0x10203074] = .ok (.qpub 2 0 3) := by decide

theorem test_decode_reeds : decode [0x000043A2, 0x00010001, 1] = .ok (.rset 3 4 1 0 .e false false 1 1)
    ∧ decode [0x000765A6, 0x00010400, 0x400] = .ok (.rfeed 5 6 7 1 0 .w 0 0 0 1)
    ∧ decode [0x000002AE, 0, 0x600] = .ok (.tarm 2 false 0 0 0 1 true) ∧ decode [0x000001A8] = .ok (.rstat 1 .e)
    ∧ decode [0x041000A8] = .ok (.rcancel .w) ∧ decode [0x000321B0] = .ok (.pload 1 2 3 .e)
    ∧ decode [0x041054B0] = .ok (.pnnz 4 5 .w) := by decide

theorem test_decode_tiles : decode [0x006100B4] = .ok (.tcfg 2 .bf16 true) ∧ decode [0x041000B4] = .ok (.tzero 1)
    ∧ decode [0x0E0400BC] = .ok (.vfma 0 16 32) ∧ decode [0x086144C0] = .ok (.vcmpLt 4 5 6)
    ∧ decode [0x0C2C05C4] = .ok (.vnnz 5 48 2) ∧ decode [0x001420CA, 0x2A100000, 0] = .ok (.vcvt 32 16 1 2 10 0 true)
    ∧ decode [0x070020CA, 0x2A100000, 0] = .ok (.vq 32 0 48 2 10 0 true)
    ∧ decode [0x0B0410CA, 0xAA000000, 0] = .ok (.vscale 16 16 48 10 0 false)
    ∧ decode [0x000081CE, 0x18000000, 0] = .ok (.vcord 1 2 .sin 24)
    ∧ decode [0x000321BA, 0x04800000, 0x3000] = .ok (.tdrain 1 2 3 0 1 2 0 0 0 0x3000) := by decide

theorem test_decode_streams : decode [0x000021D2, 0x40D80000, 0] = .ok (.sopen 1 2 .row 3 3 false)
    ∧ decode [0x000654D4] = .ok (.ssend 4 5 6 false) ∧ decode [0x041000D4] = .ok (.sclose true)
    ∧ decode [0x000321D8] = .ok (.bred .add .f32 1 2 3) ∧ decode [0x040301D8] = .ok (.bbar 1 3)
    ∧ decode [0x000054E0] = .ok (.bjoin 4 5) ∧ decode [0x040654E0] = .ok (.barv 4 5 6) ∧ decode [0x080654E0] = .ok (.bdrop 4 5 6)
    ∧ decode [0x0C0650E0] = .ok (.bexp 5 6) ∧ decode [0x100654E0] = .ok (.bwait 4 5 6) ∧ decode [0x140650E0] = .ok (.binit 5 6)
    ∧ decode [0x00B000F8] = .ok (.fence .rel .dev) := by decide

theorem test_decode_tasks : decode [0x00163EE4] = .ok (.spawnPark 14 3 6) ∧ decode [0x0400E0E4] = .ok (.join 0 14)
    ∧ decode [0x080694E4] = .ok (.await 4 9 6) ∧ decode [0x0C0654E4] = .ok (.migrate 4 5 6) ∧ decode [0x100004E4] = .ok (.yield 4)
    ∧ decode [0x000321EA, 0x20000000, 0] = .ok (.launch 1 2 3 2) ∧ decode [0x000010F0] = .ok (.lend 1)
    ∧ decode [0x040000F0] = .ok .reclaim ∧ decode [0x080000F0] = .ok .hvon ∧ decode [0x0C0000F0] = .ok .hvoff := by decide

theorem test_decode_system : decode [0x005000F4] = .ok (.trap 5) ∧ decode [0x04000DF4] = .ok (.rte 13)
    ∧ decode [0x091001F4] = .ok (.csrr 1 0x011) ∧ decode [0x103210F4] = .ok (.tlbi false .dev 1 2) ∧ decode [0x180000F4] = .ok .halt
    ∧ decode [0x1C2043F4] = .ok (.svc 3 4 2) ∧ decode [0x0A1001F4] = .ok (.csrr 1 0x021) ∧ decode [0x0A2002F4] = .ok (.csrr 2 0x022) := by
  decide

/-- The literal of a three-word form (R22, R24): its low word comes first. -/
theorem test_decode_literal : decode [0x00002105, 0x89ABCDEF, 0x01234567] = .ok (.addLit 1 2 0x0123456789ABCDEF) := by decide

/-- Reserved encodings are refused by name: an unassigned SEL, a field that must be zero, and LEN 0b11 (R40, R41). -/
theorem test_decode_refuses : decode [0x64000004] = .error .selUnassigned ∧ decode [0x08000148] = .error .fieldNotZero
    ∧ decode [0x00002107, 0, 0] = .error .litRefused := by decide

/-! ### Small states for the witnesses and the single steps -/

namespace T

/-- A task of launch 1 on channel 2. -/
def task : Task := { launch := 1, chan := 2, akind := 0, aid := 0, frame := 0x30000, excl := false, loanLost := false }

/-- A launch of cores 0, 1 and 256. -/
def launch : Launch :=
  { num := 1, by_ := .host, obj := 0, parent := 0, root := 0, qarea := 0xFFFF800000010000, ttab := 0xFFFF800000004000, lq := 6,
    cls := 2, place := [0, 1, 256], entry := 0x10008, ebud := 0, energy := 0, live := true, bells := [] }

/-- A core of the launch; the owner of core 0 runs its task at word 2 of the line at 0x10000. -/
def idle : Core := { Core.reset with launch := 1 }
def busy : Core := { idle with owner := { Ctx.reset with task := some task, pc := 0x10008 } }

/-- An empty queue, mapped. -/
def queue (n idx : Nat) : Nat × QSlot := (n, ⟨⟨1, idx⟩, 0, 0, 0, 0, none⟩)

/-- The part started, with core 0 issuing and the queues of its cores mapped. -/
def st : State :=
  { State.reset with cores := [(0, busy), (1, idle), (256, idle)], launches := [launch], now := 1000, time := 50000,
                     slices := [(0, { Slice.reset with slots := [queue 0 0, queue 1 1, queue 2 2, queue 3 8, queue 4 10, queue 5 26] })],
                     crust := { Crust.reset with step := 10 } }

/-- A register of the issuing context with a value. -/
def reg (r : SReg) (v : Word) (s : State) : State := s.setReg r v

/-- A line of two targets, with HEAD and CLOSED, and its page for code of launch 1. -/
def line : Line := { addr := 0x10000, state := .ok, words := codeLine true true [⟨[wd 0x08000048], true⟩, ⟨[wd 0x08000048], true⟩, ⟨[wd 0x08000048], false⟩] }
def page : TlbEntry :=
  { base := 0x10000, lvl := 0, launch := 1, pte := 0, frame := 0x40000, key := 1, mig := false, rchk := false, rd := true, wr := true,
    ex := true, dirty := true }

/-- The same part with the line cached, and with the page in the TLBs. -/
def code (l : Line) (s : State) : State :=
  s.modMe (fun c => { c with itlb := [page], dtlb := [page], owner := { c.owner with icache := [l] } })

/-- An access of the issuing context that is outstanding. -/
def out : Out :=
  { id := 7, tag := some (false, 0), dest := .none, load := false, store := true, acq := false, home := .die 0, epc := 0x10000, addr := 0,
    handler := false, serial := false }

/-- A packet from core 1's owner to core 0. -/
def pkt (b : Body) : Packet :=
  { id := 5, who := .ctx false, src := 1, dst := 0, vn := 1, launch := 1, seq := 0, trim := false, retx := false, ord := false, e := false,
    rel := false, req := 5, body := b, iseq := 0, tag := 0, at_ := .arrived, esc := false }

/-- The part with one packet in flight. -/
def flying (b : Body) : State := { st with net := [pkt b] }

/-- The part with bytes written to core 0's local memory under its launch, and with bytes of HBM under a key. -/
def local_ (off : Nat) (bs : List Byte) (s : State) : State := lmWrite s 0 off 1 bs
def label (pa va key : Nat) (phys : Bool) (n : Nat) (s : State) : State :=
  { s with hbm := { s.hbm with labels := (granules pa n).foldl (fun l g => mset l g (labelOf s key (va + (g * 32 - pa) - (pa - g * 32)) phys)) s.hbm.labels } }
def hbm (pa va key : Nat) (bs : List Byte) (s : State) : State := hbmWrite (label pa va key false bs.length s) pa va key false bs

/-- Core 0 under another owner context. -/
def owner (f : Ctx → Ctx) (s : State) : State := s.modCtxOf 0 false f

/-- Tables that give the upper half its first gigabyte at physical address 0. -/
def ent (pa n : Nat) (s : State) : State := hbmWrite (label pa pa 0 true 8 s) pa pa 0 true (natLe 8 n)
def tables (s : State) : State :=
  ent 0x2000 0x10F (ent 0x1800 0x2001 { s with crust := { s.crust with sysRoot := 0x1000 } })

/-- Bytes of the upper half of that gigabyte. -/
def upper (off : Nat) (bs : List Byte) (s : State) : State :=
  hbmWrite (label off (0xFFFF800000000000 + off) 0 false bs.length s) off (0xFFFF800000000000 + off) 0 false bs


/-- A layout record of one element of eight bytes at `base`. -/
def rec8 (base : Nat) : Nat := leNat (natLe 8 base ++ List.replicate 16 0 ++ [1, 0, 1, 0, 1, 0, 1, 0, 0, 0, 0, 0, 3] ++ List.replicate 11 0)

/-- Two records, at 0x100 and 0x140, in the launch's keystream. -/
def recs (a b : Nat) (s : State) : State := local_ 0x140 (natLe 48 (rec8 b)) (local_ 0x100 (natLe 48 (rec8 a)) s)

/-- Core 0's copies. -/
def ops (f : Core → Core) (s : State) : State := s.modCore 0 f

/-- A parked record at 0x40 whose JOIN is `j`. -/
def parked (j : Nat) (b : Body) : State := local_ 0x40 ({ endRecord task st.ctx.regs 0 0x10008 with join := BitVec.ofNat 32 j }).bytes (flying b)

/-- A walk for core 0's owner. -/
def walkOf : Walk := ⟨0, .ctx false, ⟨0xFFFF800000000040, .rd, 0x40, none, none⟩, .start⟩

/-- A place in HBM at physical address `pa` under the key and the address of the page of code. -/
def place (pa : Nat) : GLoc := { pa := pa, va := pa, key := 1, rchk := true, phys := false }

/-- A request for HBM in flight, over 64 bytes at 0x40000 that stand under its key. -/
def dieSt (b : Body) : State := hbm 0x40000 0x40000 1 (List.replicate 64 5) (flying b)

/-- A door operation in flight over a 32-byte object at 0x40 of core 0. -/
def doorSt (n : Nat) (b : Body) : State := local_ 0x40 (natLe 32 n) (flying b)

/-- A ring descriptor: BASE 0x3000, four slots of 64 bytes, two producers of whom p 0 is bound, RES 1, CON 0, nothing ready. -/
def ring : Nat := 0x3000 + 2 * 2 ^ 16 + 6 * 2 ^ 20 + 2 * 2 ^ 24 + 2 ^ 32 + 2 ^ 64 + (2 ^ 64 - 1) * 2 ^ 128

/-- A barrier object: NEXT 2, ARRIVED 1, EXPECTED 2, PHASE 3, TX 0. -/
def barrier : Nat := 2 * 2 ^ 112 + 2 ^ 128 + 2 * 2 ^ 144 + 3 * 2 ^ 160

/-- An answer in flight to core 0's owner, for an access with a destination. -/
def reply (d : Dest) (serial : Bool) (b : Body) : State :=
  owner (fun c => { c with out := [{ out with id := 5, dest := d, serial := serial }] }) (flying b) |> fun s =>
    { s with net := [{ pkt b with src := 1, dst := 0, vn := 2 }] }

/-- A copy of eight bytes from another core's memory to 0x300, all moved. -/
def cop : CopyOp :=
  { op := 3, hv := false, sup := false, launch := 1, fork := 0, work := .copy .plain .peer .loc (LRec.ofNum (rec8 0x10200)) (LRec.ofNum (rec8 0x300)),
    obj := 0x200, fin := 1, elems := [], credited := 0, credit := none, wrote := [], failed := none, running := true }

/-- Reed 0, east of core 0, with the commands of its two sides, its latch, its run and its output buffer. -/
def reed (f : Reed → Reed) (s : State) : State := { s with reeds := [(0, f Reed.reset)] }

def lcmd : LoadCmd := { gen := 1, fmt := 2, uses := 1, ncol := 1, sp := false, tr := false, cols := 0x400, scl := 0x800, obj := 0x200, bind := none }
def fcmd : FeedCmd := { gen := 1, fmt := 2, kb := 0, sink := 1, tile := 2, row0 := 0, m := 1, cols := 0x1000, scl := 0x1400, obj := 0x208 }
def rc (core : Nat) (b : LoadCmd ⊕ FeedCmd) : RCmd := { core := core, launch := 1, id := 9, body := b, waited := 0, since := none }
def latch (st : LState) : Latch := { Latch.reset with state := st, side := false, core := 0, launch := 1, cmd := lcmd, left := 1 }
def bind0 : Binding :=
  { prog := [], par := [], md := [], nrow := 2, ncol := 2, inv := true, cols := [[0, 1], [1]], launch := 1 }
def arm0 : Arm :=
  { id := 4, wide := false, tile := 2, row0 := 0, m := 1, kbn := 1, ovw := false, ty := .i32, next := [0], obj := 0x200, made := 0, launch := 1 }
def del0 : Delivery :=
  { reed := 0, slot := 0, sink := 1, tile := 2, row := 0, kb := 0, wide := false, sat := true, int := true, lanes := [1, 2], launch := 1 }
def run0 : Product := { cmd := rc 1 (.inr fcmd), feed := fcmd, started := 0, computed := 0, accepted := 0, row := none }
def read_ {α β : Type} (r : α × Except β (List Byte)) : Bool :=
  match r.2 with
  | .ok _ => true
  | .error _ => false

/-- A program of `full` at 0x400 and its parameters of 64 rows and four columns at 0x440. -/
def pat : State :=
  reg 2 0x440 (reg 1 0x400 (local_ 0x440 (natLe 64 (64 + 3 * 2 ^ 16)) (local_ 0x400 (natLe 64 0x38000000) st)))

/-- A stream from core 0 to core 1, set up as far as its last link, whose handle 0 at core 1 is a consumer's of the ring at 0x40. -/
def strm (st : StreamState) : Stream :=
  { id := 3, core := 0, port := 0, launch := 1, dests := [1], path := [0], hnd := 0, state := st, reserved := 1, released := 0, waited := 0,
    since := none, prods := [(0, some 1)], slots := [], arrived := [], done := [], failed := none, out := 5 }

/-- The stream with one of its packets in flight, and a ring with both producers registered at its destination. -/
def streamSt (x : Stream) (b : Body) : State :=
  let s := lmWrite { st with streams := [x], net := [{ pkt b with src := 0, dst := 1, vn := 3 }] } 1 0x40 1 (natLe 32 (ring + 2 ^ 25))
  s.modCtxOf 1 false (fun c => { c with handles := c.handles.set 0 (.consumer 0x10040 0x3000 6 2) })

/-- Core 0's port 0 open on the stream. -/
def port0 (q : List PortCmd) (v : Option PortCmd) (s : State) : State := s.modCore 0 (fun c => { c with ports := c.ports.set 0 ⟨some 3, none, q, v⟩ })
def isRing (d : DestRing) : Bool :=
  match d with
  | .ring .. => true
  | _ => false

/-- A bred of cores 0 and 1 to which both have come, with core 0's buffer at 0x400 and its object at 0x200. -/
def mem (cn id : Nat) (bar : Bool) (v : Option (Except Cause (List Byte))) : Member :=
  { core := cn, id := id, hv := false, op := .add, ty := .i32, bar := bar, buf := 0x400, obj := 0x200, sent := v, done := false }
def bel (bar : Bool) (v : Option (Except Cause (List Byte))) (n : List NodeVal) : Bellows :=
  { op := 2, launch := 1, desc := 0x10000, nth := 0, cores := [0, 1], members := [mem 0 8 bar v, mem 1 9 bar v], nodes := n }
def belSt (b : Bellows) : State := { st with bellows := [b] }
def vec : List Byte := List.replicate 64 1

def ok_ {α β : Type} (r : Except β α) : Bool :=
  match r with
  | .ok _ => true
  | .error _ => false

/-- A control word of a spawn: mask of registers 1 and 4, channel 2, core 1, JOIN 2. -/
def ctl : Word := 0x0002000000420012

/-- A handler entry in the launch's trap table, and a context in a handler. -/
def table : State := upper 0x4070 (natLe 8 (2 ^ 47 + 0x10009)) (tables st)
def inHandler (s : State) : State := owner (fun c => { c with inh := true, mode := true }) s

/-- The part with one record in core 1's queue of channel 0, at slot 3 of its slice. -/
def queued : State :=
  { st with slices := [(0, { Slice.reset with slots := [(3, ⟨⟨1, 8⟩, 0, 1, 0, 0, none⟩)] })] }
def cr0 : CR := endRecord task Regs.reset 0 0x10008

/-- A descriptor: one core at x = y = 0, LQ 6, and a function entry in the upper half; and a host's request with it. -/
def desc : Nat := 0xFFFF800000010008 + 6 * 2 ^ 460
def lreq (n : Nat) : LReq := { id := 6, by_ := .host, launch := 0, desc := 0, bytes := natLe 64 n, obj := 0, cls := 2 }
def grant : Grant := { num := 3, root := 0x1000, qarea := 0xFFFF800000020000, ttab := 0xFFFF800000004000 }
def lineBytes : List Byte := line.words.flatMap (fun w => natLe 4 w.toNat)
def asked (n : Nat) : State := { upper 0x10000 lineBytes (tables st) with lreqs := [lreq n] }

def window : ExportWin := { off := 0x1000, len := 0x1000, va := 0xFFFF800000050000, launch := 1 }
def gw : State := { tables st with crust := { (tables st).crust with exports := [window] } }
def gram : Datagram := { dev := 2, seq := 3, off := 0, data := [1], sent := 0, pkts := [] }

/-- No request of the core is unperformed. -/
theorem clear {s : State} {off n : Nat} (h : unperformed s s.cur.core = []) : OwnDoorClear s off n := by
  intro q hq; rw [h] at hq; cases hq

end T

open T

/-! ### States that meet the hypotheses of the obligations -/

theorem test_meets_ScalarOperationResults : Readable st 1 ∧ Readable st 2 ∧ Readable st 3 ∧ Present st 4 := by
  unfold Readable Present NoBarAt; decide +kernel

theorem test_meets_ScalarOperationResults_fields : Readable st 1 ∧ Present st 4 ∧ Readable st 4 ∧ (0 : Fin 64).val + (63 : Fin 64).val < 64
    ∧ (63 : Fin 64).val + (0 : Fin 64).val < 64 := by
  unfold Readable Present NoBarAt; decide +kernel

theorem test_meets_ScalarFrameAndWait : (scalarDest (.add 1 2 3) = some 1 ∧ NoBar st ∧ st.ctx.overdue = false ∧ ∃ t, exec (.add 1 2 3) st = .next t)
    ∧ (let s := owner (fun c => { c with regs := c.regs.set 3 ⟨0, false⟩ }) st
       scalarReads (.add 1 2 3) = [2] ++ 3 :: [1] ∧ Present s 2 ∧ ¬ Present s 3 ∧ NoBar s ∧ s.ctx.overdue = false)
    ∧ (owner (fun c => { c with regs := c.regs.set 3 ⟨0, false⟩, stall := some ⟨some 3, 0, true⟩ }) st).ctx.overdue = true := by
  refine ⟨⟨rfl, ?_, ?_, _, rfl⟩, ?_⟩
  · unfold NoBar; decide +kernel
  · decide +kernel
  · unfold NoBar Present; decide +kernel

theorem test_meets_TargetReady : ∃ u, TargetReady (code line st) 0x10008 .target u ∧ TargetReady (code line st) 0x10008 .function u
    ∧ TargetReady (code line st) 0x10008 .start u ∧ ruleTarget (code line st).ctx.pc 0 2 = 0x10008 := by
  refine ⟨_, ⟨?_, ?_, ?_, _, rfl, ?_⟩, ⟨?_, ?_, ?_, _, rfl, ?_⟩, ⟨?_, ?_, ?_, _, rfl, ?_⟩, ?_⟩ <;> decide +kernel

theorem test_meets_BranchCallAndReturn : Readable (reg 1 5 st) 1 ∧ Readable st 2 ∧ Present st 15 ∧ ruleCond .ltu ((reg 1 5 st).val 2) ((reg 1 5 st).val 1)
    ∧ ¬ ruleCond .eq ((reg 1 5 st).val 1) ((reg 1 5 st).val 2) ∧ (reg 1 0x10008 (code line st)).val 1 = 0x10008 := by
  unfold Readable Present NoBarAt ruleCond; decide +kernel

theorem test_meets_TargetFaultOrder : Transfers st (.bLit 0x1000000000000) 0x1000000000000 .target ∧ isCanon 0x1000000000000 = false
    ∧ Transfers st (.bLit 0x10004) 0x10004 .target ∧ (0x10004 : Word).toNat / 4 % 32 < 2 ∧ isCanon 0x10004 = true
    ∧ fetchLine (code line st) 0xFFFF800000000008 0xFFFF800000000008 = .error (.trap .pageProt 0xFFFF800000000008) :=
  ⟨.bLit _, by decide +kernel, .bLit _, by decide, by decide +kernel, rfl⟩

theorem test_meets_TargetFaultOrder_lines :
    (∃ u x, fetchLine (code { line with state := .ecc } st) 0x10008 0x10008 = .ok (u, x) ∧ x.state = .ecc)
    ∧ (∃ u x, fetchLine (code { line with state := .malformed } st) 0x10008 0x10008 = .ok (u, x) ∧ x.state = .malformed)
    ∧ ∃ u x, fetchLine (code line st) 0x10010 0x10010 = .ok (u, x) ∧ x.state = .ok ∧ arriveOk .target x (0x10010 / 4 % 32) = false :=
  ⟨⟨_, _, rfl, rfl⟩, ⟨_, _, rfl, rfl⟩, _, _, rfl, rfl, by decide +kernel⟩

theorem test_meets_TaskEndByDoneAndCont : NoBar st ∧ Quiet st ∧ ¬ Quiet (owner (fun c => { c with out := [out] }) st)
    ∧ Readable (reg 4 0x8001 (code line st)) 4 ∧ (reg 4 0x8001 (code line st)).ctx.task = some task
    ∧ (∀ r : SReg, ((reg 4 0x8001 (code line st)).val 4).getLsbD r.val = true → Present (reg 4 0x8001 (code line st)) r)
    ∧ needRoom (reg 4 0x8001 (code line st)) (endRecord task st.ctx.regs 0x8001 0x10008) none = .ok () := by
  refine ⟨?_, ?_, ?_, ?_, ?_, ?_, rfl⟩ <;> (try unfold Readable) <;> (try unfold NoBarAt) <;> (try unfold Present) <;> (try unfold NoBar)
    <;> (try unfold Quiet) <;> decide +kernel

theorem test_meets_LaneInstructionsAndEvents : st.cur.hv = false ∧ nbr st.cur.core .e = some 1 ∧ st.placed st.myLaunch 1 = true ∧ Readable st 1
    ∧ StoreReady st ∧ 0 < (st.me.lane .e).credits ∧ Present st 1 ∧ LoadReady st ∧ (∀ g ∈ st.ctx.ngets, g.dir ≠ .e)
    ∧ (st.me.lane .e).buf = [] ∧ st.ctx.stop = false
    ∧ ((st.modMe (fun c => { c with lanes := c.lanes.set 0 { Lane.reset with buf := [⟨1, 1, 9⟩] } })).me.lane .e).buf = [⟨1, 1, 9⟩] := by
  unfold Readable Present NoBarAt StoreReady LoadReady; decide +kernel

theorem test_meets_MessageSendAndArrival : Readable (reg 1 1 (reg 2 0x10008 st)) 1 ∧ Readable (reg 1 1 (reg 2 0x10008 st)) 2
    ∧ (∀ i, i < (2 : Fin 8).val → Readable (reg 1 1 (reg 2 0x10008 st)) (Fin.ofNat 16 ((4 : SReg).val + i)))
    ∧ st.placed st.myLaunch ((reg 1 1 st).val 1).toNat = true ∧ StoreReady st ∧ st.ctx.sends < 8 ∧ canSend st st.cur.core 1 1 = true
    ∧ isCanon 0x10008 = true ∧ (0x10008 : Word).toNat % 4 = 0 ∧ 2 ≤ (0x10008 : Word).toNat / 4 % 32 := by
  unfold Readable Present NoBarAt StoreReady LoadReady; decide +kernel

theorem test_meets_MessageSendAndArrival_msg : ∃ u, (flying (.msg 0x10008 [3])).got 5 = some (pkt (.msg 0x10008 [3]))
    ∧ relWaits (flying (.msg 0x10008 [3])) (pkt (.msg 0x10008 [3])) = false
    ∧ messageBehind (flying (.msg 0x10008 [3])) (pkt (.msg 0x10008 [3])) = false
    ∧ ((flying (.msg 0x10008 [3])).launch 1).isSome
    ∧ post (flying (.msg 0x10008 [3])) (messageRecord (pkt (.msg 0x10008 [3])) 0x10008 [3]) 0 (some 1) = some u := by
  refine ⟨_, ?_, ?_, ?_, ?_, rfl⟩ <;> decide +kernel

theorem test_meets_PeerAccesses : Readable (reg 1 0x10000 st) 1 ∧ Readable st 2 ∧ Present st 3 ∧ LoadReady st ∧ StoreReady st
    ∧ SendReady st true 1 ∧ DatRoom st 1 ∧ PeerPlace st (0x1FFF8 : Nat) 8 ∧ PeerPlace st (0x1FFFF : Nat) 1 := by
  refine ⟨?_, ?_, ?_, ?_, ?_, ⟨⟨0, rfl⟩, ?_⟩, ?_, ?_, ?_⟩ <;> (try unfold Readable) <;> (try unfold DatRoom) <;> (try unfold NoBarAt) <;> (try unfold Present)
    <;> (try unfold StoreReady) <;> (try unfold LoadReady) <;> (try unfold PeerPlace) <;> decide +kernel

theorem test_meets_RingInstructions : StoreReady st ∧ SendReady st true (peerCore 0x10040) ∧ DatRoom st (peerCore 0x10040) ∧ Present st 1 ∧ Readable st 2
    ∧ (owner (fun c => { c with handles := c.handles.set 2 (.consumer 0x10040 0x3000 6 2) }) st).ctx.handles[(2 : HandleNo)]
        = .consumer 0x10040 0x3000 6 2
    ∧ (owner (fun c => { c with handles := c.handles.set 2 (.producer 0x10040 1 0x3000 6 2) }) st).ctx.handles[(2 : HandleNo)]
        = .producer 0x10040 1 0x3000 6 2
    ∧ PeerPlace st (0x40 : Nat) 32 ∧ peerCore 0x40 = st.cur.core ∧ ∀ o ∈ st.ctx.out, o.serial = false := by
  refine ⟨?_, ⟨⟨0, rfl⟩, ?_⟩, ?_, ?_, ?_, ?_, ?_, ?_, ?_, ?_⟩ <;> (try unfold Readable) <;> (try unfold DatRoom) <;> (try unfold NoBarAt) <;> (try unfold Present)
    <;> (try unfold StoreReady) <;> (try unfold LoadReady) <;> (try unfold PeerPlace) <;> decide +kernel

theorem test_meets_BarrierOperations : Readable (reg 1 0x10040 st) 1 ∧ StoreReady st ∧ SendReady st true (peerCore 0x10040)
    ∧ DatRoom st (peerCore 0x10040) ∧ PeerPlace st (0x10040 : Nat) 32 ∧ Present st 4 ∧ Readable st 2 := by
  refine ⟨?_, ?_, ⟨⟨0, rfl⟩, ?_⟩, ?_, ?_, ?_, ?_⟩ <;> (try unfold Readable) <;> (try unfold DatRoom) <;> (try unfold NoBarAt) <;> (try unfold Present)
    <;> (try unfold StoreReady) <;> (try unfold LoadReady) <;> (try unfold PeerPlace) <;> decide +kernel

theorem T.local_ready {s : State} {off n : Nat} (h : unperformed s s.cur.core = [])
    (a : areaOk s off n = true ∧ (s.me.board.all (fun r => decide (r.hi < off) || decide (off + n ≤ r.lo))) = true
      ∧ lmRace s s.cur.core off n s.cur.core s.myLaunch = false ∧ lmBadIn s s.cur.core off n = none) : LocalReady s off n :=
  ⟨a.1, clear h, a.2.1, a.2.2.1, a.2.2.2⟩

theorem test_meets_LocalLoadsAndStores : Readable (reg 1 0xFFF8 st) 1 ∧ Readable st 2 ∧ LoadReady st ∧ StoreReady st
    ∧ (0xFFF8 : Int) = ((reg 1 0xFFF8 st).val 1).toNat + (0 : BitVec 13).toInt ∧ 0xFFF8 % szBytes .d = 0
    ∧ OwnKeys (local_ 0xFFF8 [1, 2, 3, 4, 5, 6, 7, 8] st) 0xFFF8 8 ∧ RowPresent st 5 ∧ rowBarred st 5 = false ∧ st.ctx.units = none
    ∧ ¬ (((0 : Nat) : Int) + (-1 : BitVec 13).toInt) % (szBytes .d : Int) = 0 ∧ (((0 : Nat) : Int) + (-8 : BitVec 13).toInt) < 0
    ∧ (65536 : Int) < (0x10000 : Nat) + (0 : BitVec 13).toInt + szBytes .b ∧ Memory.wf (local_ 0 [1] st).me.lm.bytes = true := by
  unfold Readable NoBarAt Present StoreReady LoadReady OwnKeys RowPresent; decide +kernel

theorem test_meets_LocalLoadsAndStores_ready : LocalReady st 0xFFF8 8 ∧ LocalReady st 0xFFC0 64 :=
  ⟨local_ready rfl (by decide +kernel), local_ready rfl (by decide +kernel)⟩

theorem T.record_at {s : State} {off r : Nat} (h : unperformed s s.cur.core = [])
    (a : areaOk s off 48 = true ∧ (s.myLaunch ≠ 0 ∧ ∀ i, i < 48 → mget s.me.lm.keys (off + i) 0 = s.myLaunch)
      ∧ lmBadIn s s.cur.core off 48 = none ∧ recOk off r = true ∧ r = leNat (cellRead s.me.lm.bytes off 48)) : RecordAt s off r :=
  ⟨a.1, clear h, .inr a.2.1, a.2.2⟩

theorem test_meets_CopyInstructions :
    CopyReady (recs 0x10200 0x300 st) 0x200 0x100 0x140 .peer .loc .plain (rec8 0x10200) (rec8 0x300)
    ∧ CopyReady (recs 0x10200 0x300 st) 0x200 0x100 0x140 .peer .loc (.bar 1 0x40) (rec8 0x10200) (rec8 0x300)
    ∧ CopyReady (recs 0x10200 0x300 st) 0x200 0x100 0x140 .peer .loc (.gather 0xFFFC) (rec8 0x10200) (rec8 0x300)
    ∧ CopyReady (recs 0x10200 0x300 st) 0x200 0x100 0x140 .peer .loc (.scatter 0x400) (rec8 0x10200) (rec8 0x300) := by
  refine ⟨?_, ?_, ?_, ?_⟩ <;> refine ⟨?_, ?_, ?_, clear rfl, record_at rfl ?_, record_at rfl ?_, ?_, ?_, ?_, ?_, ?_, ?_, ?_, ?_, ?_, ?_⟩ <;>
    (try unfold StoreReady LoadReady) <;> first | decide +kernel | rfl

theorem test_meets_CopyInstructions_object : Readable (reg 1 0x200 st) 1 ∧ Present st 2 ∧ StoreReady st ∧ areaOk st (0x200 : Word).toNat 8 = true
    ∧ lmBadIn st 0 0x200 8 = none ∧ OwnKeys (local_ 0x200 (natLe 8 (2 ^ 56)) st) 0x200 8
    ∧ leNat (cellRead (local_ 0x200 (natLe 8 (2 ^ 56)) st).me.lm.bytes 0x200 8) / 2 ^ 56 ≠ 0
    ∧ OwnKeys (local_ 0x200 (natLe 8 0) st) 0x200 8 ∧ leNat (cellRead (local_ 0x200 (natLe 8 0) st).me.lm.bytes 0x200 8) / 2 ^ 56 = 0
    ∧ st.ctx.overdue = false ∧ (owner (fun c => { c with stall := some ⟨some 0x101, 0, true⟩ }) st).ctx.overdue = true := by
  unfold Readable NoBarAt Present OwnKeys StoreReady LoadReady; decide +kernel

theorem test_meets_CopyInstructions_clear : OwnDoorClear st 0x200 8 := clear rfl

theorem test_meets_GlobalInstructions : GlobalReady (code line st) (0x1FFF8 : Nat) 8 .rd page ∧ GlobalReady (code line st) (0x1FFC0 : Nat) 64 .w page
    ∧ GlobalReady (code line st) (0x10000 : Nat) 4 .w page ∧ SendReady (code line st) false (dieCore (page.loc 0x1FFF8).pa)
    ∧ SendReady (code line st) false (dieCore (page.loc 0x1FFC0).pa) ∧ DatRoom (code line st) (dieCore (page.loc 0x10000).pa)
    ∧ LoadReady (code line st) ∧ StoreReady (code line st)
    ∧ Present (code line st) 3 ∧ RowPresent (code line st) 5 ∧ rowBarred (code line st) 5 = false ∧ Readable (reg 1 0x1FFC0 (code line st)) 1 := by
  refine ⟨?_, ?_, ?_, ⟨⟨0, rfl⟩, ?_⟩, ⟨⟨0, rfl⟩, ?_⟩, ?_⟩ <;>
    (try dsimp only [GlobalReady, Readable, NoBarAt, Present, StoreReady, LoadReady, RowPresent, DatRoom]) <;> and_intros <;> first | decide +kernel | rfl

theorem test_meets_GlobalInstructions_pref : 18446744073709551616 ≤ ((reg 1 0xFFFFFFFFFFFFFFFF st).val 1).toNat + (1 : Word).toNat
    ∧ walkBusy (code line st) = false ∧ lookup (code line st) 0 1 0x10008 .rd = .hit page ∧ isCanon 0x10008 = true := by
  and_intros <;> first | decide +kernel | rfl

theorem test_meets_IntegerAndBitLaneOperations : RowReady st 0 ∧ RowReady st 17 ∧ RowReady st 63
    ∧ rowType (st.setTile 0 { Tile.reset with ty := .i8 }) 0 = .i8 ∧ rowType (st.setTile 0 { Tile.reset with ty := .i16 }) 0 = .i16
    ∧ rowType (st.setTile 0 { Tile.reset with ty := .i32 }) 0 = .i32 := by
  unfold RowReady RowPresent; decide +kernel

theorem test_meets_FloatingLaneOperations : RowReady st 0 ∧ RowReady st 1 ∧ RowReady st 2 ∧ rowType st 0 = .f32
    ∧ rowType (st.setTile 0 { Tile.reset with ty := .f16 }) 0 = .f16
    ∧ rowType (st.setTile 0 { Tile.reset with ty := .bf16 }) 0 = .bf16 ∧ st.me.tiles[(0 : VReg).val / 16].dnz = false := by
  unfold RowReady RowPresent; decide +kernel

theorem test_meets_FloatingLaneValues : (∀ ty ∈ ([.f32, .f16, .bf16] : List TileType),
      Serviceable (dieSt (.gred (place 0x40000) ty 1)) 5 (pkt (.gred (place 0x40000) ty 1)))
    ∧ Memory.wf (dieSt (.gred (place 0x40000) .f32 1)).hbm.bytes = true ∧ hbmBadIn (dieSt (.gred (place 0x40000) .f32 1)) 0x40000 64 = false
    ∧ Labelled (dieSt (.gred (place 0x40000) .f32 1)) (place 0x40000) 64 := by
  unfold Serviceable Labelled; decide +kernel

theorem test_meets_VectorCompares : RowReady st 4 ∧ RowReady st 5 ∧ RowReady st 6 ∧ ruleUnordered .f32 0x7FC00000 0 = true
    ∧ ruleUnordered .f32 0x80000000 0 = false ∧ ruleLess .f32 0x80000000 0 = false ∧ ruleLess .f32 0x80000001 0 = true := by
  unfold RowReady RowPresent; decide +kernel

theorem test_meets_ReductionsAndScalarExchange : RowReady st 4 ∧ RowReady st 5 ∧ rowType (st.setTile 0 { Tile.reset with ty := .i32 }) 4 = .i32
    ∧ Readable st 1 ∧ Present st 2 ∧ (15 : Fin 64).val < ruleLanes (rowType st 4) ∧ ruleLanes (rowType st 4) ≤ (16 : Fin 64).val := by
  unfold RowReady RowPresent Readable Present NoBarAt; decide +kernel

theorem test_meets_ConversionsAndCordic : RowReady st 0 ∧ RowReady st 16 ∧ RowReady st 48 ∧ (48 : VReg) ≠ 0
    ∧ (∀ j, j < elemCount (9 : Fin 16).val / elemCount (10 : Fin 16).val → RowPresent st (Fin.ofNat 64 ((0 : VReg).val + j)))
    ∧ rowType st 1 = .f32 := by
  unfold RowReady RowPresent; decide +kernel

theorem test_meets_ConversionsAndCordic_complete :
    ((ops (fun c => { c with vcords := [⟨1, 5, 2, false, 1000, true⟩] }) st).core 0).vcords.find? (fun j => j.row == 1 && decide (j.ready ≤ 1000))
      = some ⟨1, 5, 2, false, 1000, true⟩ ∧ st.now = 1000
    ∧ ∀ j ∈ ((ops (fun c => { c with vcords := [⟨1, 5, 2, false, 1001, true⟩] }) st).core 0).vcords, j.row = 1 → st.now < j.ready := by
  decide +kernel

theorem test_meets_ConversionValues : (Instr.vcvt 32 16 1 2 10 4 true).wf = true ∧ (Instr.vcvt 32 16 3 2 10 0 false).wf = true
    ∧ (Instr.vscale 16 16 48 10 0 false).wf = true ∧ (Instr.vq 32 0 48 2 10 4 true).wf = true ∧ (Instr.vq 32 0 48 9 10 0 false).wf = true
    ∧ (∀ j, j < elemCount (9 : Fin 16).val / elemCount (10 : Fin 16).val → RowPresent st (Fin.ofNat 64 ((0 : VReg).val + j)))
    ∧ RowReady st 32 ∧ RowReady st 48 := by
  unfold RowReady RowPresent; decide +kernel

/-- A drain of a whole tile to 0x1000, and to 0x2000 in its columns. -/
def T.drainSt : State := reg 3 0x2000 (reg 2 0x1000 (reg 1 0x200 st))

theorem test_meets_TileConfigurationAndDrain : rowBarred st (tileRow0 3) = false ∧ TilePresent st 3 ∧ TilePresent st 0 := by
  unfold TilePresent; decide +kernel

theorem test_meets_CordicAndDrainValues : ∃ w1 w2, DrainReady drainSt 1 2 3 0 1 2 4 0 0 0x3000 w1 w2 (w1.areas ++ w2.areas)
    ∧ DrainReady drainSt 1 2 0 0 10 15 0 0 0 0 ⟨10, 0, 0x1000, 0, 16, 16⟩ ⟨15, 0, 0, 0, 16, 16⟩ (DrainWrite.areas ⟨10, 0, 0x1000, 0, 16, 16⟩)
    ∧ (Instr.tdrain 1 2 3 0 1 2 4 0 0 0x3000).wf = true ∧ (Instr.tdrain 1 2 0 0 10 15 0 0 0 0).wf = true
    ∧ (Instr.vcord 1 2 .sin 24).wf = true ∧ rowType st 1 = .f32 ∧ RowReady st 1 ∧ RowReady st 2 := by
  have o : ObjectReady drainSt 0x200 := ⟨by decide +kernel, by decide +kernel, by decide +kernel, clear rfl,
    by unfold StoreReady LoadReady; decide +kernel⟩
  refine ⟨_, _, ⟨rfl, rfl, rfl, ?_, ?_, ?_, ?_, ?_, ?_, o, ?_, ?_, ?_, ?_, ?_, rfl⟩, ⟨rfl, rfl, rfl, ?_, ?_, ?_, ?_, ?_, ?_, o, ?_, ?_, ?_, ?_, ?_, rfl⟩, ?_⟩ <;>
    (try unfold TilePresent) <;> (try unfold Readable Present NoBarAt) <;> (try unfold RowReady RowPresent) <;> decide +kernel

theorem test_meets_BaseDieServices : Serviceable (dieSt (.grd (place 0x40000) 64 [])) 5 (pkt (.grd (place 0x40000) 64 []))
    ∧ Memory.wf (dieSt (.grd (place 0x40000) 64 [])).hbm.bytes = true
    ∧ hbmRace (dieSt (.grd (place 0x40000) 8 [])) (place 0x40000) 8 1 1 = false ∧ hbmBadIn (dieSt (.grd (place 0x40000) 8 [])) 0x40000 8 = false
    ∧ Labelled (dieSt (.grd (place 0x40000) 64 [])) (place 0x40000) 64 ∧ hbmBadPart (dieSt (.grd (place 0x40000) 8 [])) 0x40000 8 = false := by
  unfold Serviceable Labelled; decide +kernel

theorem test_meets_BaseDieServices_line : let s := dieSt (.line (place 0x40000) 0)
    Serviceable s 5 (pkt (.line (place 0x40000) 0)) ∧ Labelled s (place 0x40000) 64 ∧ hbmBadIn s 0x40000 64 = false
      ∧ (∀ o ∈ s.hbm.old, o.line ≠ 0x40000 / 128) ∧ (place 0x40000).pa % 64 = 0 := by
  unfold Serviceable Labelled; decide +kernel

theorem test_meets_BaseDieServices_faults :
    hbmRace { st with hbm := { st.hbm with tags := [(0x2000, ⟨256, 1⟩)] } } (place 0x40000) 8 1 1 = true
    ∧ hbmBadIn { st with hbm := { st.hbm with bad := [0x2000] } } 0x40000 64 = true
    ∧ hbmBadPart { st with hbm := { st.hbm with bad := [0x2000] } } 0x40000 8 = true
    ∧ Serviceable (dieSt (.gat (place 0x40000) .cas true 1 2)) 5 (pkt (.gat (place 0x40000) .cas true 1 2))
    ∧ Serviceable (dieSt (.gwr (place 0x40000) (List.replicate 64 1))) 5 (pkt (.gwr (place 0x40000) (List.replicate 64 1)))
    ∧ Serviceable (dieSt (.gred (place 0x40000) .i32 1)) 5 (pkt (.gred (place 0x40000) .i32 1)) := by
  unfold Serviceable; decide +kernel

theorem test_meets_DoorMemoryServices : Serviceable (doorSt 1 (.drd 0x40 8)) 5 (pkt (.drd 0x40 8))
    ∧ DoorOpen (doorSt 1 (.drd 0x40 8)) (pkt (.drd 0x40 8)) 0x40 8 ∧ lmRace (doorSt 1 (.drd 0x40 8)) 0 0x40 8 1 1 = false
    ∧ KeysOf (doorSt 1 (.drd 0x40 8)) 0 1 0x40 8 ∧ Memory.wf ((doorSt 1 (.drd 0x40 8)).core 0).lm.bytes = true
    ∧ lmRace (lmMark (doorSt 1 (.drd 0x40 8)) 0 0x40 8 256 1) 0 0x40 8 1 1 = true
    ∧ doorView (parked 1 (.park 0x40 cr0)) 0 1 (pkt (.park 0x40 cr0)).hv 5 0x40 160 = .serve
    ∧ lmRace (parked 1 (.park 0x40 cr0)) 0 0x40 160 1 1 = false
    ∧ doorView { doorSt 1 (.drd 0x40 8) with launches := [] } 0 1 (pkt (.drd 0x40 8)).hv 5 0x40 8 = .deny
    ∧ DoorOpen (doorSt 1 (.dwr 0x40 [1])) (pkt (.dwr 0x40 [1])) 0x40 1 ∧ lmBadPart (doorSt 1 (.dwr 0x40 [1])) 0 0x40 1 = none
    ∧ DoorOpen (doorSt 1 (.nibble 0x40 true 5)) (pkt (.nibble 0x40 true 5)) 0x40 1
    ∧ DoorOpen (doorSt 1 (.dat 0x40 (.atom .cas true 1 2))) (pkt (.dat 0x40 (.atom .cas true 1 2))) 0x40 8 := by
  unfold Serviceable DoorOpen KeysOf; decide +kernel


theorem test_meets_DoorMemoryServices_join : Serviceable (parked 1 (.dat 0x40 .join)) 5 (pkt (.dat 0x40 .join))
    ∧ DoorOpen (parked 1 (.dat 0x40 .join)) (pkt (.dat 0x40 .join)) 0x40 160 ∧ KeysOf (parked 1 (.dat 0x40 .join)) 0 1 0x40 160
    ∧ (CR.ofNum (leNat (cellRead ((parked 0 (.dat 0x40 .join)).core 0).lm.bytes 0x40 160))).join.toNat = 0
    ∧ (CR.ofNum (leNat (cellRead ((parked 1 (.dat 0x40 .join)).core 0).lm.bytes 0x40 160))).join.toNat = 1
    ∧ (CR.ofNum (leNat (cellRead ((parked 2 (.dat 0x40 .join)).core 0).lm.bytes 0x40 160))).join.toNat = 2
    ∧ (post (parked 1 (.dat 0x40 .join))
        { CR.ofNum (leNat (cellRead ((parked 1 (.dat 0x40 .join)).core 0).lm.bytes 0x40 160)) with launch := 1, join := 0 } 0 none).isSome = true := by
  dsimp only [Serviceable, DoorOpen, KeysOf]; and_intros <;> decide +kernel

theorem test_meets_RingDoorSteps : ∀ o ∈ ([.bindC 16, .bindP, .qwait, .qadv, .qres 0, .qpub 0 0, .qeos 1] : List DoorOp),
    Serviceable (doorSt ring (.dat 0x40 o)) 5 (pkt (.dat 0x40 o)) ∧ DoorOpen (doorSt ring (.dat 0x40 o)) (pkt (.dat 0x40 o)) 0x40 32
    ∧ KeysOf (doorSt ring (.dat 0x40 o)) 0 1 0x40 32 ∧ objNum (doorSt ring (.dat 0x40 o)) 0 0x40 = ring := by
  unfold Serviceable DoorOpen KeysOf; decide +kernel

theorem test_meets_RingDoorSteps_fields : bitsOf ring 20 4 = 6 ∧ bitsOf ring 16 4 = 2 ∧ bitsOf ring 0 16 + 2 ^ 8 ≤ 65536
    ∧ ring.testBit 33 = false ∧ ring.testBit 32 = true ∧ ring.testBit 48 = false ∧ (putBits ring 48 1 1).testBit 48 = true
    ∧ (bitsOf ring 64 32 + 2 ^ 32 - bitsOf ring 96 32) % 2 ^ 32 = 1 ∧ (bitsOf (putBits ring 64 32 4) 64 32 + 2 ^ 32 - 0) % 2 ^ 32 = 2 ^ bitsOf ring 16 4
    ∧ ring.testBit 128 = true ∧ (putBits ring 128 1 0).testBit 128 = false
    ∧ (∀ i, i < bitsOf (putBits (putBits ring 48 2 3) 96 32 1) 24 5 → (putBits (putBits ring 48 2 3) 96 32 1).testBit (48 + i) = true) := by
  decide +kernel

theorem test_meets_BarrierHomeSteps : ∀ o ∈ ([.binit 2, .bjoin, .barv 3, .barv 2, .bdrop 3, .bexp 8, .credit 8, .bwait 2, .bwait 3] : List DoorOp),
    Serviceable (doorSt barrier (.dat 0x40 o)) 5 (pkt (.dat 0x40 o)) ∧ DoorOpen (doorSt barrier (.dat 0x40 o)) (pkt (.dat 0x40 o)) 0x40 32
    ∧ KeysOf (doorSt barrier (.dat 0x40 o)) 0 1 0x40 32 ∧ objNum (doorSt barrier (.dat 0x40 o)) 0 0x40 = barrier := by
  unfold Serviceable DoorOpen KeysOf; decide +kernel

theorem test_meets_BarrierHomeSteps_fields : barrier.testBit 97 = false ∧ bitsOf barrier 160 32 = 3 ∧ bitsOf barrier 128 16 ≠ bitsOf barrier 144 16
    ∧ bitsOf (putBits barrier 128 16 2) 128 16 = bitsOf (putBits barrier 128 16 2) 144 16 ∧ bitsOf barrier 208 48 = 0
    ∧ (bitsOf barrier 160 32 + 2 ^ 32 - 2) % 2 ^ 32 = 1 ∧ (bitsOf barrier 160 32 + 2 ^ 32 - 3) % 2 ^ 32 = 0
    ∧ (putBits barrier 97 1 1).testBit 97 = true ∧ bitsOf (putBits barrier 112 16 0xFFFF) 112 16 = 0xFFFF := by decide +kernel

theorem test_meets_BarrierHomeSteps_held : let h : DoorHeld := ⟨pkt (.dat 0x40 (.bwait 3)), none⟩
    let s := (doorSt barrier (.dat 0x40 (.barv 3))).modCore 0 (fun c => { c with bwaits := [h] })
    h ∈ (s.core 0).bwaits ∧ needsE s h.pkt.dst h.pkt.src 2 = false ∧ (barComplete (putBits barrier 128 16 2)).2 = true
      ∧ (bitsOf (barComplete (putBits barrier 128 16 2)).1 160 32 + 2 ^ 32 - 3) % 2 ^ 32 = 1
      ∧ DoorOpen s (pkt (.dat 0x40 (.barv 3))) 0x40 32 ∧ objNum s 0 0x40 = barrier := by
  unfold DoorOpen; decide +kernel

theorem test_meets_AnswersLand : ∀ x ∈ ([((.reg 3 .sb : Dest), false, .rply (.data [0x80])), (.reg 3 .d, false, .rply (.val 9)), (.row 5, false, .rply (.data (List.replicate 16 1))),
      (.arrive (some 3), false, .rply (.val all1)), (.bindP (some 3) 2, false, .rply (.bound 1 1 0x3000 6 2)),
      (.bindC (some 3) 2, true, .rply (.bound 0 0 0x3000 6 2)), (.reg 3 .d, false, .rply (.fault .mmRace 8)), (.none, false, .ack .ack),
      (.none, false, .ack (.fault .mmRace 8))] : List (Dest × Bool × Body)),
    (reply x.1 x.2.1 x.2.2).got 5 = some { pkt x.2.2 with vn := 2 } ∧ (reply x.1 x.2.1 x.2.2).isDone { pkt x.2.2 with vn := 2 } = false
    ∧ ((reply x.1 x.2.1 x.2.2).ctxOf 0 false).out.find? (fun o => o.id == 5) = some { out with id := 5, dest := x.1, serial := x.2.1 }
    ∧ ((reply x.1 x.2.1 x.2.2).ctxOf 0 false).inh = false ∧ ((reply x.1 x.2.1 x.2.2).ctxOf 0 false).stop = false
    ∧ ((reply x.1 x.2.1 x.2.2).core 0).banked false = false := by decide +kernel

/-- A VN2 packet of core 1 with E at core 0's router, behind 24 flits at the exit to its core. -/
def T.long : Packet := { pkt (.rply (.data (List.replicate 16 1))) with vn := 2, e := true, at_ := .router 0 0 }
def T.trimSt : State :=
  { st with net := [{ pkt (.rply (.data [1])) with id := 4, vn := 2, at_ := .queue 0 (chosenPort st 0 long) 24 }, long] }

theorem test_meets_FabricEvents_trim : trimSt.pkt 5 = some long ∧ behind trimSt long = false ∧ long.body.len ≠ 0
    ∧ 24 ≤ queued trimSt 0 (chosenPort trimSt 0 long) 2 false := by decide +kernel

theorem test_meets_FabricEvents :
    ({ st with net := [{ pkt (.rply .ack) with trim := true, vn := 0 }] } : State).got 5 = some { pkt (.rply .ack) with trim := true, vn := 0 }
    ∧ (flying (.rreq 3 2)).got 5 = some (pkt (.rreq 3 2)) ∧ (flying (.eack 3 2)).got 5 = some (pkt (.eack 3 2))
    ∧ ({ flying (.rreq 3 2) with cores := [(0, { busy with fab := { Fab.reset with kept := [⟨{ pkt (.rply .ack) with src := 0, dst := 1, vn := 2, seq := 3 }, 0⟩] } })] }.core 0).fab.kept.find?
        (fun (x : Kept) => x.pkt.dst == 1 && x.pkt.vn == 2 && x.pkt.seq == 3) = some ⟨{ pkt (.rply .ack) with src := 0, dst := 1, vn := 2, seq := 3 }, 0⟩
    ∧ nextHole { Fab.reset with holes := [⟨1, 2, 3, false, 1⟩] } 1 = some ⟨1, 2, 3, false, 1⟩
    ∧ (∃ f b, takeBucket { Fab.reset with holes := [⟨1, 2, 3, false, 1⟩] } 1 1000 = some (f, b) ∧ b.tokens ≠ 0)
    ∧ 0 + (st.loaf 0).rto * 1024 ≤ 5000 ∧ nbr 0 .e = some 1 ∧ (st.link 0 .e).half = false
    ∧ (let s := { st with links := [(outNo 0 (dirNum .e), { Link.reset with check := [7], fails := List.replicate 15 500, due := true })] }
       (s.link 0 .e).check = [7] ∧ 15 ≤ ((s.link 0 .e).fails.filter (fun x => decide (s.now < x + 1000000))).length ∧ (s.link 0 .e).due = true)
    ∧ kindKnown 63 = false := by
  refine ⟨?_, ?_, ?_, ?_, ?_, ⟨_, _, rfl, ?_⟩, ?_, ?_, ?_, ?_, ?_⟩ <;> decide +kernel

/-- A slice with one walk, of core 0's owner, for an address of the upper half. -/
def T.walking (p : WalkPhase) (m : Option TlbEntry) : State :=
  { tables st with slices := [(0, { Slice.reset with walks := [{ walkOf with req := { walkOf.req with mark := m }, phase := p }] })] }

theorem test_meets_WalkFillAndMigration : (∀ p ∈ ([.start, .next 0x2000 2, .failed .eccUncorr, .got 0x2000 2 0x10F] : List WalkPhase),
      (((walking p none).slice (sliceOf 0)).walks.take 4).find? (fun (w : Walk) => w.core == 0 && w.who == WalkFor.ctx false)
        = some { walkOf with phase := p })
    ∧ canSend (walking .start none) 0 (dieCore (0x1000 + ptIndex (0xFFFF800000000040 % 2 ^ 48) 3 * 8)) 1 = true
    ∧ entryStep .rd true 3 0x2001 = .table 0x2000 ∧ entryStep .rd true 2 0x10F = .leaf ∧ (0x10F).testBit 7 = false ∧ (0x1BF).testBit 8 = true
    ∧ entryStep .rd true 2 0 = .fault .pageNotPresent := by decide +kernel

theorem test_meets_WalkFillAndMigration_mark : EntryAt (walking .start none) 0x2000 0x10F ∧ leafKey 0x10F = leafKey 0x18F
    ∧ leafKey 0x10F ≠ leafKey 0x1000F ∧ (0x10F).testBit 0 = true
    ∧ leafKey 0x10F = (true, { page with pte := 0x2000, frame := 0, ex := false }.frame / 65536, true, true, false) := by
  unfold EntryAt Labelled; decide +kernel

theorem test_meets_WalkFillAndMigration_fill :
    (let s := owner (fun c => { c with fill := some ⟨0x10000, none, []⟩ }) (code line st)
     (s.ctxOf 0 false).fill = some ⟨0x10000, none, []⟩ ∧ ownFetch s 0 false 0x10000 = false ∧ lookup s 0 1 0x10000 .x = .hit page
       ∧ canSend s 0 (dieCore (page.loc 0x10000).pa) 1 = true)
    ∧ ownFetch { st with cores := [] } 32768 false 0x10000 = true
    ∧ (let s := { st with net := [{ pkt (.rply (.data [])) with who := .fill false }] }
       s.got 5 = some { pkt (.rply (.data [])) with who := .fill false } ∧ s.isDone { pkt (.rply (.data [])) with who := .fill false } = false)
    ∧ migrateTo st 1 0 0 = some 0 := by
  and_intros <;> first | decide +kernel | rfl

theorem test_meets_CopyEngineEvents : (ops (fun c => { c with copies := [cop] }) st).copyOp 0 3 = some cop ∧ cop.fin = cop.count ∧ cop.owed = 0
    ∧ ObjectOpen (ops (fun c => { c with copies := [cop] }) st) 0 1 0x200 false ∧ cop.isCopy = true
    ∧ ({ cop with work := .drain [] } : CopyOp).isCopy = false ∧ ({ cop with work := .drain [], fin := 0 } : CopyOp).count = 0
    ∧ forked (ops (fun c => { c with copies := [cop] }) st) 0 false 0 = true ∧ ({ cop with failed := some (0, .mmRace) } : CopyOp).owed = 0
    ∧ ((ops (fun c => { c with copies := [{ cop with running := false }] }) st).core 0).copies.filter (·.running) = [] := by
  unfold ObjectOpen; decide +kernel

theorem test_meets_CopyEngineEvents_data :
    Serviceable (doorSt 0 (.cwr (.door 0) 0x40 (place 0) [1, 2])) 5 (pkt (.cwr (.door 0) 0x40 (place 0) [1, 2]))
    ∧ orderedBehind (doorSt 0 (.cwr (.door 0) 0x40 (place 0) [1, 2])) (pkt (.cwr (.door 0) 0x40 (place 0) [1, 2])) = false
    ∧ doorView (doorSt 0 (.cwr (.door 0) 0x40 (place 0) [1, 2])) 0 1 (pkt (.cwr (.door 0) 0x40 (place 0) [1, 2])).hv 5 0x40 2 = .serve
    ∧ Serviceable (dieSt (.cwr (.die 0) 0 (place 0x40000) [1, 2])) 5 (pkt (.cwr (.die 0) 0 (place 0x40000) [1, 2])) := by
  unfold Serviceable; decide +kernel

theorem test_meets_LaneInstructionsAndEvents_arrival : nbr 0 .e = some 1
    ∧ ((ops (fun c => { c with lanes := c.lanes.set 0 { Lane.reset with link := [⟨1, 1, 9⟩], back := [1] } }) st).core 0).lane .e
        = { Lane.reset with link := [⟨1, 1, 9⟩], back := [1] }
    ∧ (st.core 0).launch = 1 ∧ (∀ g ∈ (st.ctxOf 0 false).ngets, g.dir ≠ .e) ∧ ((st.core 0).lane .e).buf.length < 4
    ∧ ((owner (fun c => { c with ngets := [⟨.e, some 4, 2, 0x10000, false⟩] }) st).ctxOf 0 false).ngets.find? (fun g => g.dir == .e)
        = some ⟨.e, some 4, 2, 0x10000, false⟩ := by decide +kernel

theorem T.object_ready {s : State} {obj : Word} (h : unperformed s s.cur.core = [])
    (a : obj.toNat % 8 = 0 ∧ areaOk s obj.toNat 8 = true ∧ lmBad s s.cur.core (obj.toNat / 16) = false
      ∧ (∀ o ∈ s.ctx.out, o.acq = false) ∧ s.ctx.loadOut = false ∧ s.ctx.rels = []) : ObjectReady s obj :=
  ⟨a.1, a.2.1, a.2.2.1, clear h, a.2.2.2.1, a.2.2.2.2⟩

theorem test_meets_ReedCommands : ObjectReady st 0x200 ∧ reedOf 0 .e = some (0, false) ∧ Readable (reg 1 0x200 st) 1
    ∧ ((reed id st).reed 0).queue false = [] ∧ AreasReady st (0x08000400 : Word) 256 32
    ∧ AreasReady st (0x08000400 : Word) (sparseBytes 2 bind0) ((bind0.nrow + 31) / 32)
    ∧ ((reed (fun r => { r with bw := some bind0 }) st).reed 0).binding false = some bind0 ∧ bind0.nrow ≤ passDepth 2
    ∧ (∀ j, j < bind0.ncol → (bind0.cols.getD j []).length ≤ passDepth 2 / 4) ∧ (bind0.inv = true ∧ bind0.nrow ≤ 64)
    ∧ loafOf (1 : Word).toNat = loafOf 0 ∧ st.placed st.myLaunch (1 : Word).toNat = true :=
  ⟨object_ready rfl (by decide +kernel), by dsimp only [Readable, NoBarAt, Present, AreasReady]; and_intros <;> decide +kernel⟩

theorem test_meets_ArmStatusAndCancel : Memory.wf st.me.lm.bytes = true ∧ st.me.loan.t3 = false ∧ st.me.tiles[(2 : TileNo)].ty = .f32
    ∧ (∀ v ∈ armRows false (2 : TileNo) 0 16, RowPresent st v) ∧ (∀ y ∈ armTiles true (0 : TileNo), st.me.tiles[y].ty = st.me.tiles[(0 : TileNo)].ty)
    ∧ (∀ v ∈ armRows true (0 : TileNo) 0 1, RowPresent st v)
    ∧ (let s := reed (fun r => { r with latch := latch .ready }) st
       (s.reed 0).latch.state ≠ .empty ∧ reedForeign (s.reed 0) s.myLaunch = false ∧ reedForeign (s.reed 0) 2 = true)
    ∧ (let s := reed (fun r => { r with qw := [rc 0 (.inr fcmd)] }) st
       (s.reed 0).latch.state = .empty ∧ (s.reed 0).run = none ∧ (s.reed 0).queue false = [rc 0 (.inr fcmd)] ∧ ObjectOpen s 0 1 0x208 false)
    ∧ (let s := ops (fun c => { c with arms := [arm0] }) st
       s.me.arms = [arm0] ∧ arm0.launch = s.myLaunch ∧ ObjectOpen s 0 1 0x200 false ∧ s.me.launch = 1) := by
  dsimp only [RowPresent, ObjectOpen]; and_intros <;> decide +kernel

theorem test_meets_PatternInstructions : LocalReady pat 0x400 64 ∧ LocalReady pat 0x440 64 ∧ Present pat 3 ∧ Readable pat 1 ∧ Readable pat 2
    ∧ LoadReady pat ∧ OwnKeys pat 0x400 64 ∧ OwnKeys pat 0x440 64
    ∧ ((wordsOfBytes (cellRead pat.me.lm.bytes 0x440 64)).getD 0 0).toNat = 64 + 3 * 2 ^ 16
    ∧ (match patProgram (wordsOfBytes (cellRead pat.me.lm.bytes 0x440 64)) 64 0 0 (wordsOfBytes (cellRead pat.me.lm.bytes 0x400 64)) with
       | .ok [(0, .full)] => true
       | _ => false) = true
    ∧ (match patStored pat 64 4 0 [(0, .full)] with
       | .ok (_, []) => true
       | _ => false) = true
    ∧ ((reed id pat).reed 0).binding false = none ∧ bind0.ncol ≤ 64 ∧ bind0.nrow ≤ 512 :=
  ⟨local_ready rfl (by decide +kernel), local_ready rfl (by decide +kernel),
    by dsimp only [Readable, NoBarAt, Present, LoadReady, OwnKeys]; and_intros <;> decide +kernel⟩

theorem test_meets_ReedHeadEvents :
    (let s := reed (fun r => { r with qw := [rc 0 (.inl lcmd)] }) st
     (s.reed 0).queue false = [rc 0 (.inl lcmd)] ∧ (s.reed 0).latch.state = .empty ∧ (s.reed 0).run = none
       ∧ reedParked s (s.reed 0) = false ∧ reedForeign (s.reed 0) 1 = false ∧ switchedOut s 0 1 = false)
    ∧ (let s := reed (fun r => { r with latch := latch .ready, qe := [rc 1 (.inr fcmd)] }) st
       (s.reed 0).queue true = [rc 1 (.inr fcmd)] ∧ (s.reed 0).latch.left = 0 + 1 ∧ fcmd.gen = (s.reed 0).latch.cmd.gen
       ∧ (s.reed 0).latch.side ≠ true ∧ (s.reed 0).latch.cmd.sp = false ∧ (pairDepth (s.reed 0).latch.cmd.fmt fcmd.fmt).isSome = true
       ∧ reedParked s (s.reed 0) = false ∧ reedForeign (s.reed 0) 1 = false ∧ switchedOut s 1 1 = false)
    ∧ (let s := reed (fun r => { r with latch := { latch .ready with cmd := { lcmd with gen := 2 } }, qe := [rc 1 (.inr fcmd)] }) st
       fcmd.gen ≠ (s.reed 0).latch.cmd.gen ∧ ahead fcmd.gen (s.reed 0).latch.cmd.gen = false ∧ reedParked s (s.reed 0) = false
         ∧ reedForeign (s.reed 0) 1 = false ∧ ObjectOpen s 1 1 0x208 false)
    ∧ (let s := reed (fun r => { r with latch := latch .loading, qw := [rc 0 (.inl lcmd)] }) st
       (s.reed 0).latch.side = false ∧ (s.reed 0).going false = true ∧ reedParked s (s.reed 0) = false ∧ forked s 0 false 9 = true
       ∧ read_ (readAreas s 0 1 (loadAreas lcmd).1) = true ∧ read_ (readAreas (readAreas s 0 1 (loadAreas lcmd).1).1 0 1 (loadAreas lcmd).2) = true)
    ∧ (let s := reed (fun r => { r with qw := [{ rc 0 (.inr fcmd) with waited := 2 ^ 32 }] }) st
       headWaits s 0 false { rc 0 (.inr fcmd) with waited := 2 ^ 32 } = true ∧ (s.core 0).rdvto.toNat < waitedFor s.now (2 ^ 32) none
       ∧ ObjectOpen s 0 1 0x208 false) := by
  dsimp only [ObjectOpen]; and_intros <;> decide +kernel

/-- The only reed, at its product's first row and under step 0, is ready whatever its loaf's cycle, and the ramp limiter grants it. -/
theorem T.row_granted {s : State} {r : Reed} {p : Product} (h : s.reeds = [(0, r)]) (hp : r.run = some p)
    (a : (s.loaf 0).step = 0 ∧ r.last = none ∧ p.started = 0 ∧ 0 < p.feed.m ∧ p.row = none ∧ r.obuf.length < 4 ∧ reedParked s r = false
      ∧ forked s p.cmd.core false p.cmd.id = true ∧ 0 < rampRoom s 0) : rowReady s 0 = true ∧ rampGrants s (loafOf 0) 0 = true := by
  obtain ⟨a1, a2, a3, a4, a5, a6, a7, a8, a9⟩ := a
  have hr : s.reed 0 = r := by simp [State.reed, h, mget, mfind]
  have hl : loafOf (0 / 2) = 0 := rfl
  have ready : rowReady s 0 = true := by simp [rowReady, rowAlmost, throttleOk, throttleAt, allowedAt, *]
  exact ⟨ready, by simp [rampGrants, readyReeds, *]⟩

theorem test_meets_ReedRowEvents :
    (let s := { reed (fun r => { r with latch := latch .ready, run := some run0 }) st with loaves := [(0, { Loaf.reset with g := 1 })] }
     let s1 := countStart s (loafOf 0) 0
     (rowReady s 0 = true ∧ rampGrants s (loafOf 0) 0 = true) ∧ read_ (readAreas s1 1 1 [(0x1000, usedBytes 2 256)]) = true
       ∧ read_ (readAreas (readAreas s1 1 1 [(0x1000, usedBytes 2 256)]).1 1 1 [(0x1400, 8)]) = true)
    ∧ (let s := reed (fun r => { r with run := some { run0 with row := some ([], []) }, last := some 992 }) st
       (s.reed 0).run = some { run0 with row := some ([], []) } ∧ (s.reed 0).last = some 992 ∧ 992 + 8 ≤ s.now ∧ (s.reed 0).obuf = []
         ∧ canSend s 1 1 1 = true)
    ∧ ([⟨del0, false, some 968, 0, none⟩] : List OSlot).find? (fun x => x.del.slot == del0.slot) = some ⟨del0, false, some 968, 0, none⟩
    ∧ 968 + 32 ≤ st.now :=
  ⟨⟨row_granted rfl rfl (by decide +kernel), by and_intros <;> decide +kernel⟩, by and_intros <;> decide +kernel⟩

theorem test_meets_ReedRowEvents_sink :
    (let s := (flying (.rdl del0)).modCore 1 (fun c => { c with arms := [arm0] })
     s.got 5 = some (pkt (.rdl del0)) ∧ rowHeld s del0 = false ∧ sinkTest (s.core 1) del0 = .add arm0 ∧ (s.core 1).store = []
       ∧ (s.core 1).arms = [arm0] ∧ arm0.launch = (s.core 1).launch ∧ ObjectOpen s 1 1 0x200 false)
    ∧ sinkTest ((flying (.rdl del0)).core 1) del0 = .defer true ∧ rowHeld (flying (.rdl del0)) del0 = false
    ∧ ((flying (.rdl del0)).core 0).fab.executed 1 1 0 = false
    ∧ (let s := reed (fun r => { r with latch := latch .ready, run := some run0, obuf := [⟨del0, true, none, 0, none⟩] }) (flying (.rack 0 0))
       s.got 5 = some (pkt (.rack 0 0)) ∧ reedParked s (s.reed 0) = false ∧ (s.reed 0).obuf.any (fun o => o.del.slot == 0) = true
       ∧ run0.accepted + 1 = run0.feed.m ∧ { run0 with feed := { fcmd with m := 2 } }.accepted + 1 ≠ 2 ∧ ObjectOpen s 1 1 0x208 false)
    ∧ (flying (.rdef 0 0)).got 5 = some (pkt (.rdef 0 0)) := by
  dsimp only [ObjectOpen]; and_intros <;> decide +kernel

theorem test_meets_ReedValues : lcmd.fmt < 9 ∧ fcmd.fmt < 10 ∧ pairDepth lcmd.fmt fcmd.fmt = some 256 ∧ lcmd.bind = none ∧ lcmd.ncol ≤ 16
    ∧ (let s := reed (fun r => { r with latch := { latch .ready with cmd := { lcmd with sp := true, bind := some bind0 } },
                                        run := some { run0 with row := some ([], []) }, last := some 992 }) st
       (s.reed 0).run = some { run0 with row := some ([], []) } ∧ (s.reed 0).last = some 992 ∧ 992 + 8 ≤ s.now ∧ (s.reed 0).obuf = []
         ∧ canSend s 1 1 1 = true ∧ (s.reed 0).latch.cmd.bind = some bind0)
    ∧ (let d := { del0 with int := false }
       let a := { arm0 with ty := .f32 }
       let s := (flying (.rdl d)).modCore 1 (fun c => { c with arms := [a] })
       s.got 5 = some (pkt (.rdl d)) ∧ rowHeld s d = false ∧ sinkTest (s.core 1) d = .add a ∧ (s.core 1).store = []
         ∧ (s.core 1).arms = [a] ∧ a.launch = (s.core 1).launch ∧ ObjectOpen s 1 1 0x200 false) := by
  dsimp only [ObjectOpen]; and_intros <;> decide +kernel

theorem test_meets_StreamInstructions : ObjectReady st 0x200 ∧ st.me.ports[portIdx false].opened = none ∧ st.me.ports[portIdx false].closing = none
    ∧ Readable (reg 1 1 st) 1 ∧ Present st 2 ∧ isSvc 0 = false ∧ streamDests 0 1 .one 1 = some [1] ∧ st.placed st.myLaunch 1 = true
    ∧ streamDests 0 1 .row 2 = some [1, 2] ∧ streamDests 0 256 .col 1 = some [256] ∧ st.me.launch = st.myLaunch
    ∧ (port0 [] none st).me.ports[portIdx false].opened.isSome = true ∧ Memory.wf st.me.lm.bytes = true
    ∧ areaOk st (0x1000 : Word).toNat (4096 : Word).toNat = true :=
  ⟨object_ready rfl (by decide +kernel), by dsimp only [Readable, NoBarAt, Present]; and_intros <;> decide +kernel⟩

theorem test_meets_StreamEvents :
    (let x := { strm .setup with reserved := 0 }
     let p : Packet := { pkt (.sopn 3 0) with src := 0, dst := 1, vn := 3, at_ := .router 0 4 }
     let s := { streamSt x (.sopn 3 0) with net := [p] }
     s.pkt 5 = some p ∧ s.stream 3 = some x ∧ behind s p = false ∧ isSvc p.dst = false ∧ (xOf 0, yOf 0) ≠ (xOf p.dst, yOf p.dst)
       ∧ linkHeld s 3 (outNo 0 0) = false
       ∧ linkHeld { s with streams := [x, { strm .opened with id := 4 }] } 3 (outNo 0 0) = true)
    ∧ (let s := { streamSt (strm .closing) (.smrk 3 0) with
                   net := [{ pkt (.smrk 3 0) with vn := 3, at_ := .queue 0 0 0 }], links := [(outNo 0 0, { Link.reset with check := [5] })] }
       s.pkt 5 = some { pkt (.smrk 3 0) with vn := 3, at_ := .queue 0 0 0 } ∧ s.stream 3 = some (strm .closing)
         ∧ (s.output (outNo 0 0)).check = [5] ∧ (s.output (outNo 0 0)).group.contains 5 = false
         ∧ (s.output (outNo 0 0)).next ≤ s.now ∧ (s.output (outNo 0 0)).due = false)
    ∧ (streamSt (strm .setup) (.sopn 3 0)).got 5 = some { pkt (.sopn 3 0) with src := 0, dst := 1, vn := 3 }
    ∧ (let s := owner (fun c => { c with out := [{ out with id := 5, dest := .reg 2 .d }] }) (streamSt (strm .setup) (.sres 3 0))
       (s.ctxOf 0 false).out.find? (fun o => o.id == 5) = some { out with id := 5, dest := .reg 2 .d } ∧ (s.ctxOf 0 false).inh = false
         ∧ (s.ctxOf 0 false).stop = false ∧ (s.core 0).banked false = false)
    ∧ (let s := streamSt (strm .opened) (.sdat 3 0 2 0 [1, 2])
       isRing (destRing s (strm .opened) 0) = true ∧ 2 ≤ 2 ^ bitsOf (ring + 2 ^ 25) 20 4 ∧ (ring + 2 ^ 25).testBit (48 + 1) = false
       ∧ (bitsOf (ring + 2 ^ 25) 64 32 + 2 ^ 32 - bitsOf (ring + 2 ^ 25) 96 32) % 2 ^ 32 < 2 ^ bitsOf (ring + 2 ^ 25) 16 4
       ∧ doorView s 1 1 false 0 ((bitsOf ring 0 16 + 1 * 2 ^ 6) % 65536) 2 = .serve ∧ Memory.wf (s.core 1).lm.bytes = true
       ∧ lmBadPart s 1 ((bitsOf ring 0 16 + 1 * 2 ^ 6) % 65536) 2 = none)
    ∧ 2 ^ bitsOf (putBits (ring + 2 ^ 25) 64 32 4) 16 4
        ≤ (bitsOf (putBits (ring + 2 ^ 25) 64 32 4) 64 32 + 2 ^ 32 - bitsOf (putBits (ring + 2 ^ 25) 64 32 4) 96 32) % 2 ^ 32
    ∧ (let x := { strm .opened with slots := [(0, BitVec.ofNat 64 (2 ^ 32 + 0x3040))] }
       let s := streamSt x (.sdat 3 0 40 32 [1, 2, 3, 4, 5, 6, 7, 8])
       x.slots.find? (fun a => a.1 == 0) = some (0, BitVec.ofNat 64 (2 ^ 32 + 0x3040)) ∧ doorView s 1 1 false 0 0x3060 8 = .serve
         ∧ lmBadPart s 1 0x3060 8 = none)
    ∧ isRing (destRing (streamSt (strm .closing) (.smrk 3 0)) (strm .closing) 0) = true ∧ (strm .closing).dests.length ≤ 0 + 1
    ∧ (let x := { strm .closing with dests := [1, 256], prods := [(0, some 1), (0, some 1)] }
       isRing (destRing (streamSt x (.smrk 3 0)) x 0) = true ∧ x.dests[0 + 1]? = some 256)
    ∧ (let x := { strm .setup with reserved := 0, waited := 65536, since := some 1000 }
       (streamSt x (.sopn 3 0)).stream 3 = some x ∧ 65536 ≤ x.waited + (st.now - 1000)) := by
  and_intros <;> decide +kernel

theorem test_meets_StreamEvents_room (s : State) (p : Packet) (h : queued s 0 0 3 false = 0) (hp : p.vn = 3 ∧ p.flits = 1) :
    hasRoom s 0 0 p false = true := by
  simp [hasRoom, queueSize, hp, h]; omega

theorem test_meets_StreamEvents_port :
    (let s := port0 [.send 0x1000 32 0x200 8 false 0x10008] none (streamSt (strm .opened) (.sopn 9 0))
     (s.core 0).ports[portIdx false].queue = [.send 0x1000 32 0x200 8 false 0x10008] ∧ (s.core 0).ports[portIdx false].opened = some 3
       ∧ forked s 0 false 8 = true
       ∧ read_ (engineLocalRead (s.modPort 0 1 (portIdx false) (fun q => { q with queue := [] })) 0 1 0x1000 32) = true)
    ∧ (let s := (streamSt (strm .opened) (.sopn 9 0)).modCore 0 (fun c => { c with ports := c.ports.set 0 ⟨none, some 3, [.close], none⟩ })
       (s.core 0).ports[portIdx false] = ⟨none, some 3, [.close], none⟩ ∧ s.stream 3 = some (strm .opened))
    ∧ (let x := { strm .opened with arrived := [(0, 0)] }
       x.arrived.find? (fun a => x.dests.getD a.1 0 == 1) = some (0, 0) ∧ isRing (destRing (streamSt x (.sopn 9 0)) x 0) = true
       ∧ (0 + 2 ^ 32 - bitsOf (ring + 2 ^ 25) 96 32) % 2 ^ 32 < (bitsOf (ring + 2 ^ 25) 64 32 + 2 ^ 32 - bitsOf (ring + 2 ^ 25) 96 32) % 2 ^ 32)
    ∧ (let x := { strm .opened with done := [0] }
       let s := port0 [] (some (.send 0x1000 32 0x200 8 false 0x10008)) (streamSt x (.sopn 9 0))
       servingOf s 0 (portIdx false) = some (1, .send 0x1000 32 0x200 8 false 0x10008, x) ∧ ObjectOpen s 0 1 0x200 false) := by
  dsimp only [ObjectOpen]; and_intros <;> decide +kernel

theorem test_meets_BellowsOperations : ObjectReady st 0x200 ∧ Readable (reg 1 0x10000 st) 1 ∧ membersOf st 0x10000 = some [0, 1]
    ∧ openMembers st 0 1 < 4 ∧ areaOk st (0x400 : Word).toNat 64 = true ∧ st.me.board.length < 8
    ∧ (let b := bel false none []
       (belSt b).bellow 2 = some b ∧ b.members.find? (fun m => m.core == 0) = some (mem 0 8 false none) ∧ (st.core 0).launch = b.launch
         ∧ forked (belSt b) 0 false 8 = true ∧ lmRace (belSt b) 0 0x400 64 0 1 = false ∧ lmBadIn (belSt b) 0 0x400 64 = none)
    ∧ KeysOf (local_ 0x400 vec st) 0 1 0x400 64
    ∧ (let b := bel false (some (.ok vec)) [⟨.root, some vec, 0⟩]
       b.nodes.find? (fun v => v.node == .root) = some ⟨.root, some vec, 0⟩ ∧ b.members.find? (fun m => m.core == 0 && !m.done) = some (mem 0 8 false (some (.ok vec)))
         ∧ b.mismatch = false ∧ vec.length = 64 ∧ ObjectOpen (belSt b) 0 1 0x200 false ∧ lmBadPart (belSt b) 0 0x400 64 = none) :=
  ⟨object_ready rfl (by decide +kernel),
    by dsimp only [Readable, NoBarAt, Present, KeysOf, ObjectOpen]; and_intros <;> decide +kernel⟩

theorem test_meets_BellowsOperations_combine : let b := bel false (some (.ok vec)) []
    let s := belSt b
    (belSt b).bellow 2 = some b ∧ b.cores.Pairwise (· < ·) ∧ (∀ c ∈ b.cores, c < 32768)
      ∧ List.Forall₂ (fun c x => x.2 = c ∧ ∃ m e, b.members.find? (fun m => m.core == c) = some m
          ∧ m.sent = some e ∧ x.1 = e.toOption) ((b.waitsFor s).filter (fun c => sliceOf c == 0)) [(some vec, 0), (some vec, 1)]
      ∧ (let b := bel false (some (.ok vec)) [⟨.slice 0, some vec, 0⟩]
         List.Forall₂ (fun n x => ∃ y, b.nodes.find? (fun v => v.node == n) = some y ∧ y.val = x.1 ∧ y.low = x.2)
           (ruleChildren (b.waitsFor (belSt b)) (.srow 0 0)) [(some vec, 0)]) := by
  refine ⟨by decide +kernel, by decide +kernel, by decide +kernel, ?_, ?_⟩
  · rw [show ((bel false (some (.ok vec)) []).waitsFor (belSt (bel false (some (.ok vec)) []))).filter (fun c => sliceOf c == 0) = [0, 1]
      by decide +kernel]
    exact .cons ⟨rfl, _, _, rfl, rfl, rfl⟩ (.cons ⟨rfl, _, _, rfl, rfl, rfl⟩ .nil)
  · dsimp only
    rw [show ruleChildren ((bel false (some (.ok vec)) [⟨.slice 0, some vec, 0⟩]).waitsFor (belSt (bel false (some (.ok vec)) [⟨.slice 0, some vec, 0⟩])))
      (.srow 0 0) = [.slice 0] by decide +kernel]
    exact .cons ⟨_, rfl, rfl, rfl⟩ .nil

theorem test_meets_SpawnParkAndJoin : SendReady st true (peerCore 0x10040) ∧ NoBar st ∧ Readable (reg 2 ctl (code line st)) 2
    ∧ Readable (reg 3 0x10040 (code line st)) 3 ∧ affinityOk (code line st) 1 (bitsOf ctl.toNat 20 2) (bitsOf ctl.toNat 22 15) = true
    ∧ (∀ r : SReg, (ctl.setWidth 16 : BitVec 16).getLsbD r.val = true → Present st r)
    ∧ ok_ (needRoom (code line st) (spawnRecord (code line st) ctl 0x10040 0x10008 0) none) = true
    ∧ openBefore (code line st) 0 false st.ids .dev = false ∧ openBefore (owner (fun c => { c with out := [out] }) st) 0 false 8 .dev = true
    ∧ bitsOf ctl.toNat 48 16 = 2 ∧ StoreReady st ∧ PeerPlace st (0x10040 : Word).toNat 32 ∧ peerOff 0x10040 ≤ 0xFF60 ∧ Present st 5
    ∧ DatRoom st (peerCore 0x10040) := by
  refine ⟨⟨⟨0, rfl⟩, by decide +kernel⟩, ?_⟩
  dsimp only [NoBar, Readable, NoBarAt, Present, StoreReady, LoadReady, PeerPlace, DatRoom]; and_intros <;> decide +kernel

theorem test_meets_AwaitMigrateYieldAndWheel : NoBar st ∧ Readable (reg 1 0x12 st) 1 ∧ st.ctx.task = some task
    ∧ (∀ r : SReg, (0x12 : BitVec 16).getLsbD r.val = true → Present st r) ∧ Quiet st ∧ areaOk st (0xFFF8 : Word).toNat 8 = true
    ∧ awaitRoom st.me false = true ∧ ok_ (needRoom st (endRecord task st.ctx.regs 0x12 0x10008) none) = true
    ∧ ok_ (needRoom st { endRecord task st.ctx.regs 0x12 0x10008 with akind := 0, aid := 1, migr := true } none) = true
    ∧ st.placed 1 1 = true ∧ (st.slice 0).wheel.length < 1024 ∧ ok_ (needRoom st (endRecord task st.ctx.regs 0x12 0x10008) (some 1)) = true
    ∧ (st.ctx.nextPc 1).2 = none ∧ ¬ Quiet (owner (fun c => { c with out := [out] }) st)
    ∧ st.lmByte 0 (0x200 + 7) = 0 ∧ (local_ 0x200 (natLe 8 (2 ^ 56)) st).lmByte 0 (0x200 + 7) ≠ 0
    ∧ mget (local_ 0x200 (natLe 8 (2 ^ 56)) st).me.lm.keys (0x200 + 7) 0 = task.launch := by
  dsimp only [NoBar, Readable, NoBarAt, Present, Quiet]; and_intros <;> decide +kernel

/-- The part with core 0's owner ending its task at its next turn. -/
def T.endSt (e : Ending) (o : List Out) : State := owner (fun c => { c with ending := some e, out := o }) { st with agenda := [⟨1, .issue 0 false⟩] }

theorem test_meets_AwaitMigrateYieldAndWheel_turn : ∀ e ∈ ([.drop, .post cr0, .wheel 5 cr0, .await 0x200 cr0] : List Ending), ∀ o ∈ ([[], [out]] : List (List Out)),
    let s := endSt e o
    let u := { elapse (nextTurn s).1 (nextTurn s).2.wait with cur := ⟨0, false⟩ }
    (nextTurn s).2.who = .issue 0 false ∧ EndDue u 0 false e ∧ (u.ctxOf 0 false).out = o ∧ (u.slice (sliceOf 0)).wheel.length < 1024
      ∧ awaitRoom (u.core 0) false = true := by
  unfold EndDue; decide +kernel

theorem test_meets_LaunchAndLending : ObjectReady st 0x200 ∧ Readable (reg 1 0x20000 st) 1 ∧ Present st 3 ∧ isCanon 0x20000 = true
    ∧ openBefore st 0 false st.ids .dev = false ∧ st.me.loan = Loan.none ∧ ownerTouches st 0 ⟨true, 2, 14⟩ = false ∧ TilePresent st 3
    ∧ (BitVec.ofNat 64 (65536 + 2 * 256 + 14) : Word) = 0x1020E
    ∧ (let s := ops (fun c => { c with loan := ⟨true, 2, 14⟩, harv := { Ctx.reset with task := some task, bank := { Bank.reset with restart := some (endRecord task Regs.reset 0 0) } } }) st
       s.me.loan ≠ Loan.none ∧ s.me.loan.t3 = true ∧ s.me.harv.task.isSome = true ∧ s.me.harv.ending = none
         ∧ s.me.harv.bank.restart = some (endRecord task Regs.reset 0 0))
    ∧ (let s := ops (fun c => { c with en := true, harv := { Ctx.reset with task := some task } }) st
       s.me.en = true ∧ s.me.harv.task.isSome = true ∧ s.me.parked = false ∧ s.me.parking = none) :=
  ⟨object_ready rfl (by decide +kernel), by dsimp only [Readable, NoBarAt, Present, TilePresent]; and_intros <;> decide +kernel⟩

theorem test_meets_TrapReturnAndHalt : table.ctx.nextPc 1 = (0x1000C, none) ∧ table.ctx.inh = false ∧ (table.launch 1).isSome = true
    ∧ (match (unitRead table 1 (launch.ttab + 112) 8).2 with
       | .ok bs => decide (bs = natLe 8 (2 ^ 47 + 0x10009))
       | .error _ => false) = true
    ∧ (2 ^ 47 + 0x10009 : Nat).testBit 0 = true ∧ (2 ^ 47 + 0x10009 : Nat).testBit 47 = true ∧ (2 ^ 47 + 0x10009) / 2 ^ 48 = 0
    ∧ (inHandler st).ctx.inh = true ∧ (inHandler st).ctx.mode = true ∧ Readable (reg 1 0x10008 (inHandler (code line st))) 1
    ∧ (∀ r : SReg, (0x10008 : Word).getLsbD r.val = true → Present (inHandler st) r)
    ∧ ((code line { st with cur := ⟨0, true⟩ }).cur.hv = true ∧ ¬ (st.ctx.mode = true ∧ st.ctx.inh = true)) ∧ isSvc st.cur.core = false
    ∧ ((owner (fun c => { c with icache := [line], pc := 0x10010 }) st).ctx.nextPc 1).2.isSome = true := by
  dsimp only [Readable, NoBarAt, Present]; and_intros <;> decide +kernel

theorem test_meets_SpecialRegisters : Present st 1 ∧ vcordsDone st = true ∧ (inHandler st).ctx.mode = true ∧ isSvc st.cur.core = false
    ∧ isSvc 32768 = true ∧ (st.launch st.myLaunch).isSome = true ∧ st.ctx.mode = false ∧ (0x3FF : BitVec 10).toNat ∉ [0x000, 0x001, 0x060]
    ∧ Readable st 1 ∧ Readable (inHandler st) 1 := by
  unfold Readable NoBarAt Present; decide +kernel

theorem test_meets_InvalidationServiceAndFence : (inHandler st).ctx.mode = true ∧ isSvc st.cur.core = false ∧ Readable (inHandler st) 1
    ∧ isCanon ((inHandler st).val 1) = true ∧ (inHandler st).ctx.inval = none
    ∧ (∀ p ∈ (owner (fun c => { c with inval := some 4 }) st).cores, coreInScope 0 .dev p.1 = true → p.2.globalBefore 4 = false)
    ∧ st.ctx.svc = none ∧ (∀ i, i < (7 : Fin 8).val → Readable st (Fin.ofNat 16 ((15 : SReg).val + i)))
    ∧ (let s := owner (fun c => { c with svc := some ⟨3, [1]⟩ }) st
       (s.ctxOf 0 false).svc = some ⟨3, [1]⟩ ∧ (s.ctxOf 0 false).stop = false)
    ∧ NoBar st ∧ openBefore st 0 false st.ids .dev = false ∧ st.ctx.rels = [] ∧ st.ctx.ngets = [] := by
  dsimp only [Readable, NoBarAt, Present, NoBar]; and_intros <;> decide +kernel

theorem test_meets_DueFaultsAndTimeouts : mayIssue st 0 false = true ∧ st.ctx.units = none ∧ st.ctx.closedFrom = none ∧ st.ctx.inh = false
    ∧ (let s := owner (fun c => { c with closedFrom := some 0x10000 }) st
       mayIssue s 0 false = true ∧ s.ctx.units = none ∧ s.ctx.closedFrom = some 0x10000)
    ∧ (let s := owner (fun c => { c with held := [⟨1, .mmRace, 0x10008, 8⟩] }) st
       mayIssue s 0 false = true ∧ s.ctx.units = none ∧ s.ctx.closedFrom = none ∧ s.ctx.held = [⟨1, .mmRace, 0x10008, 8⟩])
    ∧ (let s := owner (fun c => { c with bops := [⟨0x10008, 0x10040, some 3⟩], further := true, regs := c.regs.set 3 ⟨all1, true⟩ }) st
       mayIssue s 0 false = true ∧ s.ctx.held = [] ∧ s.ctx.further = true ∧ s.ctx.inh = false ∧ s.ctx.bops = [⟨0x10008, 0x10040, some 3⟩]
         ∧ scalarDest (.add 1 3 2) = some 1 ∧ scalarReads (.add 1 3 2) = 3 :: 2 :: [1] ∧ ∃ y ∈ s.ctx.bops, y.reg = some 3)
    ∧ (let s := owner (fun c => { c with async := [⟨1, .reedTimeout, 0, 8⟩] }) st
       mayIssue s 0 false = true ∧ s.ctx.bops = [] ∧ s.ctx.async.find? (fun p => p.launch == s.ctx.launch) = some ⟨1, .reedTimeout, 0, 8⟩)
    ∧ (let s := { owner (fun c => { c with stall := some ⟨some 3, 0, false⟩, regs := c.regs.set 3 ⟨0, false⟩ }) st with now := 65537 }
       mayIssue s 0 false = true ∧ s.ctx.stall = some ⟨some 3, 0, false⟩ ∧ 0 + 65536 < s.now ∧ (elapse s 5).me.owner.stall = some ⟨some 3, 0, false⟩) := by
  and_intros <;> decide +kernel

/-- A slice all of whose 64 slots are used, by queues mapped in order, with core 0's queue of one record waiting. -/
def T.fullSt : State :=
  { upper 0xB0800 (List.replicate 32 0) (upper 0x10000 (natLe 8 (2 ^ 32)) (tables st)) with
      slices := [(0, { Slice.reset with slots := (List.range 64).map (fun n => (n, ⟨⟨1, n + 64⟩, 0, 1, n, 0, none⟩)), waiting := [⟨1, 0⟩] })] }

/-- The queue of core 1's channel 0, and a core whose slice holds it alone. -/
def T.q8 : QSlot := ⟨⟨1, 8⟩, 0, 1, 0, 0, none⟩

theorem T.only_queued {s : State} {m : Nat × QSlot × Launch} (hs : (s.slice (sliceOf 1)).slots = [(3, q8)]) (hl : s.launch 1 = some launch)
    (h : Eligible s 1 m) : m = (3, q8, launch) := by
  obtain ⟨n, q, l⟩ := m
  obtain ⟨a, b, -, -⟩ := h
  simp only [hs, List.mem_singleton, Prod.mk.injEq] at a
  obtain ⟨rfl, rfl⟩ := a
  have : some launch = some l := hl.symm.trans b
  simp_all

theorem T.pick_queued {s : State} (hs : (s.slice (sliceOf 1)).slots = [(3, q8)]) (hl : s.launch 1 = some launch)
    (he : eligibleFor s launch 8 1 = true) : PickOf s 1 false 0 3 q8 launch := by
  have e : Eligible s 1 (3, q8, launch) := ⟨by simp [hs], hl, by decide, he⟩
  have c : effChan launch q8.name.idx = 0 := by decide
  have r : ReadyChan s 1 false 0 := ⟨by decide, _, e, c⟩
  have z : ∀ k, ReadyChan s 1 false k → k = 0 := by
    rintro k ⟨-, m, h, hk⟩
    rw [only_queued hs hl h] at hk
    exact hk.symm.trans c
  refine ⟨r, fun _ k h => by simp [z k h], fun k h => ?_, by decide, by simp [hs, mfind], e, c, fun m h _ _ => by rw [only_queued hs hl h]⟩
  obtain rfl := z k h.1
  exact ⟨h, .inr ⟨rfl, Nat.le_refl _⟩⟩

/-- The same with byte 22 of the record at the queue's HEAD, which holds EXCL, and with a harvest task running. -/
def T.headSt (b : Byte) (f : Core → Core) : State :=
  State.modCore { upper ((queueSlot launch 8 0).toNat - 0xFFFF800000000000 + 22) [b] (tables st) with slices := T.queued.slices } 1 f
def T.harvesting (c : Core) : Core := { c with harv := { Ctx.reset with task := some task } }

theorem test_meets_SchedulerAndHarvestEvents :
    (∀ f ∈ ([id, harvesting, fun c => { c with launch := 2 }, fun c => harvesting { c with launch := 2 }] : List (Core → Core)),
      let s := headSt 0 f
      freeToPick s 1 false = true ∧ (s.slice (sliceOf 1)).slots = [(3, q8)] ∧ s.launch 1 = some launch ∧ eligibleFor s launch 8 1 = true
        ∧ headExcl s launch q8 = false ∧ (s.core 1).loan = Loan.none ∧ (s.core 1).parked = false ∧ (s.core 1).parking = none)
    ∧ (T.queued.core 1).launch = launch.num ∧ canSwitch (T.queued.modCore 1 (fun c => { c with launch := 2 })) 1 = true
    ∧ canSwitch (T.queued.modCore 1 (fun c => harvesting { c with launch := 2 })) 1 = false
    ∧ (let s := headSt 1 harvesting
       freeToPick s 1 false = true ∧ (s.slice (sliceOf 1)).slots = [(3, q8)] ∧ s.launch 1 = some launch ∧ eligibleFor s launch 8 1 = true
         ∧ headExcl s launch q8 = true ∧ exclIn s launch q8 = true ∧ (s.core 1).harv.task.isSome = true ∧ (s.core 1).parked = false
         ∧ (s.core 1).excld = false ∧ (s.core 1).parking = none)
    ∧ q8.served 1000 1 = false ∧ ({ q8 with last := some (1000, 2) } : QSlot).served 1000 1 = true
    ∧ (takeRecord T.queued 0 3 1).2.isSome = true := by
  refine ⟨?_, ?_⟩ <;> decide +kernel

/-- Core 0's queue full, so that nothing is posted there. -/
def T.noRoom : State := { st with slices := [(0, { Slice.reset with slots := [(0, ⟨⟨1, 2⟩, 0, 64, 0, 0, none⟩)] })] }

theorem test_meets_SchedulerAndHarvestEvents_posts :
    ({ st with posts := [⟨9, cr0, 0, none, some (false, 9)⟩] }.posts.find? (fun (p : Post) => p.id == 9)) = some ⟨9, cr0, 0, none, some (false, 9)⟩
    ∧ (st.launch cr0.launch).isSome = true ∧ openBefore st 0 false 9 .dev = false
    ∧ openBefore (owner (fun c => { c with out := [out] }) st) 0 false 9 .dev = true
    ∧ (post st cr0 0 none).isSome = true ∧ post noRoom cr0 0 none = none
    ∧ (st.slice 5).quantum + 1 = 1 ∧ (st.slice 5).waiting = [] ∧ 1 * 20000 ≤ st.time ∧ State.reset.time < 1 * 20000 := by
  and_intros <;> decide +kernel

theorem test_meets_SchedulerAndHarvestEvents_quantum : (fullSt.slice 0).waiting = [⟨1, 0⟩] ∧ (∀ m, m < 64 → (mfind (fullSt.slice 0).slots m).isSome = true)
    ∧ mfind (fullSt.slice 0).slots 0 = some ⟨⟨1, 64⟩, 0, 1, 0, 0, none⟩
    ∧ (∀ p ∈ (fullSt.slice 0).slots, p ≠ (0, ⟨⟨1, 64⟩, 0, 1, 0, 0, none⟩) → p.2.from_ < 1 → 0 < p.2.at_)
    ∧ (let u := (unmapSlot (fullSt.modSlice 0 (fun y => { y with quantum := 1 })) 0 0).modSlice 0 (fun y => { y with waiting := [⟨1, 64⟩] })
       (queueHeader u launch 0).2 = (0, 1)) := by
  and_intros <;> decide +kernel

/-- Slice 0 at its tick `wheelPhase + 10`, with records of core 0 on the wheel. -/
def T.wheelSt (w : List WheelRec) (s : State) : State :=
  { s with time := (Config.wheelPhase 0 + 10) * 1000,
           slices := [(0, { Slice.reset with ticked := Config.wheelPhase 0 + 9, wheel := w, slots := [queue 1 1] })] }
def T.rec0 (t : Nat) : WheelRec := ⟨t, cr0, 0, 0, false, 8⟩

theorem test_meets_SchedulerAndHarvestEvents_wheel :
    (let s := wheelSt [rec0 6, rec0 5] (owner (fun c => { c with out := [out] }) st)
     (s.slice 0).wheel = [rec0 6, rec0 5] ∧ (s.slice 0).ticked = Config.wheelPhase 0 + 9 ∧ s.time = (Config.wheelPhase 0 + 10) * 1000)
    ∧ (∀ n k, k = n + 9 + 1 → k ≤ ((n + 10) * 1000 + n) / 1000 ∧ (rec0 5).t < (rec0 6).t ∧ (rec0 6).t ≤ k * 1000 - n ∧ (rec0 6).tick < k)
    ∧ openBefore (owner (fun c => { c with out := [out] }) st) 0 false 8 .dev = true ∧ openBefore st 0 false 8 .dev = false
    ∧ (let v := { st with slices := [(0, { Slice.reset with slots := [queue 1 1] })] }
       (post (clearTags v 0 .dev) cr0 0 (some 1)).isSome = true)
    ∧ post (clearTags { st with slices := [(0, { Slice.reset with slots := [(1, ⟨⟨1, 1⟩, 0, 64, 0, 0, none⟩)] })] } 0 .dev) cr0 0 (some 1) = none := by
  refine ⟨⟨rfl, rfl, rfl⟩, fun n k h => ?_, by decide +kernel, by decide +kernel, by decide +kernel, by decide +kernel⟩
  simp only [rec0]
  omega

/-- A page swapped out to the device, a pool that has a frame for it, and a task that waits for it. -/
def T.flash : FlashPage := ⟨0x2000, 0, 0, 3, true, [(5, 7)], []⟩
def T.paged (x : List Swapped) (s : State) : State := s.modCrust (fun c => { c with flash := [flash], pool := [4, 9], swapped := x })

theorem test_meets_SchedulerAndHarvestEvents_pages : let entry : Word := 0x4000F
    let x : Swapped := ⟨0x2000, cr0, 0, false, 8⟩
    Memory.wf st.hbm.bytes = true ∧ entry.getLsbD 0 = true ∧ st.crust.hostMode = false ∧ st.crust.flash = []
    ∧ (paged [] st).crust.flash.find? (fun p => p.pte == 0x2000) = some flash ∧ bitsOf entry.toNat 16 23 * 65536 = 0x40000
    ∧ (∀ f ∈ (List.range (2 ^ (pageBits 0 - 16))).map (0x40000 / 65536 + ·), f ∈ (paged [] st).crust.pool) ∧ 6 ∉ (paged [] st).crust.pool
    ∧ (5 : Nat) < 2 ^ pageBits 0 ∧ (0x2000 : Nat) + 8 ≤ 0x40000 ∧ (swapIn (paged [x] st) 0x2000 entry).isSome = true
    ∧ openBefore (paged [x] (owner (fun c => { c with out := [out] }) st)) x.core x.hv x.upTo .dev = true
    ∧ openBefore (paged [x] st) x.core x.hv x.upTo .dev = false := by
  and_intros <;> decide +kernel

theorem test_meets_SchedulerAndHarvestEvents_park :
    (let s := ops (fun c => { c with parking := some 7, harv := { Ctx.reset with task := some task } }) st
     (s.core 0).parking = some 7 ∧ (s.core 0).harv.task.isSome = true ∧ (s.core 0).harv.ending = none ∧ (s.core 0).harv.units = none
       ∧ (s.core 0).harv.closedFrom = none ∧ (s.core 0).harv.stop = false)
    ∧ (let s := ops (fun c => { c with parked := true, en := true, permit := true, harv := { Ctx.reset with task := some task } }) st
       (s.core 0).parked = true ∧ (s.core 0).harvestOn = true ∧ (s.core 0).preempt = none ∧ switchDue s 0 = false ∧ (s.core 0).harv.stop = false) := by
  and_intros <;> decide +kernel

theorem test_meets_LaunchEvents : (natLe 64 desc).length = 64 ∧ st.crust.step = 10
    ∧ ({ st.crust with hostMode := true } : Crust).hostMode = true ∧ st.crust.hostMode = false
    ∧ (asked desc).lreqs.find? (fun r => r.id == 6) = some (lreq desc) ∧ 1 ≤ grant.num ∧ grant.num ≤ 65535
    ∧ (asked desc).launch 3 = none ∧ ((asked desc).launches.filter (·.live)).length < 65535 ∧ leNat (natLe 64 desc) = desc
    ∧ grant.ttab.toNat % 256 = 0 ∧ grant.ttab.toNat.testBit 47 = true ∧ isCanon grant.ttab = true
    ∧ ok_ (checkDesc (probing (asked desc) 6 (lreq desc) grant) (lreq desc) desc).2 = true
    ∧ ok_ (checkDesc (probing (asked 0) 6 (lreq 0) grant) (lreq 0) 0).2 = false
    ∧ (st.launch 1).isSome = true ∧ (recordsLeft st 1 || mailLeft st 1 || tasksLeft st 1 || enginesLeft st 1) = true := by
  and_intros <;> decide +kernel

/-- A descriptor with a reserved bit, one that reaches past the grid's edge, one on core 0 alone of which nothing is barred, one whose records
and groups stand at 0x30000, and one that names its slices there. -/
theorem test_meets_LaunchEvents_codes :
    (desc + 2 ^ 464) / 2 ^ 464 % 2 ^ 48 ≠ 0 ∧ desc / 2 ^ 464 % 2 ^ 48 = 0 ∧ desc / 2 ^ 161 % 2 ^ 31 = 0
    ∧ desc / 2 ^ 64 % 2 ^ 64 = 0 ∧ desc.testBit 143 = false ∧ desc / 2 ^ 460 % 16 = 6 ∧ desc / 2 ^ 256 % 2 ^ 64 = 0
    ∧ desc / 2 ^ 448 % 4096 = 0 ∧ (desc + 2 ^ 448) / 2 ^ 448 % 4096 ≠ 0 ∧ desc.testBit 160 = false ∧ (desc + 2 ^ 160).testBit 160 = true
    ∧ 256 < (desc + 255 * 2 ^ 128 + 2 ^ 144) / 2 ^ 128 % 256 + (desc + 255 * 2 ^ 128 + 2 ^ 144) / 2 ^ 144 % 256 + 1
    ∧ (2 ^ 63).testBit 63 = true := by decide +kernel

theorem test_meets_LaunchEvents_barred : (asked desc).launches.length < 65535
    ∧ (asked desc).launch (lreq desc).launch = none ∧ ((asked desc).core 0).retired = false
    ∧ (ops (fun c => { c with retired := true }) (asked desc)).me.retired = true := by decide +kernel

theorem test_meets_LaunchEvents_entry :
    (functionEntry (probing (asked desc) 6 (lreq desc) grant) (BitVec.ofNat 64 (desc % 2 ^ 64))).2 = true
    ∧ (functionEntry (probing (asked desc) 6 (lreq desc) grant) 4).2 = false := by decide +kernel

theorem test_meets_LaunchEvents_reads : (probeRead (probing (asked desc) 6 (lreq desc) grant) 0xFFFF810000000000 64).2 = none
    ∧ (probeRead (probing (upper 0x30000 (natLe 8 (2 ^ 63)) (asked desc)) 6 (lreq desc) grant) 0xFFFF800000030000 8).2 = some (natLe 8 (2 ^ 63)) := by
  decide +kernel

theorem test_meets_LaunchEvents_ctx :
    (let s := owner (fun c => { c with out := [{ out with dest := .reg 4 .d }] }) (upper 0x30000 (natLe 64 desc) (asked desc))
     let r := { lreq desc with by_ := .ctx 0 false 7, launch := 1, desc := 0xFFFF800000030000 }
     (probeRead (probing { s with lreqs := [r] } 6 r grant) r.desc 64).2 = some (natLe 64 desc)
       ∧ WaitsFor { s with lreqs := [r] } 0 false 7 4 ∧ ObjectOpen { s with lreqs := [r] } 0 1 0 false) := by
  refine ⟨by decide +kernel, ⟨{ out with dest := .reg 4 .d }, by decide +kernel, rfl, .inr (by decide +kernel), by decide +kernel⟩, ?_⟩
  dsimp only [ObjectOpen]; decide +kernel

theorem test_meets_LaunchEvents_end :
    (let s := { st with cores := [(256, idle)], slices := [], launches := [{ launch with by_ := .ctx 2 false 4, parent := 2 }, { launch with num := 2 }] }
     (recordsLeft s 1 || mailLeft s 1 || tasksLeft s 1 || enginesLeft s 1) = false) := by decide +kernel

theorem test_meets_DebugRequests : KeysOf (local_ 8 [1] st) 0 1 8 1
    ∧ (let s := owner (fun c => { c with stop := true }) (upper 0x10000 lineBytes (tables st))
       (s.ctxOf 0 false).stop = true ∧ (startOk s 0 false 0xFFFF800000010008).2 = true ∧ (startOk s 0 false 0xFFFF80000001000A).2 = false
         ∧ (s.ctxOf 0 false).task = some task)
    ∧ (st.ctxOf 0 false).stop = false ∧ Memory.wf (st.core 0).lm.bytes = true ∧ (0x001 : BitVec 10).toNat < 3
    ∧ ((ops (fun c => { c with tilesOf := 1 }) st).core 0).tileLaunch 0 = 1
    ∧ (let s := owner (fun c => { c with stop := true }) st
       openBefore (freeCtx (s.modCtxOf 0 false (fun x => { x with held := [], bops := [] })) 0 false) 0 false s.ids .dev = false
         ∧ (post (clearTags (freeCtx (s.modCtxOf 0 false (fun x => { x with held := [], bops := [] })) 0 false) 0 .dev) cr0 0 none).isSome = true)
    ∧ lmBadIn (ops (fun c => { c with lm := { c.lm with bad := [0] } }) st) 0 8 1 ≠ none
    ∧ (let p := { pkt (.rply .ack) with at_ := .router 0 2 }
       ({ st with net := [p] } : State).pkt 5 = some p) := by
  dsimp only [KeysOf]; and_intros <;> decide +kernel

theorem test_meets_CoreRequests : (owner (fun c => { c with stop := true }) st).me.owner.stop = true
    ∧ st.me.owner.stop = false ∧ isSvc 0 = false ∧ st.me.launch ≠ 0 ∧ st.me.preempt = none ∧ st.me.owner.inh = false ∧ st.me.loan = Loan.none
    ∧ (let s := ops (fun c => { c with permit := true, harv := { Ctx.reset with task := some task } }) st
       s.me.permit = true ∧ s.me.harv.task.isSome = true ∧ s.me.parked = false ∧ s.me.parking = none)
    ∧ (let s := ops (fun c => { c with preempt := some ⟨0, false⟩ }) st
       s.me.preempt = some ⟨0, false⟩ ∧ s.me.owner.inh = false ∧ s.me.owner.stop = false ∧ s.me.owner.ending = none ∧ s.me.owner.units = none
         ∧ s.me.owner.closedFrom = none ∧ s.me.owner.task.isSome = true)
    ∧ (let s := ops (fun c => { c with preempt := some ⟨0, true⟩ }) st
       s.me.preempt = some ⟨0, true⟩ ∧ canSwitch s 0 = true ∧ s.me.loan = Loan.none ∧ s.me.owner.task = some task ∧ s.me.owner.ngets = []
         ∧ (∀ i : SReg, s.me.owner.bank.regs[i].present = true) ∧ s.me.owner.held = []
         ∧ s.launch 0 = none ∧ (s.launch 1).isSome = true ∧ s.me.launch ≠ 0)
    ∧ (let s := ops (fun c => { c with preempt := some ⟨0, true⟩, owner := { c.owner with out := [out], held := [⟨1, .mmRace, 0x10008, 8⟩] } }) st
       canSwitch s 0 = false ∧ s.me.owner.held = [⟨1, .mmRace, 0x10008, 8⟩] ∧ s.me.owner.inh = false)
    ∧ (st.core 1).owner.task = none ∧ (st.core 1).harv.task = none ∧ st.me.owner.task.isSome = true
    ∧ (ops (fun c => { c with retired := true }) st).me.retired = true ∧ st.me.retired = false ∧ st.crust.step = 10 := by
  and_intros <;> decide +kernel

theorem test_meets_PowerEvents :
    (st.now < st.crust.windowAt + 2000) ∧ ({ st with now := 2000 } : State).crust.windowAt + 2000 ≤ 2000
    ∧ 1000 * st.crust.limit < 1000 * 2000 + 1 ∧ (1000 * 1899 + 999) * 100 < 1000 * st.crust.limit * 95
    ∧ 1000 * st.crust.limit * 95 ≤ 1000 * 1900 * 100 ∧ 1000 * 1900 ≤ 1000 * st.crust.limit
    ∧ (let c : Crust := { st.crust with cstep := 15, overRun := 49 }
       c.cstep = 15 ∧ 49 ≤ c.overRun)
    ∧ ({ Loaf.reset with octet := 125 } : Loaf).octet = st.now / 8 ∧ (st.launch 1).isSome = true
    ∧ (st.now < (st.loaf 7).perStart + (st.loaf 7).period) ∧ (st.loaf 7).perStart + (st.loaf 7).period ≤ 2000
    ∧ ∃ n, (n + Config.loafPhase 7) % 16 = 0 := by
  refine ⟨?_, ?_, ?_, ?_, ?_, ?_, ?_, ?_, ?_, ?_, ?_, ⟨16 * Config.loafPhase 7 - Config.loafPhase 7, ?_⟩⟩ <;> first | omega | decide +kernel

/-- A start with nothing fetched, and its parts that fail. -/
def T.start (img : List Byte) (bad : List Nat) : StartInput := ⟨img, none, true, bad, true, true⟩

theorem test_meets_StartEvents : (start [] []).bad = [] ∧ imageOk [0] = false ∧ State.reset.crust.retry = false ∧ State.reset.crust.step = 0
    ∧ (let s := st.modCrust (fun c => { c with retry := true, tries := 3 })
       s.crust.retry = true ∧ s.crust.keptImg = none ∧ 1 ∉ (start [0] [3]).bad ∧ 2 ∉ (start [0] [3]).bad ∧ 3 ∈ (start [0] [3]).bad)
    ∧ (let s := st.modCrust (fun c => { c with warmreq := true, keptTrain := true, hostMode := true })
       s.crust.retry = false ∧ s.crust.step ≠ 0 ∧ s.crust.warmreq = true ∧ (tearAll s).crust.keptTrain = true ∧ (start [0] [3]).trainKept = true
         ∧ (∀ k, (tearAll s).crust.keptImg = some k → sha384 k.1 ≠ k.2) ∧ s.crust.hostMode = true)
    ∧ (let s := { st with now := 4000000000, crust := { Crust.reset with step := 6, input := some (start [] []) } }
       s.crust.step = 6 ∧ s.crust.input.isSome = true ∧ s.crust.fetchAt + 4000000000 * 2 ^ min 4 s.crust.fetchTry ≤ s.now) := by
  and_intros <;> decide +kernel

/-- The hash of R361 and R360, on the three-byte message of FIPS 180-4. -/
theorem test_sha384 : beNat (sha384 [0x61, 0x62, 0x63]) =
    0xcb00753f45a35e8bb5a03d699ac65007272c32ab0eded1631a8b605a43ff5bed8086072ba1e7cc2358baeca134c825a7 := by decide +kernel

/-- The header of an image of one MiB whose rollback number is the largest. -/
def T.header : List Byte :=
  imageMagic ++ natLe 4 1 ++ natLe 4 0xFFFFFFFF ++ natLe 8 1048576 ++ natLe 8 0xFFFF800000010008 ++ List.replicate 192 0

/-- Every check of an image but those against what the part holds, its key and its rollback floor, passes for some image. -/
theorem test_meets_StartEvents_image (pad : List Byte) (h : pad.length = 1048576) (sig : imageSigned (header ++ pad) = true)
    (fl : Config.rollbackFloor ≤ 0xFFFFFFFF) : imageOk (header ++ pad) = true := by
  have hl : header.length = 224 := by decide +kernel
  have hb : ∀ off n, off + n ≤ 224 → imgBytes (header ++ pad) off n = imgBytes header off n := by
    intro off n hn
    unfold imgBytes
    rw [List.drop_append_of_le_length (by omega), List.take_append_of_le_length (by simp; omega)]
  have hp : imgPayload (header ++ pad) = pad := by
    unfold imgPayload imgField
    rw [hb 16 8 (by omega), show leNat (imgBytes header 16 8) = 1048576 by decide +kernel]
    unfold imgBytes
    rw [show (224 : Nat) = header.length from hl.symm, List.drop_left, ← h, List.take_length]
  have f : ∀ off n, off + n ≤ 224 → imgField (header ++ pad) off n = imgField header off n := fun off n hn => by
    unfold imgField; rw [hb off n hn]
  unfold imageOk
  simp only [hp, sig, f 16 8 (by omega), f 8 4 (by omega), f 12 4 (by omega), hb 0 8 (by omega), hb 33 95 (by omega), h, Bool.and_eq_true,
    decide_eq_true_eq]
  refine ⟨⟨⟨⟨⟨⟨⟨?_, ?_⟩, ?_⟩, ?_⟩, ?_⟩, ?_⟩, trivial⟩, ?_⟩ <;> first | decide +kernel | (simpa [show imgField header 12 4 = 0xFFFFFFFF by decide +kernel] using fl)

theorem test_meets_GatewayAndTime : 5 ≤ st.crust.step ∧ State.reset.crust.step < 5 ∧ exportAt gw 0x1FFF 1 = some window
    ∧ exportAt gw 0x1FFF 2 = none ∧ gw.crust.gwSeen.contains (2, 3) = false ∧ (gw.launch window.launch).isSome = true
    ∧ (let s := gw.modCrust (fun c => { c with gwSeen := [(2, 3)], gwAcked := [(2, 3, true)] })
       s.crust.gwSeen.contains (2, 3) = true ∧ s.crust.gwAcked.find? (fun a => a.1 == 2 && a.2.1 == 3) = some (2, 3, true))
    ∧ (let va := window.va + BitVec.ofNat 64 (0x1010 - window.off)
       va.toNat % 256 + 16 ≤ 256 ∧ isCanon va = true
         ∧ (match (walkAll (gw.modCrust (fun c => { c with gwSeen := c.gwSeen ++ [(2, 3)] })) 1 va .w).2 with
            | .leaf _ => true
            | _ => false) = true)
    ∧ 0 + 100000 ≤ ({ st with now := 100000 } : State).now ∧ st.now < gram.sent + 100000 ∧ (elapse st 3).slewLeft = 0 := by
  and_intros <;> decide +kernel

theorem test_meets_DecodeOfEncode : Instr.wf (.add 15 0 7) = true ∧ encode (.add 15 0 7) ≠ [] := by decide

theorem test_meets_StepRunsDecodedInstruction :
    (let s := { code line st with agenda := [⟨1, .issue 0 false⟩] }
     let e := elapse (nextTurn s).1 (nextTurn s).2.wait
     (nextTurn s).2.who = .issue 0 false ∧ (∃ u, Fetches { e with cur := ⟨0, false⟩ } u line) ∧ asyncAfter { e with cur := ⟨0, false⟩ } 0 false = none
       ∧ (∃ i, decode (line.words.drop ((e.ctxOf 0 false).pc.toNat / 4 % 32)) = .ok i)
       ∧ (∃ why, decode ((0x0000003E : Word32) :: []) = .error why))
    ∧ (let s := owner (fun c => { c with async := [⟨1, .reedTimeout, 0, 8⟩], bops := [⟨0x10008, 0x10040, some 3⟩] }) { code line st with agenda := [⟨1, .issue 0 false⟩] }
       let e := elapse (nextTurn s).1 (nextTurn s).2.wait
       (nextTurn s).2.who = .issue 0 false ∧ (∃ u, Fetches { e with cur := ⟨0, false⟩ } u line) ∧ (asyncAfter { e with cur := ⟨0, false⟩ } 0 false).isSome = true)
    ∧ isEvent (.wheelTick 0) = true := by
  refine ⟨⟨rfl, ⟨_, ?_, ?_, ?_, ?_, ?_, ?_, ?_, ?_, rfl, ?_⟩, ?_, ⟨_, rfl⟩, ⟨_, rfl⟩⟩, ⟨rfl, ⟨_, ?_, ?_, ?_, ?_, ?_, ?_, ?_, ?_, rfl, ?_⟩, ?_⟩, rfl⟩ <;> decide +kernel

theorem test_meets_StepKeepsMemoryForm : ∃ t, { code line st with agenda := [⟨1, .idle⟩] }.memoryWf = true
    ∧ step { code line st with agenda := [⟨1, .idle⟩] } = .next t := ⟨_, by decide +kernel, rfl⟩

/-! ### Single steps, with results from the specification's worked cases or worked out by hand from its rules -/

namespace T

/-- The state after an instruction. -/
def after (i : Instr) (s : State) : State :=
  match exec i s with
  | .next t => t
  | .fault _ | .refused _ => s

/-- The core with bits in a row. -/
def row (v : VReg) (n : Nat) (s : State) : State := s.setRow v (BitVec.ofNat 512 n)

end T

/-- R112: a zero divisor gives all ones, the one overflow the dividend. -/
theorem test_div_corners : (after (.div 3 1 2) (reg 1 5 st)).val 3 = 0xFFFFFFFFFFFFFFFF
    ∧ (after (.div 3 1 2) (reg 1 0x8000000000000000 (reg 2 0xFFFFFFFFFFFFFFFF st))).val 3 = 0x8000000000000000
    ∧ (after (.rem 3 1 2) (reg 1 0xFFFFFFFFFFFFFFF9 (reg 2 2 st))).val 3 = 0xFFFFFFFFFFFFFFFF := by decide +kernel

/-- R112: the count is the whole of the second operand, and the destination may be a source. -/
theorem test_shift_counts : (after (.shl 2 1 2) (reg 1 1 (reg 2 64 st))).val 2 = 0 ∧ (after (.shl 2 1 2) (reg 1 1 (reg 2 63 st))).val 2 = 0x8000000000000000
    ∧ (after (.sra 2 1 2) (reg 1 0x8000000000000000 (reg 2 200 st))).val 2 = 0xFFFFFFFFFFFFFFFF := by decide +kernel

/-- R112: the high half of a product, signed and not. -/
theorem test_mulh : (after (.mulh 3 1 2) (reg 1 0xFFFFFFFFFFFFFFFF (reg 2 0xFFFFFFFFFFFFFFFF st))).val 3 = 0
    ∧ (after (.mulhu 3 1 2) (reg 1 0xFFFFFFFFFFFFFFFF (reg 2 0xFFFFFFFFFFFFFFFF st))).val 3 = 0xFFFFFFFFFFFFFFFE := by decide +kernel

/-- R115: s1 := s2[11:8], and a field of the whole register. -/
theorem test_fields : (after (.bext 1 2 8 3) (reg 2 0xABCD st)).val 1 = 0xB ∧ (after (.bins 1 2 8 3) (reg 1 0xFFFF (reg 2 0x12 st))).val 1 = 0xF2FF
    ∧ (after (.bins 1 2 0 63) (reg 1 7 (reg 2 9 st))).val 1 = 9 := by decide +kernel

/-- R116: lea adds to the address of its line, not to the pc. -/
theorem test_lea : (after (.lea 5 0x0200) (code line st)).val 5 = 0x10200 ∧ (after (.lea 5 0xFFFF) (code line st)).val 5 = 0xFFFF := by
  decide +kernel

/-- R118, R119: a branch that is not taken moves on; a call leaves the address after it. -/
theorem test_branches : (after (.bc .lt 1 2 0 2) (reg 1 5 (code line st))).ctx.pc = 0x1000C
    ∧ (after (.bc .lt 1 2 0 2) (reg 1 0xFFFFFFFFFFFFFFFB (code line st))).ctx.pc = 0x10008
    ∧ (after (.callLit 15 0x10008) (code line st)).val 15 = 0x10014 := by decide +kernel

/-- R90: bytes are little-endian and sign-extended; a store writes its own bytes only. -/
theorem test_local : (after (.ldl 3 1 .sh 2) (reg 1 0x100 (local_ 0x100 [1, 2, 3, 0x80] st))).val 3 = 0xFFFFFFFFFFFF8003 := by decide +kernel

theorem test_local_store : cellRead (after (.stl 3 1 .w 0) (reg 3 0x1122334455667788 (reg 1 0xFFFC st))).me.lm.bytes 0xFFFA 6 = [0, 0, 0x88, 0x77, 0x66, 0x55] := by
  decide +kernel

/-- The worked case of chapter 06: 1.4375 to E4M3 under each mode. -/
theorem test_vcvt_modes : ∀ x ∈ ([(0, 0x3C), (1, 0x3B), (2, 0x3B), (3, 0x3C)] : List (Fin 8 × Nat)),
    ((after (.vcvt 32 16 0 2 10 x.1 true) (row 16 0x3FB80000 st)).me.row 32).bits.toNat % 256 = x.2 := by decide +kernel

theorem test_vcvt_modes_negative : ∀ x ∈ ([(0, 0xBC), (1, 0xBB), (2, 0xBC), (3, 0xBB)] : List (Fin 8 × Nat)),
    ((after (.vcvt 32 16 0 2 10 x.1 true) (row 16 0xBFB80000 st)).me.row 32).bits.toNat % 256 = x.2 := by decide +kernel

/-- Chapter 06: 500 to E4M3 overflows; 464 is a tie that rounds to 448. -/
theorem test_vcvt_overflow : ((after (.vcvt 32 16 0 2 10 0 false) (row 16 (0x43FA0000 + 0x43E80000 * 2 ^ 32) st)).me.row 32).bits.toNat % 65536 = 0x7E7F
    ∧ ((after (.vcvt 32 16 0 2 10 0 true) (row 16 (0x43FA0000 + 0x43E80000 * 2 ^ 32) st)).me.row 32).bits.toNat % 65536 = 0x7E7E := by decide +kernel

/-- Chapter 06: two lanes of 1 + 2^-14 to E2M1 with stochastic rounding from STATE 1. -/
theorem test_vcvt_stochastic : ((after (.vcvt 32 16 0 6 10 4 true) (row 16 (0x3F800200 + 0x3F800200 * 2 ^ 32) st)).me.row 32).bits.toNat % 256 = 0x23 := by
  decide +kernel

/-- R216: a NaN is unordered; the other relations are false with it. -/
theorem test_vcmp_nan : ((after (.vcmpUn 4 5 6) (row 5 0x7FC00000 st)).me.row 4).bits.toNat = 0xFFFFFFFF
    ∧ ((after (.vcmpNe 4 5 6) (row 5 0x7FC00000 st)).me.row 4).bits.toNat % 2 ^ 64 = 0xFFFFFFFF := by decide +kernel

/-- R215: one rounding of a fused multiply-add: (1 + 2^-23)(1 - 2^-23) - 1 = -2^-46. -/
theorem test_vfma_once : ((after (.vfma 0 16 32) (row 0 0xBF800000 (row 16 0x3F800001 (row 32 0x3F7FFFFE st)))).me.row 0).bits.toNat % 2 ^ 32 = 0xA8800000 := by
  decide +kernel

/-- R334: trap saves the next instruction's address and enters the handler in supervisor mode. -/
theorem test_trap : (after (.trap 5) (code line table)).ctx.pc = 0xFFFF800000010008 ∧ (after (.trap 5) (code line table)).ctx.bank.rpc = 0x1000C
    ∧ (after (.trap 5) (code line table)).ctx.eval = 5 ∧ (after (.trap 5) (code line table)).ctx.mode = true := by decide +kernel

/-- R345, R335: a return outside a handler is ILLEGAL_OP, and a harvest context stops with it. -/
theorem test_return_outside : let s := ops (fun c => { c with harv := { Ctx.reset with task := some task } }) { st with cur := ⟨0, true⟩ }
    (after (.rte 1) s).ctx.stop = true ∧ (after (.rte 1) s).ctx.eval = firstWord (.rte 1) ∧ (after (.rte 1) s).ctx.ecause = 1 := by decide +kernel

/-- R87, R77: an atomic at a door answers the old value and leaves the sum. -/
theorem test_door_atomic : objNum (after (.dat 5) (doorSt 0xFFFFFFFF (.dat 0x40 (.atom .add false 2 0)))) 0 0x40 = 1
    ∧ ((after (.dat 5) (doorSt 0xFFFFFFFF (.dat 0x40 (.atom .add false 2 0)))).net.map (·.body)) = [.rply (.val 0xFFFFFFFF)] := by decide +kernel

/-- R258: the last arrival of a phase completes it. -/
theorem test_barrier_completes : let s := after (.barvDoor 5) (doorSt (2 ^ 128 + 2 * 2 ^ 144 + 3 * 2 ^ 160 + 2 * 2 ^ 112) (.dat 0x40 (.barv 3)))
    bitsOf (objNum s 0 0x40) 160 32 = 4 ∧ bitsOf (objNum s 0 0x40) 128 16 = 0 := by decide +kernel

/-- The drain of chapter 10: rows 0 and 1 of t0 as BF16, its columns as E4M3 with their scales. -/
theorem test_drain : let s := after (.tdrain 1 2 3 0 1 2 0 0 0 0x3000) (reg 1 0x100 (reg 2 0x1000 (reg 3 0x2000
      (row 0 (0x3FC00000 + 0x40200000 * 2 ^ 32) (row 1 (0x40C00000 + 0x40500000 * 2 ^ 32) st)))))
    (s.me.copies.map (fun c => match c.work with
      | .drain l => l.filter (fun p => p.1 % 256 % 32 == 0 && (p.1 < 0x1200 && p.1 % 256 == 0 || 0x2000 ≤ p.1 && p.1 < 0x2200 || 0x3000 ≤ p.1 && p.1 < 0x3060))
      | .copy .. => [])) = [[(0x1000, [0xC0, 0x3F, 0x20, 0x40] ++ List.replicate 12 0), (0x1100, [0xC0, 0x40, 0x50, 0x40] ++ List.replicate 12 0),
        (0x2000, [0x6C, 0x7C] ++ List.replicate 14 0), (0x3000, [0x79]), (0x2100, [0x7A, 0x7D] ++ List.replicate 14 0), (0x3020, [0x78]),
        (0x3040, [0x7F])]] := by decide +kernel
end

/-! SUPPORT. Special registers (spec/02, spec/20): what csrr and csrw do in terms of the registers' values (`csrRead`) and of their writes
(`csrStore`), what a write leaves of the contexts and of memory, and the statement about every register of R44. -/

namespace Sys2Proof.Machine

open Sys2Proof

/-! ### Values of fields -/

/-- A field that a rule keeps at `lo` or more. -/
theorem ite_lt_eq_max (lo x : Nat) : (if x < lo then lo else x) = max lo x := by
  split <;> omega

/-- LIMIT of PWRSTAT is held to 1,200..2,400 (R351). -/
theorem ite_limit_eq_clamp (x : Nat) : (if x < 1200 then 1200 else if 2400 < x then 2400 else x) = max 1200 (min 2400 x) := by
  split
  · omega
  · split <;> omega

/-! ### csrr -/

/-- csrr of a register that can be read writes its value; VFLAG waits for the context's vcords (R211, R346). -/
theorem readCsr_ok {s t : State} {d : SReg} {n : Nat} {v : Word} (hd : Present s d) (hw : n = 0x051 → vcordsDone s = true)
    (hr : csrRead s n = some (t, v)) : readCsr d n s = .ok ((t.setReg d v).advance 1) := by
  have hgo : (n != 0x051 || vcordsDone s) = true := by
    by_cases h : n = 0x051
    · simp [hw h]
    · simp [h]
  simp only [readCsr, hr, destFree_ok hd, hgo, waitFor_true, bind_ok]

theorem exec_csrr_ok {s t : State} {d : SReg} {n : BitVec 10} {v : Word} (hd : Present s d)
    (hw : n.toNat = 0x051 → vcordsDone s = true) (hr : csrRead s n.toNat = some (t, v)) :
    exec (.csrr d n) s = .next (wrote t d v 1) :=
  congrArg (finish s) (readCsr_ok hd hw hr)

theorem exec_csrr_nat {s : State} {d : SReg} {n : BitVec 10} {v : Nat} (hd : Present s d) (hn : n.toNat ≠ 0x051)
    (hr : csrRead s n.toNat = some (s, BitVec.ofNat 64 v)) : exec (.csrr d n) s = .next (wrote s d (BitVec.ofNat 64 v) 1) :=
  exec_csrr_ok hd (fun h => absurd h hn) hr

/-- A register of at most 64 bits is read zero-extended. -/
theorem exec_csrr_bits {s : State} {d : SReg} {n : BitVec 10} {w : Nat} {x : BitVec w} (hd : Present s d)
    (hw : n.toNat = 0x051 → vcordsDone s = true) (hr : csrRead s n.toNat = some (s, x.setWidth 64)) :
    exec (.csrr d n) s = .next (wrote s d (BitVec.ofNat 64 x.toNat) 1) := by
  rw [exec_csrr_ok hd hw hr, BitVec.ofNat_toNat]

theorem exec_csrr_word {s : State} {d : SReg} {n : BitVec 10} {x : Word} (hd : Present s d) (hn : n.toNat ≠ 0x051)
    (hr : csrRead s n.toNat = some (s, x)) : exec (.csrr d n) s = .next (wrote s d (BitVec.ofNat 64 x.toNat) 1) :=
  exec_csrr_bits hd (fun h => absurd h hn) (by rw [hr, BitVec.setWidth_eq])

/-- csrr of a number without a register for the mode is ILLEGAL_OP with EVAL the number (R44). -/
theorem exec_csrr_illegal {s : State} {n : BitVec 10} (d : SReg) (hr : csrRead s n.toNat = none) :
    exec (.csrr d n) s = .next (precise s .illegalOp (BitVec.ofNat 64 n.toNat)) := by
  have h : readCsr d n.toNat s = .error (.trap .illegalOp (BitVec.ofNat 64 n.toNat)) := by simp only [readCsr, hr]
  exact (congrArg (finish s) h).trans (congrArg _ (preciseOp_eq s _ rfl))

theorem csrRead_coreId (s : State) :
    csrRead s 0x000 = some (s, BitVec.ofNat 64 (s.cur.core % 32768 + flagBit (isSvc s.cur.core) 15)) := by
  rw [Nat.add_comm]
  rfl

theorem csrRead_launch {s : State} {l : Launch} (hl : s.launch s.myLaunch = some l) :
    csrRead s 0x021 = some (s, l.ecnt) ∧ csrRead s 0x022 = some (s, l.ebud) := by
  simp [csrRead, hl]

theorem csrRead_pstep (s : State) : csrRead s 0x023 = some (s, BitVec.ofNat 64 (if isSvc s.cur.core then 0 else
    (s.loaf (loafOf s.cur.core)).floor * 256 + (s.loaf (loafOf s.cur.core)).step)) := by
  simp only [csrRead, pstepWord]
  split <;> rfl

theorem csrRead_hvctl (s : State) : csrRead s 0x040 = some (s, BitVec.ofNat 64 (flagBit s.me.en 0 + flagBit s.me.harv.task.isSome 1
    + flagBit s.me.parked 2 + flagBit s.me.excld 3 + flagBit s.me.permit 4 + s.me.revokes * 2 ^ 32)) := by
  simp only [csrRead, hvctlWord]
  congr 3
  omega

theorem csrRead_loan (s : State) : csrRead s 0x041 =
    some (s, BitVec.ofNat 64 (s.me.loan.base + s.me.loan.nunits * 256 + flagBit s.me.loan.t3 16)) := by
  simp only [csrRead, loanWord]
  congr 3
  omega

/-- A number that no register map assigns has no value in either mode (R44). -/
theorem csrRead_unassigned (s : State) {n : Nat}
    (hn : n ∉ [0x000, 0x001, 0x002, 0x010, 0x011, 0x012, 0x013, 0x020, 0x021, 0x022, 0x023, 0x024, 0x025, 0x030, 0x031, 0x032,
      0x040, 0x041, 0x050, 0x051, 0x060]) : csrRead s n = none := by
  unfold csrRead
  split <;> simp at hn ⊢

/-- RAMP and FABMODE are the supervisor's (R44). -/
theorem csrRead_user {s : State} (hm : s.ctx.mode = false) : csrRead s 0x025 = none ∧ csrRead s 0x060 = none := by
  simp [csrRead, hm]

theorem csrRead_ramp {s : State} (hm : s.ctx.mode = true) (hc : isSvc s.cur.core = false) :
    csrRead s 0x025 = some (s, rampWord s s.cur.core) := by
  simp [csrRead, hm, hc]

/-- EN and PERIOD are open on a service core, the reserved bits are zero (log 84). -/
theorem csrRead_ramp_svc {s : State} (hm : s.ctx.mode = true) (hc : isSvc s.cur.core = true) :
    ∃ v : Word, v.toNat < 2 ^ 17 ∧ csrRead s 0x025 = some ({ s with fresh := s.fresh + 1 }, v) := by
  refine ⟨s.freeWord.2 &&& 0x1FFFF, ?_, by simp [csrRead, hm, hc, State.freeWord]⟩
  rw [BitVec.toNat_and]
  exact lt_of_le_of_lt Nat.and_le_right (by decide)

theorem csrRead_fabmode {s : State} (hm : s.ctx.mode = true) : csrRead s 0x060 = some (s, BitVec.ofNat 64 (if isSvc s.cur.core then 0
    else (s.loaf (loafOf s.cur.core)).rto % 256 * 2 ^ 16 + flagBit (s.loaf (loafOf s.cur.core)).modeE 0)) := by
  simp only [csrRead, hm, if_true, fabmodeWord]
  split <;> rfl

/-! ### csrw: the instruction and the rows of its registers -/

/-- The number and the source of an instruction that writes a special register: csrw, and each register's own row of the opcode table. -/
def csrWriteOf : Instr → Option (Nat × SReg)
  | .csrw n a => some (n.toNat, a)
  | .bconfWrite a => some (0x030, a)
  | .trimcWrite a => some (0x031, a)
  | .rdvtoWrite a => some (0x032, a)
  | .srseedWrite a => some (0x050, a)
  | .statusWrite a => some (0x010, a)
  | .ebudWrite a => some (0x022, a)
  | .pstepWrite a => some (0x023, a)
  | .pwrstatWrite a => some (0x024, a)
  | .rampWrite a => some (0x025, a)
  | .hvctlWrite a => some (0x040, a)
  | .fabmodeWrite a => some (0x060, a)
  | _ => none

theorem exec_csrWrite {i : Instr} {n : Nat} {a : SReg} (h : csrWriteOf i = some (n, a)) (s : State) :
    exec i s = finish s (writeCsr n a s) := by
  unfold csrWriteOf at h
  split at h <;> cases h <;> rfl

/-- The issuing context may write the register in its mode (R44). -/
def mayWriteCsr (s : State) (n : Nat) : Bool := if s.ctx.mode then csrWrites n else userWrites n

theorem exec_csrWrite_ok {i : Instr} {n : Nat} {a : SReg} {s : State} (h : csrWriteOf i = some (n, a)) (hn : mayWriteCsr s n = true)
    (ha : Readable s a) : exec i s = .next ((csrStore s s.cur.core s.cur.hv n (s.val a)).advance 1).ran := by
  have hw : writeCsr n a s = .ok ((csrStore s s.cur.core s.cur.hv n (s.val a)).advance 1) := by
    have hn : (if s.ctx.mode then csrWrites n else userWrites n) = true := hn
    simp only [writeCsr, hn, need_true, readReg_ok ha, bind_ok]
  rw [exec_csrWrite h, hw, finish_ok]

theorem exec_csrWrite_illegal {i : Instr} {n : Nat} {a : SReg} {s : State} (h : csrWriteOf i = some (n, a))
    (hn : mayWriteCsr s n = false) : exec i s = .next (precise s .illegalOp (BitVec.ofNat 64 n)) := by
  have hw : writeCsr n a s = .error (.trap .illegalOp (BitVec.ofNat 64 n)) := by
    have hn : (if s.ctx.mode then csrWrites n else userWrites n) = false := hn
    simp only [writeCsr, hn, need_false, bind_error]
  rw [exec_csrWrite h, hw, finish_trap, preciseOp_eq _ _ rfl]

theorem userWrites_iff (n : Nat) : userWrites n = true ↔ n ∈ [0x030, 0x031, 0x032, 0x050, 0x051] := by
  simp [userWrites, or_assoc]

theorem csrWrites_iff (n : Nat) : csrWrites n = true ↔
    userWrites n = true ∨ n ∈ [0x010, 0x011, 0x012, 0x013, 0x022, 0x023, 0x024, 0x025, 0x040, 0x041, 0x060] := by
  simp [csrWrites, or_assoc]

theorem mayWriteCsr_user (s : State) {n : Nat} (h : userWrites n = true) : mayWriteCsr s n = true := by
  simp [mayWriteCsr, csrWrites_iff, h]

theorem mayWriteCsr_supervisor {s : State} {n : Nat} (hm : s.ctx.mode = true) (h : csrWrites n = true) : mayWriteCsr s n = true := by
  simp [mayWriteCsr, hm, h]

theorem mayWriteCsr_denied {s : State} {n : Nat} (hu : userWrites n = false) (h : s.ctx.mode = false ∨ csrWrites n = false) :
    mayWriteCsr s n = false := by
  unfold mayWriteCsr
  rcases h with h | h <;> simp [h, hu]

/-- A register without a row of its own is written by csrw alone. -/
theorem exec_csrw_only {s u : State} {a : SReg} {n : BitVec 10} (ha : Readable s a) (hn : mayWriteCsr s n.toNat = true)
    (hu : csrStore s s.cur.core s.cur.hv n.toNat (s.val a) = u) : ∀ i ∈ [Instr.csrw n a], exec i s = .next (u.advance 1).ran :=
  List.forall_mem_singleton.2 (hu ▸ exec_csrWrite_ok rfl hn ha)

/-- csrw of a register and the register's own row leave the same state. -/
theorem exec_csrw_row {s u : State} {a : SReg} {n : BitVec 10} {r : Instr} (ha : Readable s a) (hn : mayWriteCsr s n.toNat = true)
    (hr : csrWriteOf r = some (n.toNat, a)) (hu : csrStore s s.cur.core s.cur.hv n.toNat (s.val a) = u) :
    ∀ i ∈ [Instr.csrw n a, r], exec i s = .next (u.advance 1).ran :=
  List.forall_mem_cons.2 ⟨hu ▸ exec_csrWrite_ok rfl hn ha, List.forall_mem_singleton.2 (hu ▸ exec_csrWrite_ok hr hn ha)⟩

/-! ### What each register takes -/

theorem csrStore_rdvto (s : State) (cn : Nat) (hv : Bool) (v : Word) : csrStore s cn hv 0x032 v =
    s.modCore cn (fun c => { c with rdvto := if v.toNat % 2 ^ 32 < 256 then 256 else v.setWidth 32 }) := by
  simp [csrStore]

theorem csrStore_srseed (s : State) (cn : Nat) (hv : Bool) (v : Word) : csrStore s cn hv 0x050 v =
    s.modCtxOf cn hv (fun c => { c with srseed := if v.toNat % 2 ^ 32 = 0 then 1 else v.setWidth 32 }) := by
  have h0 : ((v.setWidth 32 : BitVec 32) == 0) = decide (v.toNat % 2 ^ 32 = 0) := by
    rw [Bool.eq_iff_iff, beq_iff_eq, decide_eq_true_iff, ← BitVec.toNat_inj, BitVec.toNat_setWidth]; rfl
  simp only [csrStore, h0, decide_eq_true_eq]

theorem csrStore_pstep {cn : Nat} (s : State) (hv : Bool) (v : Word) (hc : isSvc cn = false) : csrStore s cn hv 0x023 v =
    s.modLoaf (loafOf cn) (fun l => { l with floor := v.toNat / 256 % 16 }) := by
  simp [csrStore, hc, bitsOf]

theorem csrStore_pwrstat {cn : Nat} (s : State) (hv : Bool) (v : Word) (hc : isSvc cn = false) : csrStore s cn hv 0x024 v =
    s.modCrust (fun c => { c with nextLim := max 1200 (min 2400 (v.toNat / 65536 % 4096)) }) := by
  simp only [csrStore, hc, ite_limit_eq_clamp]
  rfl

theorem csrStore_ramp {cn : Nat} (s : State) (hv : Bool) (v : Word) (hc : isSvc cn = false) : csrStore s cn hv 0x025 v =
    (closeOctets s (loafOf cn)).modLoaf (loafOf cn) (fun l =>
      { l with rampEn := v.getLsbD 16, period := max 250 (v.toNat % 65536), g := if v.getLsbD 16 then l.g else 16 }) := by
  simp [csrStore, hc, bitsOf, ite_lt_eq_max]

theorem csrStore_fabmode {cn : Nat} (s : State) (hv : Bool) (v : Word) (hc : isSvc cn = false) : csrStore s cn hv 0x060 v =
    s.modLoaf (loafOf cn) (fun l => { l with rto := max 1 (v.toNat / 65536 % 256) }) := by
  have : ∀ x, (if x = 0 then 1 else x) = max 1 x := fun x => by split <;> omega
  simp [csrStore, hc, bitsOf, this]

/-- A service core belongs to no loaf, and its writes of a loaf's registers and of PWRSTAT change nothing (logs 84 and 163). -/
theorem csrStore_svc {cn : Nat} (s : State) (hv : Bool) (v : Word) (hc : isSvc cn = true) :
    ∀ n ∈ [0x023, 0x024, 0x025, 0x060], csrStore s cn hv n v = s := by
  simp [csrStore, hc]

/-! ### What a write leaves of the contexts and of memory -/

/-- Contexts, local memories, HBM, launches and the turn are as before: the change is of the scheduler's or of a loaf's registers. -/
structure KeepsContexts (s t : State) : Prop where
  cur : t.cur = s.cur
  hbm : t.hbm = s.hbm
  launches : t.launches = s.launches
  owner : ∀ cn, (t.core cn).owner = (s.core cn).owner
  harv : ∀ cn, (t.core cn).harv = (s.core cn).harv
  lm : ∀ cn, (t.core cn).lm = (s.core cn).lm

namespace KeepsContexts

theorem refl (s : State) : KeepsContexts s s := ⟨rfl, rfl, rfl, fun _ => rfl, fun _ => rfl, fun _ => rfl⟩

theorem trans {s t u : State} (h : KeepsContexts s t) (g : KeepsContexts t u) : KeepsContexts s u :=
  ⟨g.cur.trans h.cur, g.hbm.trans h.hbm, g.launches.trans h.launches, fun i => (g.owner i).trans (h.owner i),
    fun i => (g.harv i).trans (h.harv i), fun i => (g.lm i).trans (h.lm i)⟩

/-- A change of one core that leaves its contexts and its local memory. -/
theorem modCore (s : State) (cn : Nat) (f : Core → Core) (ho : (f (s.core cn)).owner = (s.core cn).owner)
    (hh : (f (s.core cn)).harv = (s.core cn).harv) (hl : (f (s.core cn)).lm = (s.core cn).lm) : KeepsContexts s (s.modCore cn f) := by
  have key : ∀ {α : Type} (g : Core → α), g (f (s.core cn)) = g (s.core cn) → ∀ i, g ((s.modCore cn f).core i) = g (s.core i) := by
    intro α g hg i
    rw [State.modCore_core]
    split
    · next h => rw [h, hg]
    · rfl
  exact ⟨rfl, rfl, rfl, key _ ho, key _ hh, key _ hl⟩

theorem modLoaf (s : State) (n : Nat) (f : Loaf → Loaf) : KeepsContexts s (s.modLoaf n f) :=
  ⟨rfl, rfl, rfl, fun _ => rfl, fun _ => rfl, fun _ => rfl⟩

theorem foldl {α : Type} (f : State → α → State) (h : ∀ s x, KeepsContexts s (f s x)) (l : List α) (s : State) :
    KeepsContexts s (l.foldl f s) := by
  induction l generalizing s with
  | nil => exact refl s
  | cons x rest ih => exact (h s x).trans (ih (f s x))

theorem ctx {s t : State} (h : KeepsContexts s t) : t.ctx = s.ctx := by
  simp only [State.ctx, State.ctxOf, Core.ctx, h.cur, h.owner, h.harv]

theorem sameMemory {s t : State} (h : KeepsContexts s t) : SameMemory s t :=
  ⟨fun cn _ => by simp only [State.lmByte, h.lm], fun _ => by simp only [State.hbmByte, h.hbm]⟩

/-- After such a change an instruction of one word leaves every register and every byte of memory. -/
theorem advanced {s t : State} (h : KeepsContexts s t) :
    SameRegs s (t.advance 1).ran ∧ SameMemory s (t.advance 1).ran ∧ MovedOn s (t.advance 1).ran 1 := by
  obtain ⟨hlm, hhbm⟩ := h.sameMemory
  refine ⟨fun r => ?_, ⟨fun cn off => ?_, fun pa => ?_⟩, ?_⟩
  · simp [h.ctx]
  · simp [State.ran, State.advance, hlm]
  · simp [State.ran, State.advance, hhbm]
  · simp [MovedOn, h.ctx]

end KeepsContexts

theorem closeOctets_keepsContexts (s : State) (l : Nat) : KeepsContexts s (closeOctets s l) := by
  simp only [closeOctets]
  exact .modLoaf s l _

theorem beginPark_keepsContexts (s : State) (cn : Nat) : KeepsContexts s (beginPark s cn) := by
  apply KeepsContexts.modCore <;> (split <;> rfl)

theorem refreshCore_keepsContexts (s : State) (cn : Nat) : KeepsContexts s (refreshCore s cn) := by
  simp only [refreshCore]
  split
  · exact .refl s
  · split
    · exact .trans (.modCore s cn _ rfl rfl rfl) (beginPark_keepsContexts _ cn)
    · exact .modCore s cn _ rfl rfl rfl

/-- Eligibility of a launch's queues follows its budget without a change of a context or of memory. -/
theorem refreshLaunch_keepsContexts (s : State) (l : Nat) : KeepsContexts s (refreshLaunch s l) :=
  .foldl _ (fun t (p : Nat × Slice) => .foldl refreshCore refreshCore_keepsContexts (coresOf p.1) t) _ s

theorem writeEn_keepsContexts (s : State) (cn : Nat) (en : Bool) : KeepsContexts s (writeEn s cn en) := by
  simp only [writeEn]
  split
  · exact .trans (.modCore s cn _ rfl rfl rfl) (beginPark_keepsContexts _ cn)
  · exact .modCore s cn _ rfl rfl rfl

/-- EN = 1 without PERMIT stores 0 (R312). -/
theorem writeEn_en (s : State) (cn : Nat) (en : Bool) : ((writeEn s cn en).core cn).en = (en && (s.core cn).permit) := by
  simp only [writeEn]
  split
  · simp only [beginPark, State.modCore_core_same]
    split <;> rfl
  · rw [State.modCore_core_same]

/-- A live launch is found by its number after a change of it that leaves its number and that it lives. -/
theorem State.launch_modLaunch {s : State} {n : Nat} {l : Launch} (f : Launch → Launch) (hn : ∀ x, (f x).num = x.num)
    (hl : ∀ x, (f x).live = x.live) (h : s.launch n = some l) : (s.modLaunch n f).launch n = some (f l) := by
  have h : s.launches.find? (fun x => x.num == n && x.live) = some l := h
  have hp : (fun x : Launch => x.num == n && x.live) ∘ (fun x => if (x.num == n && x.live) = true then f x else x) =
      fun x => x.num == n && x.live := by
    funext x
    simp only [Function.comp]
    split <;> simp only [hn, hl]
  have hx := List.find?_some h
  simp only [State.launch, State.modLaunch, updWhere, List.find?_map, hp, h, Option.map_some]
  rw [if_pos hx]

/-! ### The three writes whose state is given by what it shows -/

/-- RAMP: EN, PERIOD and, with EN = 0, the level (R354, R355). -/
theorem csrStore_ramp_effect {s : State} (v : Word) (hc : isSvc s.cur.core = false) :
    let t := ((csrStore s s.cur.core s.cur.hv 0x025 v).advance 1).ran
    let l := t.loaf (loafOf s.cur.core)
    l.rampEn = v.getLsbD 16 ∧ l.period = max 250 (v.toNat % 65536) ∧ (v.getLsbD 16 = false → l.g = 16) ∧ SameRegs s t
      ∧ SameMemory s t ∧ MovedOn s t 1 := by
  have hk : KeepsContexts s (csrStore s s.cur.core s.cur.hv 0x025 v) := by
    rw [csrStore_ramp s _ v hc]
    exact (closeOctets_keepsContexts s (loafOf s.cur.core)).trans (.modLoaf _ _ _)
  have hloaf : ∀ (u : State) (n : Nat) (f : Loaf → Loaf), ((u.modLoaf n f).advance 1).ran.loaf n = f (u.loaf n) := fun u n f =>
    mget_mset_same u.loaves n (f (u.loaf n)) Loaf.reset
  refine ⟨?_, ?_, fun hen => ?_, hk.advanced⟩
  · rw [csrStore_ramp s _ v hc, hloaf]
  · rw [csrStore_ramp s _ v hc, hloaf]
  · rw [csrStore_ramp s _ v hc, hloaf, hen]
    rfl

/-- EBUD of the context's launch (R304, R356). -/
theorem csrStore_ebud_effect {s : State} {l : Launch} (v : Word) (hl : s.launch s.myLaunch = some l) :
    let t := ((csrStore s s.cur.core s.cur.hv 0x022 v).advance 1).ran
    (t.launch s.myLaunch).map (·.ebud) = some v ∧ SameRegs s t ∧ SameMemory s t ∧ MovedOn s t 1 := by
  have hk := refreshLaunch_keepsContexts (s.modLaunch s.myLaunch (fun x => { x with ebud := v })) s.myLaunch
  have hfind := State.launch_modLaunch (fun x => { x with ebud := v }) (fun _ => rfl) (fun _ => rfl) hl
  refine ⟨?_, hk.advanced⟩
  have : ((csrStore s s.cur.core s.cur.hv 0x022 v).advance 1).ran.launch s.myLaunch = some { l with ebud := v } := by
    rw [← hfind]
    simp only [State.launch]
    rw [← hk.launches]
    rfl
  simp [this]

/-- EN of HVCTL (R312). -/
theorem csrStore_hvctl_effect (s : State) (v : Word) :
    let t := ((csrStore s s.cur.core s.cur.hv 0x040 v).advance 1).ran
    t.me.en = (v.getLsbD 0 && s.me.permit) ∧ SameRegs s t ∧ SameMemory s t ∧ MovedOn s t 1 := by
  have hk := writeEn_keepsContexts s s.cur.core (v.getLsbD 0)
  refine ⟨?_, hk.advanced⟩
  have : ∀ (u : State) (f : Ctx → Ctx), (u.modCtx f).me.en = u.me.en := fun u f => by simp [State.modCtx_eq_modMe]
  have hme : (csrStore s s.cur.core s.cur.hv 0x040 v).me.en = (v.getLsbD 0 && s.me.permit) := by
    rw [State.me, show (csrStore s s.cur.core s.cur.hv 0x040 v).cur = s.cur from hk.cur]
    exact writeEn_en s s.cur.core (v.getLsbD 0)
  simp only [State.ran, State.advance, this, hme]

/-- Settles O44: each number through its value (`csrRead`) or its store (`csrStore`), by the one law for csrr and the one for csrw. -/
theorem specialRegisters : Obligations.SpecialRegisters := by
  unfold Obligations.SpecialRegisters
  refine ⟨fun s d hd => ?_, fun s a ha => ?_⟩
  · intro cn svc bit loaf R
    have nat : ∀ {n : BitVec 10} {v : Nat}, n.toNat ≠ 0x051 → csrRead s n.toNat = some (s, BitVec.ofNat 64 v) → R n v :=
      exec_csrr_nat hd
    have word : ∀ {n : BitVec 10} {x : Word}, n.toNat ≠ 0x051 → csrRead s n.toNat = some (s, x) → R n x.toNat := exec_csrr_word hd
    have bits : ∀ {w : Nat} {n : BitVec 10} {x : BitVec w}, n.toNat ≠ 0x051 → csrRead s n.toNat = some (s, x.setWidth 64) →
      R n x.toNat := fun hn => exec_csrr_bits hd (fun h => absurd h hn)
    refine ⟨nat (by decide) (csrRead_coreId s), nat (by decide) rfl, nat (by decide) rfl, nat (by decide) rfl,
      bits (by decide) rfl, word (by decide) rfl, word (by decide) rfl, nat (by decide) rfl,
      fun l hl => ⟨word (by decide) (csrRead_launch hl).1, word (by decide) (csrRead_launch hl).2⟩,
      nat (by decide) (csrRead_pstep s), nat (by decide) rfl, word (by decide) rfl, word (by decide) rfl, bits (by decide) rfl,
      nat (by decide) (csrRead_hvctl s), nat (by decide) (csrRead_loan s), bits (by decide) rfl, ?vflag, ?supervisor, ?illegal⟩
    case vflag =>
      exact fun hv => ⟨exec_csrr_bits hd (fun _ => hv) rfl, congrArg (finish s) (readCsr_ok hd (fun _ => hv) rfl)⟩
    case supervisor =>
      refine fun hm => ⟨fun hc => nat (by decide) (csrRead_ramp hm hc), fun hc => ?_, nat (by decide) (csrRead_fabmode hm)⟩
      obtain ⟨v, hv, hr⟩ := csrRead_ramp_svc hm hc
      exact ⟨v, hv, exec_csrr_ok hd (fun h => absurd h (by decide)) hr⟩
    case illegal =>
      rintro n (⟨hm, rfl | rfl⟩ | hn)
      · exact exec_csrr_illegal d (csrRead_user hm).1
      · exact exec_csrr_illegal d (csrRead_user hm).2
      · exact exec_csrr_illegal d (csrRead_unassigned s hn)
  · intro v svc lf W
    have row : ∀ {n : BitVec 10} {r : Instr} {u : State}, mayWriteCsr s n.toNat = true → csrWriteOf r = some (n.toNat, a) →
      csrStore s s.cur.core s.cur.hv n.toNat v = u → W n [r] u := exec_csrw_row ha
    have only : ∀ {n : BitVec 10} {u : State}, mayWriteCsr s n.toNat = true → csrStore s s.cur.core s.cur.hv n.toNat v = u →
      W n [] u := exec_csrw_only ha
    have user : ∀ {n : Nat}, userWrites n = true → mayWriteCsr s n = true := mayWriteCsr_user s
    refine ⟨row (user rfl) rfl rfl, row (user rfl) rfl rfl, row (user rfl) rfl (csrStore_rdvto s _ _ v),
      row (user rfl) rfl (csrStore_srseed s _ _ v), only (user rfl) rfl, fun hm => ?supervisor, ?illegal, ?rows⟩
    case supervisor =>
      have sup : ∀ {n : Nat}, csrWrites n = true → mayWriteCsr s n = true := mayWriteCsr_supervisor hm
      refine ⟨row (sup rfl) rfl rfl, only (sup rfl) rfl, only (sup rfl) rfl, only (sup rfl) rfl, fun hc => ?compute, fun hc => ?service,
        only (sup rfl) rfl, ?ebud, ?hvctl⟩
      case compute =>
        exact ⟨row (sup rfl) rfl (csrStore_pstep s _ v hc), row (sup rfl) rfl (csrStore_pwrstat s _ v hc),
          fun i hi => ⟨_, row (n := 0x025) (sup rfl) rfl rfl i hi, csrStore_ramp_effect v hc⟩,
          row (sup rfl) rfl (csrStore_fabmode s _ v hc)⟩
      case service =>
        have same := csrStore_svc s s.cur.hv v hc
        exact ⟨row (sup rfl) rfl (same _ (by decide)), row (sup rfl) rfl (same _ (by decide)),
          row (sup rfl) rfl (same _ (by decide)), row (sup rfl) rfl (same _ (by decide))⟩
      case ebud =>
        exact fun l hl i hi => ⟨_, row (n := 0x022) (sup rfl) rfl rfl i hi, csrStore_ebud_effect v hl⟩
      case hvctl =>
        exact fun i hi => ⟨_, row (n := 0x040) (sup rfl) rfl rfl i hi, csrStore_hvctl_effect s v⟩
    case illegal =>
      intro n hu hn
      have hu : userWrites n.toNat = false := by rwa [← Bool.not_eq_true, userWrites_iff]
      refine exec_csrWrite_illegal rfl (mayWriteCsr_denied hu (hn.imp_right fun hn => ?_))
      rwa [← Bool.not_eq_true, csrWrites_iff, hu, Bool.false_eq_true, false_or]
    case rows =>
      intro hm
      have denied : ∀ {i : Instr} {n : Nat}, csrWriteOf i = some (n, a) → userWrites n = false →
        exec i s = .next (precise s .illegalOp (BitVec.ofNat 64 n)) :=
        fun h hu => exec_csrWrite_illegal h (mayWriteCsr_denied hu (.inl hm))
      simp only [List.forall_mem_cons]
      exact ⟨denied rfl rfl, denied rfl rfl, denied rfl rfl, denied rfl rfl, denied rfl rfl, denied rfl rfl, denied rfl rfl, by simp⟩

end Sys2Proof.Machine

/-! SUPPORT. Decoding what the encoder writes (spec/02, R22..R32, R40, R41): the fields of a word of each format under each LEN, the tables
of selectors, the fields of the extended words, and from these the statement about every well-formed instruction. -/

namespace Sys2Proof

/-- The decoder reads no word past those of its instruction. -/
theorem decodeWords_append {ws : List Word32} {i : Instr} (h : decodeWords ws = .ok i) (xs : List Word32) :
    decodeWords (ws ++ xs) = .ok i := by
  unfold decodeWords at h ⊢
  split at h
  · cases h
  · simp only [List.cons_append]
    split at h <;> simp_all

/-! ### Codes of named choices -/

@[simp] theorem sregOf_zero : sregOf 0 = 0 := rfl

@[simp] theorem vregOf_zero : vregOf 0 = 0 := rfl

/-- A scalar or an element code stands in the low four bits of a six-bit field (R76, R218). -/
@[simp] theorem vregOf_val_of_fin16 (a : Fin 16) : (vregOf a.val).val = a.val := by
  simp only [vregOf]; omega

@[simp] theorem dirCode_lt (r : Dir) : dirCode r < 4 := by cases r <;> decide

@[simp] theorem boolCode_le (b : Bool) : boolCode b ≤ 1 := by cases b <;> decide

@[simp] theorem scopeCode_lt (x : Scope) : scopeCode x < 4 := by cases x <;> decide

theorem loadSizeCode_lt (z : LoadSize) : loadSizeCode z < 8 := by cases z <;> decide

theorem storeSizeCode_lt (z : StoreSize) : storeSizeCode z < 8 := by cases z <;> decide

theorem spaceCode_lt (x : Space) : spaceCode x < 4 := by cases x <;> decide

theorem condCode_lt (c : Cond) : condCode c < 16 := by cases c <;> decide

theorem tileTypeCode_lt (t : TileType) : tileTypeCode t < 16 := by cases t <;> decide

theorem cordFnCode_lt (f : CordFn) : cordFnCode f < 8 := by cases f <;> decide

theorem shapeCode_lt (x : StreamShape) : shapeCode x < 4 := by cases x <;> decide

theorem redOpCode_lt (o : RedOp) : redOpCode o < 8 := by cases o <;> decide

theorem redTypeCode_lt (t : RedType) : redTypeCode t < 8 := by cases t <;> decide

theorem fenceOrdCode_lt (o : FenceOrd) : fenceOrdCode o < 4 := by cases o <;> decide

theorem atomOpCode_lt (o : AtomOp) : atomOpCode o < 8 := by cases o <;> decide

theorem atomOrdCode_lt (r : AtomOrd) : atomOrdCode r < 4 := by cases r <;> decide

/-! ### A field that holds a value's code gives the value -/

theorem ofNat_eq_of_mod {n m : Nat} {x : BitVec n} (h : m % 2 ^ n = x.toNat) : BitVec.ofNat n m = x :=
  BitVec.eq_of_toNat_eq (by rw [BitVec.toNat_ofNat, h])

theorem tileOf_eq {n : Nat} {x : TileNo} (h : n % 4 = x.val) : tileOf n = x := Fin.ext h

theorem hndOf_eq {n : Nat} {x : HandleNo} (h : n % 8 = x.val) : hndOf n = x := Fin.ext h

theorem fin8Of_eq {n : Nat} {x : Fin 8} (h : n % 8 = x.val) : fin8Of n = x := Fin.ext h

theorem fin16Of_eq {n : Nat} {x : Fin 16} (h : n % 16 = x.val) : fin16Of n = x := Fin.ext h

theorem fin32Of_eq {n : Nat} {x : Fin 32} (h : n % 32 = x.val) : fin32Of n = x := Fin.ext h

theorem fin64Of_eq {n : Nat} {x : Fin 64} (h : n % 64 = x.val) : fin64Of n = x := Fin.ext h

theorem bitOf_eq {n : Nat} {b : Bool} (h : n % 2 = boolCode b) : bitOf n = b := by
  unfold bitOf; rw [h]; cases b <;> rfl

theorem dirOf_eq {n : Nat} {r : Dir} (h : n % 4 = dirCode r) : dirOf n = r := by
  unfold dirOf; rw [h]; cases r <;> rfl

theorem scopeOf_eq {n : Nat} {x : Scope} (h : n % 4 = scopeCode x) : scopeOf n = x := by
  unfold scopeOf; rw [h]; cases x <;> rfl

theorem atomOpOf_eq {n : Nat} {o : AtomOp} (h : n % 8 = atomOpCode o) : atomOpOf n = o := by
  unfold atomOpOf; rw [h]; cases o <;> rfl

theorem atomOrdOf_eq {n : Nat} {r : AtomOrd} (h : n % 4 = atomOrdCode r) : atomOrdOf n = r := by
  unfold atomOrdOf; rw [h]; cases r <;> rfl

theorem cordFnOf_eq {n : Nat} {f : CordFn} (h : n % 8 = cordFnCode f) : cordFnOf n = f := by
  unfold cordFnOf; rw [h]; cases f <;> rfl

theorem need_ok {c : Bool} {e : DecodeErr} {i j : Instr} (hc : c = true) (h : i = j) : need c e (.ok i) = .ok j := by
  rw [need, if_pos hc, h]

@[simp] theorem pickCtor_some {α : Type} (x : α) (e : DecodeErr) (f : α → Except DecodeErr Instr) : pickCtor (some x) e f = f x := rfl

/-! ### The fields of a word of each format (R23), and how a word of each format and LEN is decoded -/

section FormatA

/-- What the fields of format A read in a word. -/
abbrev FieldsA (w sel mod b a d : Nat) : Prop :=
  fSel w = sel ∧ fMod w = mod ∧ fB w = sregOf b ∧ fA w = sregOf a ∧ fD w = sregOf d

variable {sel mod b a d op : Nat} {i : Instr}

theorem fieldsA_wA (len : Nat) (hs : sel < 64) (hm : mod < 64) (hb : b < 16) (ha : a < 16) (hd : d < 16) (ho : op < 64)
    (hl : len < 4) : FieldsA (wA sel mod b a d op len) sel mod b a d :=
  ⟨fSel_wA hs hm hb ha hd ho hl, fMod_wA hm hb ha hd ho hl, fB_wA ha hd ho hl, fA_wA hd ho hl, fD_wA ho hl⟩

theorem decodeWords_wA {f : Nat → Except DecodeErr Instr} (hf : ∀ {w}, fOp w = op → decodeBase w = f w)
    (h : ∀ w, FieldsA w sel mod b a d → f w = .ok i) (hs : sel < 64 := by omega)
    (hm : mod < 64 := by omega) (hb : b < 16 := by omega) (ha : a < 16 := by omega) (hd : d < 16 := by omega)
    (ho : op < 64 := by omega) : decodeWords [wd (wA sel mod b a d op 0)] = .ok i := by
  rw [decodeWords_base (wA_lt hs hm hb ha hd ho (by decide)) (fLen_wA (by decide)), hf (fOp_wA ho (by decide))]
  exact h _ (fieldsA_wA 0 hs hm hb ha hd ho (by decide))

theorem decodeWords_wA_lit {f : Nat → Word → Except DecodeErr Instr} {l : Word}
    (hf : ∀ {w} l, fOp w = op → decodeLit w l = f w l)
    (h : ∀ w, FieldsA w sel mod b a d → f w l = .ok i) (hs : sel < 64 := by omega)
    (hm : mod < 64 := by omega) (hb : b < 16 := by omega) (ha : a < 16 := by omega) (hd : d < 16 := by omega)
    (ho : op < 64 := by omega) : decodeWords (wd (wA sel mod b a d op 1) :: litWords l) = .ok i := by
  rw [decodeWords_lit l (wA_lt hs hm hb ha hd ho (by decide)) (fLen_wA (by decide)), hf l (fOp_wA ho (by decide))]
  exact h _ (fieldsA_wA 1 hs hm hb ha hd ho (by decide))

theorem decodeWords_wA_ext {f : Nat → Nat → Nat → Except DecodeErr Instr} {x1 x2 : Nat}
    (hf : ∀ {w} x1 x2, fOp w = op → decodeExt w x1 x2 = f w x1 x2)
    (h : ∀ w, FieldsA w sel mod b a d → f w x1 x2 = .ok i) (h1 : x1 < 4294967296)
    (h2 : x2 < 4294967296) (hs : sel < 64 := by omega) (hm : mod < 64 := by omega) (hb : b < 16 := by omega)
    (ha : a < 16 := by omega) (hd : d < 16 := by omega) (ho : op < 64 := by omega) :
    decodeWords [wd (wA sel mod b a d op 2), wd x1, wd x2] = .ok i := by
  rw [decodeWords_ext (wA_lt hs hm hb ha hd ho (by decide)) h1 h2 (fLen_wA (by decide)), hf x1 x2 (fOp_wA ho (by decide))]
  exact h _ (fieldsA_wA 2 hs hm hb ha hd ho (by decide))

end FormatA

section FormatI

/-- What the fields of format I read in a word. -/
abbrev FieldsI (w imm a d : Nat) : Prop := w / 65536 = imm ∧ fImm w = BitVec.ofNat 16 imm ∧ fA w = sregOf a ∧ fD w = sregOf d

variable {imm a d op : Nat} {i : Instr}

theorem fieldsI_wI (len : Nat) (ha : a < 16) (hd : d < 16) (ho : op < 64) (hl : len < 4) : FieldsI (wI imm a d op len) imm a d :=
  ⟨imm_wI ha hd ho hl, fImm_wI ha hd ho hl, fA_wI hd ho hl, fD_wI ho hl⟩

theorem decodeWords_wI {f : Nat → Except DecodeErr Instr} (hf : ∀ {w}, fOp w = op → decodeBase w = f w)
    (h : ∀ w, FieldsI w imm a d → f w = .ok i) (hi : imm < 65536 := by omega) (ha : a < 16 := by omega)
    (hd : d < 16 := by omega) (ho : op < 64 := by omega) : decodeWords [wd (wI imm a d op 0)] = .ok i := by
  rw [decodeWords_base (wI_lt hi ha hd ho (by decide)) (fLen_wI (by decide)), hf (fOp_wI ho (by decide))]
  exact h _ (fieldsI_wI 0 ha hd ho (by decide))

theorem decodeWords_wI_lit {f : Nat → Word → Except DecodeErr Instr} {l : Word}
    (hf : ∀ {w} l, fOp w = op → decodeLit w l = f w l) (h : ∀ w, FieldsI w 0 a d → f w l = .ok i)
    (ha : a < 16 := by omega) (hd : d < 16 := by omega) (ho : op < 64 := by omega) :
    decodeWords (wd (wI 0 a d op 1) :: litWords l) = .ok i := by
  rw [decodeWords_lit l (wI_lt (by decide) ha hd ho (by decide)) (fLen_wI (by decide)), hf l (fOp_wI ho (by decide))]
  exact h _ (fieldsI_wI 1 ha hd ho (by decide))

end FormatI

/-- What the fields of format I-M read in a word. -/
abbrev FieldsM (w sz off a d : Nat) : Prop := fSz w = sz ∧ fOff w = BitVec.ofNat 13 off ∧ fA w = sregOf a ∧ fD w = sregOf d

theorem decodeWords_wM {sz off a d op : Nat} {i : Instr} {f : Nat → Except DecodeErr Instr}
    (hf : ∀ {w}, fOp w = op → decodeBase w = f w) (h : ∀ w, FieldsM w sz off a d → f w = .ok i)
    (hz : sz < 8) (hi : off < 8192 := by omega) (ha : a < 16 := by omega) (hd : d < 16 := by omega) (ho : op < 64 := by omega) :
    decodeWords [wd (wM sz off a d op)] = .ok i := by
  rw [decodeWords_base (wM_lt hz hi ha hd ho) fLen_wM, hf (fOp_wM ho)]
  exact h _ ⟨fSz_wM hz hi ha hd ho, fOff_wM ha hd ho, fA_wM hd ho, fD_wM ho⟩

section FormatB

/-- What the fields of format B read in a word. -/
abbrev FieldsB (w delta word b a c : Nat) : Prop :=
  w / 1048576 = delta * 32 + word ∧ fDelta w = BitVec.ofNat 7 delta ∧ fWord w = fin32Of word ∧ fB w = sregOf b ∧ fA w = sregOf a
    ∧ fD w = sregOf c

variable {delta word b a c op : Nat} {i : Instr}

theorem fieldsB_wB (len : Nat) (hw : word < 32) (hb : b < 16) (ha : a < 16) (hc : c < 16) (ho : op < 64) (hl : len < 4) :
    FieldsB (wB delta word b a c op len) delta word b a c :=
  ⟨target_wB hb ha hc ho hl, fDelta_wB hw hb ha hc ho hl, fWord_wB hb ha hc ho hl, fB_wB ha hc ho hl, fA_wB hc ho hl,
    fD_wB ho hl⟩

theorem decodeWords_wB {f : Nat → Except DecodeErr Instr} (hf : ∀ {w}, fOp w = op → decodeBase w = f w)
    (h : ∀ w, FieldsB w delta word b a c → f w = .ok i) (ht : delta < 128 := by omega)
    (hw : word < 32 := by omega) (hb : b < 16 := by omega) (ha : a < 16 := by omega) (hc : c < 16 := by omega)
    (ho : op < 64 := by omega) : decodeWords [wd (wB delta word b a c op 0)] = .ok i := by
  rw [decodeWords_base (wB_lt ht hw hb ha hc ho (by decide)) (fLen_wB (by decide)), hf (fOp_wB ho (by decide))]
  exact h _ (fieldsB_wB 0 hw hb ha hc ho (by decide))

theorem decodeWords_wB_lit {f : Nat → Word → Except DecodeErr Instr} {l : Word}
    (hf : ∀ {w} l, fOp w = op → decodeLit w l = f w l) (h : ∀ w, FieldsB w 0 0 b a c → f w l = .ok i)
    (hb : b < 16 := by omega) (ha : a < 16 := by omega) (hc : c < 16 := by omega) (ho : op < 64 := by omega) :
    decodeWords (wd (wB 0 0 b a c op 1) :: litWords l) = .ok i := by
  rw [decodeWords_lit l (wB_lt (by decide) (by decide) hb ha hc ho (by decide)) (fLen_wB (by decide)), hf l (fOp_wB ho (by decide))]
  exact h _ (fieldsB_wB 1 (by decide) hb ha hc ho (by decide))

end FormatB

section FormatV

/-- What the fields of format V read in a word. -/
abbrev FieldsV (w fn vb va vd : Nat) : Prop := fSel w = fn ∧ fVb w = vregOf vb ∧ fVa w = vregOf va ∧ fVd w = vregOf vd

variable {fn vb va vd op : Nat} {i : Instr}

theorem fieldsV_wV (len : Nat) (hn : fn < 64) (hb : vb < 64) (ha : va < 64) (hd : vd < 64) (ho : op < 64) (hl : len < 4) :
    FieldsV (wV fn vb va vd op len) fn vb va vd :=
  ⟨fSel_wV hn hb ha hd ho hl, fVb_wV ha hd ho hl, fVa_wV hd ho hl, fVd_wV ho hl⟩

theorem decodeWords_wV {f : Nat → Except DecodeErr Instr} (hf : ∀ {w}, fOp w = op → decodeBase w = f w)
    (h : ∀ w, FieldsV w fn vb va vd → f w = .ok i) (hn : fn < 64 := by omega)
    (hb : vb < 64 := by omega) (ha : va < 64 := by omega) (hd : vd < 64 := by omega) (ho : op < 64 := by omega) :
    decodeWords [wd (wV fn vb va vd op 0)] = .ok i := by
  rw [decodeWords_base (wV_lt hn hb ha hd ho (by decide)) (fLen_wV (by decide)), hf (fOp_wV ho (by decide))]
  exact h _ (fieldsV_wV 0 hn hb ha hd ho (by decide))

theorem decodeWords_wV_lit {f : Nat → Word → Except DecodeErr Instr} {l : Word}
    (hf : ∀ {w} l, fOp w = op → decodeLit w l = f w l) (h : ∀ w, FieldsV w fn 0 va vd → f w l = .ok i)
    (hn : fn < 64 := by omega) (ha : va < 64 := by omega) (hd : vd < 64 := by omega) (ho : op < 64 := by omega) :
    decodeWords (wd (wV fn 0 va vd op 1) :: litWords l) = .ok i := by
  rw [decodeWords_lit l (wV_lt hn (by decide) ha hd ho (by decide)) (fLen_wV (by decide)), hf l (fOp_wV ho (by decide))]
  exact h _ (fieldsV_wV 1 hn (by decide) ha hd ho (by decide))

theorem decodeWords_wV_ext {f : Nat → Nat → Nat → Except DecodeErr Instr} {x1 x2 : Nat}
    (hf : ∀ {w} x1 x2, fOp w = op → decodeExt w x1 x2 = f w x1 x2)
    (h : ∀ w, FieldsV w fn vb va vd → f w x1 x2 = .ok i) (h1 : x1 < 4294967296)
    (h2 : x2 < 4294967296) (hn : fn < 64 := by omega) (hb : vb < 64 := by omega) (ha : va < 64 := by omega)
    (hd : vd < 64 := by omega) (ho : op < 64 := by omega) : decodeWords [wd (wV fn vb va vd op 2), wd x1, wd x2] = .ok i := by
  rw [decodeWords_ext (wV_lt hn hb ha hd ho (by decide)) h1 h2 (fLen_wV (by decide)), hf x1 x2 (fOp_wV ho (by decide))]
  exact h _ (fieldsV_wV 2 hn hb ha hd ho (by decide))

end FormatV

/-! ### Tables of selectors: R112, R215, R216 -/

theorem decodeAlu_ctor {w : Nat} {c : SReg → SReg → SReg → Instr} (h : aluCtor (fSel w) = some c) (hm : fMod w = 0) :
    decodeAlu w = .ok (c (fD w) (fA w) (fB w)) := by
  unfold decodeAlu
  split
  case h_4 => simp [h, hm, need]
  all_goals rename_i hs; rw [hs] at h; cases h

theorem decodeAluLit_ctor {w : Nat} {c : SReg → SReg → Word → Instr} (l : Word) (h : aluLitCtor (fSel w) = some c)
    (hm : fMod w = 0) (hb : (fB w).val = 0) : decodeAluLit w l = .ok (c (fD w) (fA w) l) := by
  unfold decodeAluLit litA
  split
  case h_4 => simp [h, hm, hb, need]
  all_goals rename_i hs; rw [hs] at h; cases h

theorem decodeVec_ctor {w : Nat} {c : VReg → VReg → VReg → Instr} (h : vecCtor (fSel w) = some c) :
    decodeVec w = .ok (c (fVd w) (fVa w) (fVb w)) := by
  unfold decodeVec
  split
  case h_4 => simp [h]
  all_goals rename_i hs; rw [hs] at h; cases h

theorem decodeVecLit_ctor {w : Nat} {c : VReg → VReg → Word → Instr} (l : Word) (h : vecLitCtor (fSel w) = some c)
    (hb : (fVb w).val = 0) : decodeVecLit w l = .ok (c (fVd w) (fVa w) l) := by
  unfold decodeVecLit
  split
  case h_4 => simp [h, hb, need]
  all_goals rename_i hs; rw [hs] at h; cases h

theorem decodeVcmp_ctor {w : Nat} {c : VReg → VReg → VReg → Instr} (h : vcmpCtor (fSel w) = some c) :
    decodeVcmp w = .ok (c (fVd w) (fVa w) (fVb w)) := by
  unfold decodeVcmp
  split
  case h_4 => simp [h]
  all_goals rename_i hs; rw [hs] at h; cases h

theorem decodeVcmpLit_ctor {w : Nat} {c : VReg → VReg → Word → Instr} (l : Word) (h : vcmpLitCtor (fSel w) = some c)
    (hb : (fVb w).val = 0) : decodeVcmpLit w l = .ok (c (fVd w) (fVa w) l) := by
  unfold decodeVcmpLit
  split
  case h_4 => simp [h, hb, need]
  all_goals rename_i hs; rw [hs] at h; cases h

theorem decodeWords_alu {sel : Nat} {c : SReg → SReg → SReg → Instr} (h : aluCtor sel = some c) (hs : sel < 64) (d a b : SReg) :
    decodeWords [wd (wA sel 0 b a d 0x01 0)] = .ok (c d a b) :=
  decodeWords_wA @decodeBase_01 fun w ⟨hsel, hmod, hb, ha, hd⟩ => by
    rw [decodeAlu_ctor (hsel ▸ h) hmod, hb, ha, hd, sregOf_val, sregOf_val, sregOf_val]

theorem decodeWords_aluLit {sel : Nat} {c : SReg → SReg → Word → Instr} (h : aluLitCtor sel = some c) (hs : sel < 64) (d a : SReg)
    (l : Word) : decodeWords (wd (wA sel 0 0 a d 0x01 1) :: litWords l) = .ok (c d a l) :=
  decodeWords_wA_lit @decodeLit_01 fun w ⟨hsel, hmod, hb, ha, hd⟩ => by
    rw [decodeAluLit_ctor l (hsel ▸ h) hmod (congrArg Fin.val hb), ha, hd, sregOf_val, sregOf_val]

theorem decodeWords_vec {fn : Nat} {c : VReg → VReg → VReg → Instr} (h : vecCtor fn = some c) (hn : fn < 64) (v a n : VReg) :
    decodeWords [wd (wV fn n a v 0x2F 0)] = .ok (c v a n) :=
  decodeWords_wV @decodeBase_2F fun w ⟨hsel, hb, ha, hd⟩ => by
    rw [decodeVec_ctor (hsel ▸ h), hb, ha, hd, vregOf_val, vregOf_val, vregOf_val]

theorem decodeWords_vecLit {fn : Nat} {c : VReg → VReg → Word → Instr} (h : vecLitCtor fn = some c) (hn : fn < 64) (v a : VReg)
    (l : Word) : decodeWords (wd (wV fn 0 a v 0x2F 1) :: litWords l) = .ok (c v a l) :=
  decodeWords_wV_lit @decodeLit_2F fun w ⟨hsel, hb, ha, hd⟩ => by
    rw [decodeVecLit_ctor l (hsel ▸ h) (congrArg Fin.val hb), ha, hd, vregOf_val, vregOf_val]

theorem decodeWords_vcmp {fn : Nat} {c : VReg → VReg → VReg → Instr} (h : vcmpCtor fn = some c) (hn : fn < 64) (v a n : VReg) :
    decodeWords [wd (wV fn n a v 0x30 0)] = .ok (c v a n) :=
  decodeWords_wV @decodeBase_30 fun w ⟨hsel, hb, ha, hd⟩ => by
    rw [decodeVcmp_ctor (hsel ▸ h), hb, ha, hd, vregOf_val, vregOf_val, vregOf_val]

theorem decodeWords_vcmpLit {fn : Nat} {c : VReg → VReg → Word → Instr} (h : vcmpLitCtor fn = some c) (hn : fn < 64) (v a : VReg)
    (l : Word) : decodeWords (wd (wV fn 0 a v 0x30 1) :: litWords l) = .ok (c v a l) :=
  decodeWords_wV_lit @decodeLit_30 fun w ⟨hsel, hb, ha, hd⟩ => by
    rw [decodeVcmpLit_ctor l (hsel ▸ h) (congrArg Fin.val hb), ha, hd, vregOf_val, vregOf_val]

/-! ### Base forms whose fields hold codes -/

/-- Shifts by a constant: the encoder adds the registers to a word of format I (R114). -/
theorem decodeWords_shift {op : Nat} {c : SReg → SReg → Fin 64 → Instr} (hf : ∀ {w}, fOp w = op → decodeBase w = decodeShift c w)
    (d a : SReg) (n : Fin 64) (ho : op < 64 := by decide) :
    decodeWords [wd (wI n 0 0 op 0 + a * 4096 + d * 256)] = .ok (c d a n) := by
  have hw : wI n 0 0 op 0 + a * 4096 + d * 256 = wI n a d op 0 := by unfold wI; omega
  rw [hw]
  refine decodeWords_wI hf fun w ⟨hi, _, ha, hd⟩ => need_ok ?_ ?_
  · rw [hi, decide_eq_true_iff]; omega
  · rw [hi, ha, hd, sregOf_val, sregOf_val, fin64Of_val]

theorem sregOf_condCode (c : Cond) : (sregOf (condCode c)).val = condCode c := by cases c <;> rfl

theorem decodeWords_bc (c : Cond) (a b : SReg) (t : BitVec 7) (k : Fin 32) :
    decodeWords [wd (wB t.toNat k b a (condCode c) 0x10 0)] = .ok (.bc c a b t k) := by
  refine decodeWords_wB @decodeBase_10 (fun w ⟨_, ht, hw, hb, ha, hc⟩ => ?_) (hc := condCode_lt c)
  unfold decodeBranch
  rw [hc, sregOf_condCode, ht, hw, hb, ha, BitVec.ofNat_toNat, BitVec.setWidth_eq, fin32Of_val, sregOf_val, sregOf_val]
  cases c <;> rfl

theorem decodeWords_bcLit (c : Cond) (a b : SReg) (t : Word) :
    decodeWords (wd (wB 0 0 b a (condCode c) 0x10 1) :: litWords t) = .ok (.bcLit c a b t) := by
  refine decodeWords_wB_lit @decodeLit_10 (fun w ⟨ht, _, _, hb, ha, hc⟩ => ?_) (hc := condCode_lt c)
  unfold decodeBranchLit litB
  rw [hc, sregOf_condCode, ht, hb, ha, sregOf_val, sregOf_val]
  cases c <;> rfl

theorem atomMod_lt (o : AtomOp) (z : Bool) (r : AtomOrd) : atomMod o z r < 64 := by
  have := atomOpCode_lt o; have := boolCode_le z; have := atomOrdCode_lt r
  unfold atomMod; omega

/-- Operation, size and order of an atomic stand side by side in MOD (R77). -/
theorem decodeAtom_mod {w : Nat} {o : AtomOp} {z : Bool} {r : AtomOrd} (h : fMod w = atomMod o z r) :
    atomOpOf (fMod w / 8) = o ∧ bitOf (fMod w / 4) = z ∧ atomOrdOf (fMod w) = r := by
  have := atomOpCode_lt o; have := boolCode_le z; have := atomOrdCode_lt r
  unfold atomMod at h
  exact ⟨atomOpOf_eq (by omega), bitOf_eq (by omega), atomOrdOf_eq (by omega)⟩

theorem decodeAtom_ok {w : Nat} {o : AtomOp} {z : Bool} {r : AtomOrd} {d a b : SReg}
    (c : AtomOp → Bool → AtomOrd → SReg → SReg → SReg → Instr) (h : FieldsA w 0 (atomMod o z r) b a d) :
    decodeAtom c w = .ok (c o z r d a b) := by
  obtain ⟨-, hm, hb, ha, hd⟩ := h
  obtain ⟨ho, hz, hr⟩ := decodeAtom_mod hm
  rw [decodeAtom, ho, hz, hr, hb, ha, hd, sregOf_val, sregOf_val, sregOf_val]

theorem decodeAtomLit_ok {w : Nat} {o : AtomOp} {z : Bool} {r : AtomOrd} {d a : SReg}
    (c : AtomOp → Bool → AtomOrd → SReg → SReg → Word → Instr) (l : Word) (h : FieldsA w 0 (atomMod o z r) 0 a d) :
    decodeAtomLit c w l = .ok (c o z r d a l) := by
  obtain ⟨-, hm, hb, ha, hd⟩ := h
  obtain ⟨ho, hz, hr⟩ := decodeAtom_mod hm
  refine need_ok ?_ ?_
  · rw [hb]; rfl
  · rw [ho, hz, hr, ha, hd, sregOf_val, sregOf_val]

theorem decodeWords_tcfg (t : TileNo) (ty : TileType) (z : Bool) :
    decodeWords [wd (wA 0 (tileTypeCode ty * 4 + t) (boolCode z) 0 0 0x2D 0)] = .ok (.tcfg t ty z) := by
  have hy := tileTypeCode_lt ty
  have hz := boolCode_le z
  refine decodeWords_wA @decodeBase_2D (fun w h => ?_)
  have hty : (tileTypeCode ty * 4 + t.val) / 4 = tileTypeCode ty := by omega
  have ht : tileOf (tileTypeCode ty * 4 + t.val) = t := tileOf_eq (by omega)
  have hb : (sregOf (boolCode z)).val = boolCode z := by cases z <;> rfl
  simp [decodeTile, need, h, hty, ht, hb, Nat.lt_succ_of_le hz]

theorem decodeWords_bred (o : RedOp) (t : RedType) (d a b : SReg) :
    decodeWords [wd (wA 0 (redOpCode o * 8 + redTypeCode t) b a d 0x36 0)] = .ok (.bred o t d a b) := by
  have ho := redOpCode_lt o
  have ht := redTypeCode_lt t
  refine decodeWords_wA @decodeBase_36 (fun w h => ?_)
  have h8 : (redOpCode o * 8 + redTypeCode t) / 8 = redOpCode o := by omega
  have h8' : (redOpCode o * 8 + redTypeCode t) % 8 = redTypeCode t := by omega
  simp [decodeBellows, h, h8, h8']

/-- An `all` bit and a scope stand side by side in MOD (R347). -/
theorem allScope_mod (all : Bool) (x : Scope) : let m := boolCode all * 4 + scopeCode x
    m < 8 ∧ bitOf (m / 4) = all ∧ scopeOf m = x := by
  have ha := boolCode_le all
  have hx := scopeCode_lt x
  exact ⟨by omega, bitOf_eq (by omega), scopeOf_eq (by omega)⟩

theorem decodeWords_fence (o : FenceOrd) (x : Scope) :
    decodeWords [wd (wA 0 (fenceOrdCode o * 4 + scopeCode x) 0 0 0 0x3E 0)] = .ok (.fence o x) := by
  have ho := fenceOrdCode_lt o
  have hx := scopeCode_lt x
  refine decodeWords_wA @decodeBase_3E (fun w h => ?_)
  have hm : fenceOrdCode o * 4 + scopeCode x < 16 := by omega
  have ho : (fenceOrdCode o * 4 + scopeCode x) / 4 = fenceOrdCode o := by omega
  have hx : scopeOf (fenceOrdCode o * 4 + scopeCode x) = x := scopeOf_eq (by omega)
  simp [decodeFence, need, h, hm, ho, hx]

theorem csrMod_lt (n : BitVec 10) : csrMod n < 64 := Nat.mod_lt _ (by decide)

/-- The 10-bit number of b and MOD (R44). -/
theorem fCsr_of_fields {w : Nat} {n : BitVec 10} (hm : fMod w = csrMod n) (hb : fB w = sregOf (csrB n)) : fCsr w = n := by
  have hb : w / 65536 % 16 = csrB n % 16 := congrArg Fin.val hb
  have hm : w / 1048576 % 64 = csrMod n := hm
  unfold csrB at hb
  unfold csrMod at hm
  exact ofNat_eq_of_mod (by omega)

theorem csrB_lt (n : BitVec 10) : csrB n < 16 := by unfold csrB; omega

theorem decodeWords_qbindP (hn : HandleNo) (d a : SReg) : decodeWords [wd (wA 0 (hn + 8) 0 a d 0x1D 0)] = .ok (.qbindP hn d a) := by
  refine decodeWords_wA @decodeBase_1D (fun w h => ?_)
  have hlt : hn.val + 8 < 16 := by omega
  have heq : hndOf (hn.val + 8) = hn := hndOf_eq (by omega)
  simp [decodeRing, need, h, hlt, heq]

theorem decodeWords_rcancelArm (t : TileNo) : decodeWords [wd (wA 1 (t + 4) 0 0 0 0x2A 0)] = .ok (.rcancelArm t) := by
  refine decodeWords_wA @decodeBase_2A (fun w h => ?_)
  have hlt : t.val + 4 < 8 := by omega
  have heq : tileOf (t.val + 4) = t := tileOf_eq (by omega)
  simp [decodeReedCtl, need, h, hlt, heq]

/-! ### Extended forms (R28..R32) -/

/-- The fields of X1 of a copy (R29). -/
theorem copyX1_fields (s t : Space) {idx : Nat} (h : idx < 65536) : let x := copyX1 s t idx
    x < 4294967296 ∧ spaceOf (x / 1073741824 % 4) = some s ∧ spaceOf (x / 268435456 % 4) = some t ∧ x / 65536 % 4096 = 0
      ∧ x % 65536 = idx := by
  have hs := spaceCode_lt s
  have ht := spaceCode_lt t
  unfold copyX1
  refine ⟨by omega, ?_, ?_, by omega, by omega⟩
  · rw [show (spaceCode s * 1073741824 + spaceCode t * 268435456 + idx) / 1073741824 % 4 = spaceCode s by omega, spaceOf_code]
  · rw [show (spaceCode s * 1073741824 + spaceCode t * 268435456 + idx) / 268435456 % 4 = spaceCode t by omega, spaceOf_code]

theorem ofNat_copyX1 (s t : Space) (idx : BitVec 16) : BitVec.ofNat 16 (copyX1 s t idx.toNat) = idx :=
  ofNat_eq_of_mod (copyX1_fields s t idx.isLt).2.2.2.2

theorem decodeWords_cpy (d a b : SReg) (s t : Space) :
    decodeWords [wd (wA 0 0 b a d 0x20 2), wd (copyX1 s t 0), wd 0] = .ok (.cpy d a b s t) := by
  obtain ⟨hx, hs, ht, hz, hi⟩ := copyX1_fields s t (idx := 0) (by decide)
  exact decodeWords_wA_ext @decodeExt_20 (fun w h => by simp [decodeCopy, need, h, hs, ht, hz, hi]) hx (by decide)

theorem decodeWords_cpyBar (d a b : SReg) (s t : Space) (bh : BitVec 15) (bo : BitVec 16) :
    decodeWords [wd (wA 1 0 b a d 0x20 2), wd (copyX1 s t 0), wd (bh.toNat * 65536 + bo.toNat)] = .ok (.cpyBar d a b s t bh bo) := by
  obtain ⟨hx, hs, ht, hz, hi⟩ := copyX1_fields s t (idx := 0) (by decide)
  have hlt : bh.toNat * 65536 + bo.toNat < 2147483648 := by omega
  have h1 : BitVec.ofNat 15 ((bh.toNat * 65536 + bo.toNat) / 65536) = bh := ofNat_eq_of_mod (by omega)
  have h2 : BitVec.ofNat 16 (bh.toNat * 65536 + bo.toNat) = bo := ofNat_eq_of_mod (by omega)
  exact decodeWords_wA_ext @decodeExt_20
    (fun w h => by simp [decodeCopy, need, h, hs, ht, hz, hi, Nat.div_eq_of_lt hlt, h1, h2]) hx (by omega)

theorem decodeWords_cgat (d a b : SReg) (s t : Space) (idx : BitVec 16) :
    decodeWords [wd (wA 2 0 b a d 0x20 2), wd (copyX1 s t idx.toNat), wd 0] = .ok (.cgat d a b s t idx) := by
  obtain ⟨hx, hs, ht, hz, -⟩ := copyX1_fields s t idx.isLt
  exact decodeWords_wA_ext @decodeExt_20
    (fun w h => by simp [decodeCopy, need, h, hs, ht, hz, ofNat_copyX1]) hx (by decide)

theorem decodeWords_cscat (d a b : SReg) (s t : Space) (idx : BitVec 16) :
    decodeWords [wd (wA 3 0 b a d 0x20 2), wd (copyX1 s t idx.toNat), wd 0] = .ok (.cscat d a b s t idx) := by
  obtain ⟨hx, hs, ht, hz, -⟩ := copyX1_fields s t idx.isLt
  exact decodeWords_wA_ext @decodeExt_20
    (fun w h => by simp [decodeCopy, need, h, hs, ht, hz, ofNat_copyX1]) hx (by decide)

theorem decodeWords_rset (d a : SReg) (g : BitVec 16) (f : Fin 16) (r : Dir) (sp tr : Bool) (u : BitVec 8) (n : Fin 64) :
    decodeWords [wd (wA 0 0 0 a d 0x28 2),
      wd (g.toNat * 65536 + f * 4096 + dirCode r * 1024 + boolCode sp * 512 + boolCode tr * 256 + u.toNat), wd n]
      = .ok (.rset d a g f r sp tr u n) := by
  have hr := dirCode_lt r
  have hsp := boolCode_le sp
  have htr := boolCode_le tr
  refine decodeWords_wA_ext @decodeExt_28 (fun w h => need_ok (by simp [h]) ?_) (by omega) (by omega)
  simp only [h, sregOf_val, Instr.rset.injEq, true_and]
  exact ⟨ofNat_eq_of_mod (by omega), fin16Of_eq (by omega), dirOf_eq (by omega), bitOf_eq (by omega), bitOf_eq (by omega),
    ofNat_eq_of_mod (by omega), fin64Of_eq (by omega)⟩

theorem decodeWords_rfeed (d a b : SReg) (g : BitVec 16) (f : Fin 16) (r : Dir) (k : BitVec 12) (t : TileNo) (r0 m : Fin 16) :
    decodeWords [wd (wA 0 0 b a d 0x29 2), wd (g.toNat * 65536 + f * 4096 + dirCode r * 1024),
      wd (k.toNat * 1048576 + t * 262144 + r0 * 16384 + m * 1024)] = .ok (.rfeed d a b g f r k t r0 m) := by
  have hr := dirCode_lt r
  refine decodeWords_wA_ext @decodeExt_29 (fun w h => need_ok (by simp [h]; omega) ?_) (by omega) (by omega)
  simp only [h, sregOf_val, Instr.rfeed.injEq, true_and]
  exact ⟨ofNat_eq_of_mod (by omega), fin16Of_eq (by omega), dirOf_eq (by omega), ofNat_eq_of_mod (by omega), tileOf_eq (by omega),
    fin16Of_eq (by omega), fin16Of_eq (by omega)⟩

theorem decodeWords_tarm (d : SReg) (wide : Bool) (k : BitVec 12) (t : TileNo) (r0 m : Fin 16) (ovw : Bool) :
    decodeWords [wd (wA 0 0 0 0 d 0x2B 2), wd (boolCode wide * 512),
      wd (k.toNat * 1048576 + t * 262144 + r0 * 16384 + m * 1024 + boolCode ovw * 512)] = .ok (.tarm d wide k t r0 m ovw) := by
  have hw := boolCode_le wide
  have ho := boolCode_le ovw
  refine decodeWords_wA_ext @decodeExt_2B (fun w h => need_ok (by simp [h]; omega) ?_) (by omega) (by omega)
  simp only [h, sregOf_val, Instr.tarm.injEq, true_and]
  exact ⟨bitOf_eq (by omega), ofNat_eq_of_mod (by omega), tileOf_eq (by omega), fin16Of_eq (by omega), fin16Of_eq (by omega),
    bitOf_eq (by omega)⟩

theorem decodeWords_tdrain (d a b : SReg) (t : TileNo) (f1 f2 : Fin 16) (r1 r2 : Fin 8) (s1 s2 : BitVec 16) :
    decodeWords [wd (wA 0 0 b a d 0x2E 2),
      wd (t * 1073741824 + f1 * 67108864 + f2 * 4194304 + r1 * 524288 + r2 * 65536), wd (s1.toNat * 65536 + s2.toNat)]
      = .ok (.tdrain d a b t f1 f2 r1 r2 s1 s2) := by
  refine decodeWords_wA_ext @decodeExt_2E (fun w h => need_ok (by simp [h]; omega) ?_) (by omega) (by omega)
  simp only [h, sregOf_val, Instr.tdrain.injEq, true_and]
  exact ⟨tileOf_eq (by omega), fin16Of_eq (by omega), fin16Of_eq (by omega), fin8Of_eq (by omega), fin8Of_eq (by omega),
    ofNat_eq_of_mod (by omega), ofNat_eq_of_mod (by omega)⟩

/-- The fields of X1 of a conversion (R31). -/
theorem convX1_fields (tf sf : Fin 16) (r : Fin 8) (sat : Bool) : let x := convX1 tf sf r sat
    x < 4294967296 ∧ x % 1048576 = 0 ∧ fin16Of (x / 268435456) = tf ∧ fin16Of (x / 16777216) = sf ∧ fin8Of (x / 2097152) = r
      ∧ bitOf (x / 1048576) = sat := by
  have hsat := boolCode_le sat
  unfold convX1
  exact ⟨by omega, by omega, fin16Of_eq (by omega), fin16Of_eq (by omega), fin8Of_eq (by omega), bitOf_eq (by omega)⟩

theorem decodeWords_vcvt (v a : VReg) (p : Fin 64) (tf sf : Fin 16) (r : Fin 8) (sat : Bool) :
    decodeWords [wd (wV 0 p a v 0x32 2), wd (convX1 tf sf r sat), wd 0] = .ok (.vcvt v a p tf sf r sat) := by
  obtain ⟨hx, h0, htf, hsf, hr, hsat⟩ := convX1_fields tf sf r sat
  exact decodeWords_wV_ext @decodeExt_32 (fun w h => by simp [decodeConvert, need, h, h0, htf, hsf, hr, hsat]) hx (by decide)

theorem decodeWords_vq (v a n : VReg) (tf sf : Fin 16) (r : Fin 8) (sat : Bool) :
    decodeWords [wd (wV 1 n a v 0x32 2), wd (convX1 tf sf r sat), wd 0] = .ok (.vq v a n tf sf r sat) := by
  obtain ⟨hx, h0, htf, hsf, hr, hsat⟩ := convX1_fields tf sf r sat
  exact decodeWords_wV_ext @decodeExt_32 (fun w h => by simp [decodeConvert, need, h, h0, htf, hsf, hr, hsat]) hx (by decide)

theorem decodeWords_vscale (v a n : VReg) (f : Fin 16) (r : Fin 8) (sat : Bool) :
    decodeWords [wd (wV 2 n a v 0x32 2), wd (convX1 f f r sat), wd 0] = .ok (.vscale v a n f r sat) := by
  obtain ⟨hx, h0, htf, hsf, hr, hsat⟩ := convX1_fields f f r sat
  exact decodeWords_wV_ext @decodeExt_32 (fun w h => by simp [decodeConvert, need, h, h0, htf, hsf, hr, hsat]) hx (by decide)

theorem decodeWords_vcord (v a : VReg) (f : CordFn) (n : Fin 32) :
    decodeWords [wd (wV 0 0 a v 0x33 2), wd (cordFnCode f * 536870912 + n * 16777216), wd 0] = .ok (.vcord v a f n) := by
  have hf := cordFnCode_lt f
  refine decodeWords_wV_ext @decodeExt_33 (fun w h => ?_) (by omega) (by decide)
  have h0 : (cordFnCode f * 536870912 + n.val * 16777216) % 16777216 = 0 := by omega
  have h1 : cordFnOf ((cordFnCode f * 536870912 + n.val * 16777216) / 536870912) = f := cordFnOf_eq (by omega)
  have h2 : fin32Of ((cordFnCode f * 536870912 + n.val * 16777216) / 16777216) = n := fin32Of_eq (by omega)
  simp [decodeCord, need, h, h0, h1, h2]

theorem decodeWords_sopen (d a : SReg) (x : StreamShape) (c : BitVec 8) (hn : HandleNo) (p : Bool) :
    decodeWords [wd (wA 0 (boolCode p) 0 a d 0x34 2), wd (shapeCode x * 1073741824 + c.toNat * 4194304 + hn * 524288), wd 0]
      = .ok (.sopen d a x c hn p) := by
  have hx := shapeCode_lt x
  have hp := boolCode_le p
  refine decodeWords_wA_ext @decodeExt_34 (fun w h => ?_) (by omega) (by decide)
  have h0 : (shapeCode x * 1073741824 + c.toNat * 4194304 + hn.val * 524288) % 524288 = 0 := by omega
  have h1 : (shapeCode x * 1073741824 + c.toNat * 4194304 + hn.val * 524288) / 1073741824 % 4 = shapeCode x := by omega
  have h2 : BitVec.ofNat 8 ((shapeCode x * 1073741824 + c.toNat * 4194304 + hn.val * 524288) / 4194304) = c :=
    ofNat_eq_of_mod (by omega)
  have h3 : hndOf ((shapeCode x * 1073741824 + c.toNat * 4194304 + hn.val * 524288) / 524288) = hn := hndOf_eq (by omega)
  simp [decodeSopen, need, h, h0, h1, h2, h3, Nat.lt_succ_of_le hp]

theorem decodeWords_launch (d a b : SReg) (c : Fin 16) :
    decodeWords [wd (wA 0 0 b a d 0x3A 2), wd (c * 268435456), wd 0] = .ok (.launch d a b c) := by
  refine decodeWords_wA_ext @decodeExt_3A (fun w h => need_ok (by simp [h]) ?_) (by omega) (by decide)
  simp only [h, sregOf_val, Instr.launch.injEq, true_and]
  exact fin16Of_eq (by omega)

/-! ### Every instruction -/

/-- Before its operand limits are looked at, every instruction that has words is read back from them. -/
theorem decodeWords_encode (i : Instr) (h : encode i ≠ []) : decodeWords (encode i) = .ok i := by
  cases i with
  | add | sub | mul | mulh | mulhu | div | divu | rem | remu | and | or | xor | shl | shr | sra | min | max | minu | maxu
  | cmpeq | cmplt | cmpltu => exact decodeWords_alu rfl (by decide) ..
  | addLit | subLit | mulLit | mulhLit | mulhuLit | divLit | divuLit | remLit | remuLit | andLit | orLit | xorLit | shlLit
  | shrLit | sraLit | minLit | maxLit | minuLit | maxuLit | cmpeqLit | cmpltLit | cmpltuLit =>
    exact decodeWords_aluLit rfl (by decide) ..
  | vadd | vsub | vmul | vfma | vmin | vmax | vand | vor | vxor | vshl | vshr | vsel | vshuf =>
    exact decodeWords_vec rfl (by decide) ..
  | vaddLit | vsubLit | vmulLit | vfmaLit | vminLit | vmaxLit | vandLit | vorLit | vxorLit | vshlLit | vshrLit | vselLit
  | vshufLit => exact decodeWords_vecLit rfl (by decide) ..
  | vcmpEq | vcmpNe | vcmpLt | vcmpLe | vcmpGt | vcmpGe | vcmpUn => exact decodeWords_vcmp rfl (by decide) ..
  | vcmpEqLit | vcmpNeLit | vcmpLtLit | vcmpLeLit | vcmpGtLit | vcmpGeLit | vcmpUnLit => exact decodeWords_vcmpLit rfl (by decide) ..
  | clz | popc | sel => exact decodeWords_wA @decodeBase_01 (fun w h => by simp [decodeAlu, need, h])
  | selLit => exact decodeWords_wA_lit @decodeLit_01 (fun w h => by simp [decodeAluLit, litA, need, h])
  | addi => exact decodeWords_wI @decodeBase_05 (fun w h => by simp [h])
  | andi => exact decodeWords_wI @decodeBase_06 (fun w h => by simp [h])
  | ori => exact decodeWords_wI @decodeBase_07 (fun w h => by simp [h])
  | xori => exact decodeWords_wI @decodeBase_08 (fun w h => by simp [h])
  | li => exact decodeWords_wI @decodeBase_0C (fun w h => by simp [need, h])
  | lea => exact decodeWords_wI @decodeBase_0D (fun w h => by simp [need, h])
  | addiLit => exact decodeWords_wI_lit @decodeLit_05 (fun w h => by simp [decodeImmLit, need, h])
  | andiLit => exact decodeWords_wI_lit @decodeLit_06 (fun w h => by simp [decodeImmLit, need, h])
  | oriLit => exact decodeWords_wI_lit @decodeLit_07 (fun w h => by simp [decodeImmLit, need, h])
  | xoriLit => exact decodeWords_wI_lit @decodeLit_08 (fun w h => by simp [decodeImmLit, need, h])
  | liLit => exact decodeWords_wI_lit @decodeLit_0C (fun w h => by simp [decodeMoveLit, need, h])
  | leaLit => exact decodeWords_wI_lit @decodeLit_0D (fun w h => by simp [decodeMoveLit, need, h])
  | shli d a n => exact decodeWords_shift @decodeBase_09 ..
  | shri d a n => exact decodeWords_shift @decodeBase_0A ..
  | srai d a n => exact decodeWords_shift @decodeBase_0B ..
  | bext => exact decodeWords_wA @decodeBase_03 (fun w h => by simp [decodeField, need, h])
  | bins => exact decodeWords_wA @decodeBase_04 (fun w h => by simp [decodeField, need, h])
  | b => exact decodeWords_wB @decodeBase_10 (fun w h => by simp [decodeBranch, need, h])
  | bLit => exact decodeWords_wB_lit @decodeLit_10 (fun w h => by simp [decodeBranchLit, litB, need, h])
  | bc c => exact decodeWords_bc ..
  | bcLit c => exact decodeWords_bcLit ..
  | call => exact decodeWords_wB @decodeBase_11 (fun w h => by simp [need, h])
  | callLit => exact decodeWords_wB_lit @decodeLit_11 (fun w h => by simp [litB, need, h])
  | callr | ret | done => exact decodeWords_wA @decodeBase_12 (fun w h => by simp [decodeJump, need, h])
  | cont => exact decodeWords_wB @decodeBase_13 (fun w h => by simp [need, h])
  | contLit => exact decodeWords_wB_lit @decodeLit_13 (fun w h => by simp [litB, need, h])
  | nput _ r | nget _ r =>
    exact decodeWords_wA @decodeBase_14 (fun w h => by simp [decodeLane, need, h]) (hm := (dirCode_lt r).trans (by decide))
  | send => exact decodeWords_wA @decodeBase_15 (fun w h => by simp [need, h])
  | sendLit => exact decodeWords_wA_lit @decodeLit_15 (fun w h => by simp [litA, need, h])
  | ldl _ _ z => exact decodeWords_wM @decodeBase_18 (fun w h => by simp [h]) (loadSizeCode_lt z)
  | stl _ _ z => exact decodeWords_wM @decodeBase_19 (fun w h => by simp [h]) (storeSizeCode_lt z)
  | ldg _ _ z => exact decodeWords_wM @decodeBase_24 (fun w h => by simp [h]) (loadSizeCode_lt z)
  | stg _ _ z => exact decodeWords_wM @decodeBase_25 (fun w h => by simp [h]) (storeSizeCode_lt z)
  | ldlV | stlV => exact decodeWords_wV @decodeBase_1A (fun w h => by simp [decodeLocalRow, decodeRowMove, need, h])
  | ldlVLit | stlVLit => exact decodeWords_wV_lit @decodeLit_1A (fun w h => by simp [decodeLocalRowLit, decodeRowMoveLit, need, h])
  | ldgV | stgV | gred => exact decodeWords_wV @decodeBase_26 (fun w h => by simp [decodeGlobalRow, decodeRowMove, need, h])
  | ldgVLit | stgVLit | gredLit =>
    exact decodeWords_wV_lit @decodeLit_26 (fun w h => by simp [decodeGlobalRowLit, decodeRowMoveLit, need, h])
  | ldp _ _ _ z =>
    exact decodeWords_wA @decodeBase_1B (fun w h => by simp [decodePeer, h]) (hm := (loadSizeCode_lt z).trans (by decide))
  | stp _ _ _ z =>
    exact decodeWords_wA @decodeBase_1B (fun w h => by simp [decodePeer, h]) (hm := (storeSizeCode_lt z).trans (by decide))
  | stpN _ _ _ k =>
    exact decodeWords_wA @decodeBase_1B (fun w h => by simp [decodePeer, need, h]) (hm := (boolCode_le k).trans_lt (by decide))
  | ldpLit _ _ z =>
    exact decodeWords_wA_lit @decodeLit_1B (fun w h => by simp [decodePeerLit, litA, need, h])
      (hm := (loadSizeCode_lt z).trans (by decide))
  | stpLit _ _ z =>
    exact decodeWords_wA_lit @decodeLit_1B (fun w h => by simp [decodePeerLit, litA, need, h])
      (hm := (storeSizeCode_lt z).trans (by decide))
  | stpNLit _ _ k =>
    exact decodeWords_wA_lit @decodeLit_1B (fun w h => by simp [decodePeerLit, litA, need, h])
      (hm := (boolCode_le k).trans_lt (by decide))
  | amol o z r => exact decodeWords_wA @decodeBase_1C (fun w h => by rw [h.1]; exact decodeAtom_ok _ h) (hm := atomMod_lt o z r)
  | amolLit o z r =>
    exact decodeWords_wA_lit @decodeLit_1C (fun w h => by rw [h.1]; exact decodeAtomLit_ok _ _ h) (hm := atomMod_lt o z r)
  | amo o z r =>
    exact decodeWords_wA @decodeBase_27 (fun w h => by rw [decodeAmo, h.1]; exact decodeAtom_ok _ h) (hm := atomMod_lt o z r)
  | amoLit o z r =>
    exact decodeWords_wA_lit @decodeLit_27 (fun w h => by rw [decodeAmoLit, h.1]; exact decodeAtomLit_ok _ _ h) (hm := atomMod_lt o z r)
  | pref => exact decodeWords_wA @decodeBase_27 (fun w h => by simp [decodeAmo, need, h])
  | prefLit => exact decodeWords_wA_lit @decodeLit_27 (fun w h => by simp [decodeAmoLit, litA, need, h])
  | qbindP => exact decodeWords_qbindP ..
  | qbindC | qwait | qadv | qres | qpub | qeos => exact decodeWords_wA @decodeBase_1D (fun w h => by simp [decodeRing, need, h])
  | cwait | cpoll => exact decodeWords_wA @decodeBase_21 (fun w h => by simp [decodeObject, need, h])
  | rstat _ r =>
    exact decodeWords_wA @decodeBase_2A (fun w h => by simp [decodeReedCtl, need, h]) (hm := (dirCode_lt r).trans (by decide))
  | rcancel r =>
    exact decodeWords_wA @decodeBase_2A (fun w h => by simp [decodeReedCtl, need, h, (dirCode_lt r).trans (by decide : 4 < 8)])
      (hm := (dirCode_lt r).trans (by decide))
  | rcancelArm => exact decodeWords_rcancelArm ..
  | pload _ _ _ r | pnnz _ _ r =>
    exact decodeWords_wA @decodeBase_2C (fun w h => by simp [decodePattern, need, h]) (hm := (dirCode_lt r).trans (by decide))
  | tzero => exact decodeWords_wA @decodeBase_2D (fun w h => by simp [decodeTile, need, h])
  | tcfg t ty z => exact decodeWords_tcfg ..
  | vabs | vneg | vmov => exact decodeWords_wV @decodeBase_2F (fun w h => by simp [decodeVec, need, h])
  | vmovLit => exact decodeWords_wV_lit @decodeLit_2F (fun w h => by simp [decodeVecLit, need, h])
  | vredAdd | vredMin | vredMax => exact decodeWords_wV @decodeBase_30 (fun w h => by simp [decodeVcmp, need, h])
  | vsplat | vext | vins | vnnz => exact decodeWords_wV @decodeBase_31 (fun w h => by simp [decodeExchange, need, h])
  | ssend _ _ _ p | sclose p =>
    exact decodeWords_wA @decodeBase_35 (fun w h => by simp [decodeStream, need, h]) (hm := (boolCode_le p).trans_lt (by decide))
  | bred => exact decodeWords_bred ..
  | bbar => exact decodeWords_wA @decodeBase_36 (fun w h => by simp [decodeBellows, need, h])
  | bjoin | barv | bdrop | bexp | bwait | binit => exact decodeWords_wA @decodeBase_38 (fun w h => by simp [decodeBarrier, need, h])
  | barvLit | bdropLit | bexpLit | bwaitLit | binitLit =>
    exact decodeWords_wA_lit @decodeLit_38 (fun w h => by simp [decodeBarrierLit, litA, need, h])
  | spawn | spawnPark | join | await | migrate | yield | whlAt =>
    exact decodeWords_wA @decodeBase_39 (fun w h => by simp [decodeTask, need, h])
  | spawnLit | spawnParkLit | awaitLit | migrateLit | whlAtLit =>
    exact decodeWords_wA_lit @decodeLit_39 (fun w h => by simp [decodeTaskLit, litA, need, h])
  | lend | reclaim | hvon | hvoff => exact decodeWords_wA @decodeBase_3C (fun w h => by simp [decodeHarvest, need, h])
  | rte | rteAt | halt | svc => exact decodeWords_wA @decodeBase_3D (fun w h => by simp [decodeSystem, need, h])
  | trap n | csrr _ n | csrw n =>
    exact decodeWords_wA @decodeBase_3D (fun w ⟨hs, hm, hb, ha, hd⟩ => by simp [decodeSystem, need, hs, ha, hd, fCsr_of_fields hm hb])
      (hm := csrMod_lt n) (hb := csrB_lt n)
  | tlbi all x | tlbv all x =>
    obtain ⟨hm, hall, hx⟩ := allScope_mod all x
    exact decodeWords_wA @decodeBase_3D (fun w h => by simp [decodeSystem, need, h, hm, hall, hx])
  | fence => exact decodeWords_fence ..
  | cpy => exact decodeWords_cpy ..
  | cpyBar => exact decodeWords_cpyBar ..
  | cgat => exact decodeWords_cgat ..
  | cscat => exact decodeWords_cscat ..
  | rset => exact decodeWords_rset ..
  | rfeed => exact decodeWords_rfeed ..
  | tarm => exact decodeWords_tarm ..
  | tdrain => exact decodeWords_tdrain ..
  | vcvt => exact decodeWords_vcvt ..
  | vq => exact decodeWords_vq ..
  | vscale => exact decodeWords_vscale ..
  | vcord => exact decodeWords_vcord ..
  | sopen => exact decodeWords_sopen ..
  | launch => exact decodeWords_launch ..
  | srseedWrite | rdvtoWrite | hvctlWrite | ebudWrite | pwrstatWrite | pstepWrite | rampWrite | fabmodeWrite | bconfWrite
  | trimcWrite | statusWrite | vflagRead | grd | gwr | gat | gredPacket | drd | dwr | dat | qbindConsumerDoor
  | qbindProducerDoor | qresDoor | qpubDoor | qeosDoor | qwaitDoor | qadvDoor | binitDoor | bjoinDoor | barvDoor | bdropDoor
  | bexpDoor | bwaitDoor | barrierCredit | joinDoorOp | parkFrameWrite | msg | rdl | rreq | rply | ack | cwr | eack | rack
  | rdef | sres | sopn | sdat | streamSlotPublish | smrk | unassignedKind | trim | trimmedHeader | rreqSend | tokenRefill
  | retransmitTimeout | linkReplay | linkRetrain | tlbWalk | lineFill | migration | copyStart | copyComplete | copyStop
  | drainComplete | vcordComplete | sideQueueHead | latchLoaded | rowStart | rowComputed | deliveryResend | rdvtoTimeout
  | laneWordArrival | laneCreditReturn | presenceTimeout | sopenSetupTimeout | ssendServe | ssendComplete
  | bellowsContribute | bellowsNodeCombine | bellowsResult | pick | hardwarePost | quantumBoundary | wheelTick
  | launchAccept | hostLaunchDoorbell | launchEnd | harvestPark | harvestResume | asyncFaultTake | svcReply | read | write
  | restart | repost | preempt | permit | retire | teardown | reset | powerWindow | throttleStepChange | rampPeriod
  | coldStart | warmStart | warmreq | imageFetchRestart | gatewayDatagram | gatewayRetransmit | ptpMessage | pageReturn
  | keyInstall => exact absurd rfl h

/-- Settles O54: the decoder reads each form back before the operand limits, reads no further word, and a well-formed instruction meets the
limits. -/
theorem decodeOfEncode : Obligations.DecodeOfEncode := by
  unfold Obligations.DecodeOfEncode
  intro i hwf hne ws
  exact decode_of_words (decodeWords_append (decodeWords_encode i hne) ws) hwf

/-- Settles O55, by computing each example. -/
theorem decodedWordsFromSpec : Obligations.DecodedWordsFromSpec := by
  unfold Obligations.DecodedWordsFromSpec
  decide

end Sys2Proof

/-! SUPPORT. The checks of a transfer's target (spec/02, R36, R37): every transfer that has come to its target goes on by the checks of its
target, and ends by the first of the six that fails. -/

namespace Sys2Proof.Machine

open Sys2Proof

/-! ### The target in numbers (R42) -/

theorem lineAddr_eq_shift (pc : Word) : lineAddr pc = (pc >>> 7) <<< 7 := by
  apply BitVec.eq_of_getLsbD_eq
  intro i hi
  have hlow : (0x7F#64).getLsbD i = decide (i < 7) := by
    rw [BitVec.getLsbD_ofNat, show (0x7F : Nat) = 2 ^ 7 - 1 from rfl, Nat.testBit_two_pow_sub_one]
    simp [hi]
  rw [lineAddr, BitVec.getLsbD_and, BitVec.getLsbD_not, hlow, BitVec.getLsbD_shiftLeft, BitVec.getLsbD_ushiftRight]
  by_cases h : i < 7
  · simp [h]
  · simp [h, hi, show 7 + (i - 7) = i by omega]

theorem toNat_lineAddr (pc : Word) : (lineAddr pc).toNat = pc.toNat / 128 * 128 := by
  rw [lineAddr_eq_shift, BitVec.toNat_shiftLeft, BitVec.toNat_ushiftRight, Nat.shiftLeft_eq, Nat.shiftRight_eq_div_pow]
  omega

theorem branchTarget_eq_ruleTarget (pc : Word) (d : BitVec 7) (w : Fin 32) : branchTarget pc d w = ruleTarget pc d w := by
  have hline : lineAddr pc = BitVec.ofInt 64 ((pc.toNat / 128 * 128 : Nat) : Int) := by
    rw [← toNat_lineAddr, BitVec.ofInt_natCast, BitVec.ofNat_toNat, BitVec.setWidth_eq]
  have hdelta : d.signExtend 64 * 128 = BitVec.ofInt 64 (d.toInt * 128) := by rw [BitVec.ofInt_mul]; rfl
  rw [branchTarget, ruleTarget, hline, hdelta, ← BitVec.ofInt_natCast, ← BitVec.ofInt_add, ← BitVec.ofInt_add]
  congr 1
  omega

theorem condHolds_iff (c : Cond) (x y : Word) : condHolds c x y = true ↔ ruleCond c x y := by
  cases c <;> simp [condHolds, ruleCond]

theorem condHolds_of_not_condReads {c : Cond} (h : condReads c = false) (x y : Word) : condHolds c x 0 = condHolds c x y := by
  cases c <;> simp_all [condReads, condHolds]

/-! ### Every transfer goes on by the checks of its target (R37) -/

theorem takeBars_ok {s : State} (h : NoBar s) : takeBars s = .ok () := by
  unfold takeBars
  rcases h with h | h <;> simp [h]

/-- bc reads its sources and comes to its target where its condition holds (R118). -/
theorem condBranch_taken {s : State} {c : Cond} {a b : SReg} (t : Word) (len : Nat) (ha : Readable s a)
    (hb : c ≠ .z → c ≠ .nz → Readable s b) (h : ruleCond c (s.val a) (s.val b)) : condBranch c a b t len s = goto_ t .target s := by
  rw [← condHolds_iff] at h
  by_cases hr : condReads c = true
  · have hb : Readable s b := hb (by rintro rfl; cases hr) (by rintro rfl; cases hr)
    simp only [condBranch, readReg_ok ha, readReg_ok hb, hr, if_true, bind_ok, h]
  · rw [Bool.not_eq_true] at hr
    rw [← condHolds_of_not_condReads hr] at h
    simp only [condBranch, readReg_ok ha, hr, bind_ok, h, if_true, Bool.false_eq_true, if_false]

/-- call with its link register present comes to its target (R119). -/
theorem callTo_present {s : State} {l : SReg} (t : Word) (len : Nat) (hl : Present s l) : callTo l t len s =
    checkTarget s t .function >>= fun u => .ok ((u.setReg l (s.ctx.pc + BitVec.ofNat 64 (4 * len))).jump t) := by
  rw [callTo, destFree_ok hl]
  rfl

/-- cont that takes no pending BAR_OVER comes to its target (R122). -/
theorem contTo_of_noBar {s : State} (a : SReg) (t : Word) (hb : NoBar s) :
    ∃ k : State → Act, contTo a t s = checkTarget s t .target >>= k := by
  rw [contTo, takeBars_ok hb]
  exact ⟨_, rfl⟩

/-- An instruction that has come to its target does nothing before the target's checks (R37). -/
theorem Transfers.exec_eq {s : State} {i : Instr} {t : Word} {a : Arrive} (h : Transfers s i t a) :
    ∃ k : State → Act, exec i s = finish s (checkTarget s t a >>= k) := by
  cases h with
  | b d w => exact ⟨_, by rw [← branchTarget_eq_ruleTarget]; rfl⟩
  | bLit => exact ⟨_, rfl⟩
  | bc c a b d w ha hb h =>
    rw [← branchTarget_eq_ruleTarget]
    exact ⟨_, congrArg (finish s) (condBranch_taken _ 1 ha hb h)⟩
  | bcLit c a b t ha hb h => exact ⟨_, congrArg (finish s) (condBranch_taken t 3 ha hb h)⟩
  | call l d w hl =>
    rw [← branchTarget_eq_ruleTarget]
    exact ⟨_, congrArg (finish s) (callTo_present _ 1 hl)⟩
  | callLit l t hl => exact ⟨_, congrArg (finish s) (callTo_present t 3 hl)⟩
  | callr l a hl ha =>
    exact ⟨_, congrArg (finish s)
      ((congrArg (· >>= fun t => callTo l t 1 s) (readReg_ok ha)).trans (callTo_present _ 1 hl))⟩
  | ret a ha =>
    exact ⟨_, congrArg (finish s) (congrArg (· >>= fun t => goto_ t .target s) (readReg_ok ha))⟩
  | cont a d w hb =>
    rw [← branchTarget_eq_ruleTarget]
    obtain ⟨k, hk⟩ := contTo_of_noBar a (branchTarget s.ctx.pc d w) hb
    exact ⟨k, congrArg (finish s) hk⟩
  | contLit a t hb =>
    obtain ⟨k, hk⟩ := contTo_of_noBar a t hb
    exact ⟨k, congrArg (finish s) hk⟩

/-- A failed check of the target ends the transfer before it has an effect of its own. -/
theorem Transfers.exec_of_error {s : State} {i : Instr} {t : Word} {a : Arrive} {e : Stop} (h : Transfers s i t a)
    (he : checkTarget s t a = .error e) : exec i s = .next (settle s (.error e)) := by
  obtain ⟨k, hk⟩ := h.exec_eq
  rw [hk, he]
  rfl

theorem Transfers.exec_of_trap {s : State} {i : Instr} {t : Word} {a : Arrive} {c : Cause} {v : Word} (h : Transfers s i t a)
    (hc : (c == .eccUncorr) = false) (he : checkTarget s t a = .error (.trap c v)) : exec i s = .next (precise s c v) := by
  rw [h.exec_of_error he, ← preciseOp_eq s v hc]
  rfl

/-! ### The six checks in their order -/

theorem checkTarget_noncanon {s : State} {t : Word} (a : Arrive) (h : isCanon t = false) :
    checkTarget s t a = .error (.trap .addrNoncanon t) := by
  rw [checkTarget, h]
  rfl

theorem wordIdx_eq (t : Word) : wordIdx t = t.toNat / 4 % 32 := rfl

theorem checkTarget_misplaced {s : State} {t : Word} (a : Arrive) (h : isCanon t = true) (hp : t.toNat % 4 ≠ 0 ∨ t.toNat / 4 % 32 < 2) :
    checkTarget s t a = .error (.trap .targetUnmarked t) := by
  have hp : (t.toNat % 4 == 0 && decide (2 ≤ wordIdx t)) = false := by
    rw [Bool.and_eq_false_iff, beq_eq_false_iff_ne, decide_eq_false_iff_not, wordIdx_eq, not_le]
    exact hp
  rw [checkTarget, h, need_true, bind_ok, hp]
  rfl

/-- Past its first two checks the target's line is fetched and checked. -/
theorem checkTarget_placed {s : State} {t : Word} (a : Arrive) (h : isCanon t = true) (h4 : t.toNat % 4 = 0) (h2 : 2 ≤ t.toNat / 4 % 32) :
    checkTarget s t a = fetchLine s t t >>= fun p => (do
      lineSound p.2 t
      need (p.2.state == .ok) .lineMalformed t
      need (arriveOk a p.2 (wordIdx t)) .targetUnmarked t
      .ok p.1) := by
  have hp : (t.toNat % 4 == 0 && decide (2 ≤ wordIdx t)) = true := by
    rw [Bool.and_eq_true, beq_iff_eq, decide_eq_true_iff]
    exact ⟨h4, h2⟩
  rw [checkTarget, h, need_true, bind_ok, hp, need_true, bind_ok]

/-- The faults of a translation: its EVAL is the one given, and none is an uncorrectable error (R58). -/
theorem translate_trap {s : State} {va val v : Word} {k : AccKind} {pref : Option Nat} {c : Cause}
    (h : translate s va k val pref = .error (.trap c v)) : v = val ∧ (c == .eccUncorr) = false := by
  unfold translate at h
  split at h
  · cases h; exact ⟨rfl, rfl⟩
  · split at h
    · cases h; exact ⟨rfl, rfl⟩
    · split at h
      · cases h
      · split at h <;> cases h
        exact ⟨rfl, rfl⟩

theorem fetchLine_trap {s : State} {va val v : Word} {c : Cause} (h : fetchLine s va val = .error (.trap c v)) :
    v = val ∧ (c == .eccUncorr) = false := by
  unfold fetchLine at h
  split at h
  · simp only [bind_ok] at h
    split at h <;> cases h
  · cases ht : translate s va .x val none with
    | error e =>
      rw [ht] at h
      cases h
      exact translate_trap ht
    | ok p =>
      simp only [ht, bind_ok] at h
      split at h <;> cases h

/-- Settles O4: the transfer goes on by `checkTarget`, whose checks stand in the order of R37. -/
theorem targetFaultOrder : Obligations.TargetFaultOrder := by
  unfold Obligations.TargetFaultOrder
  intro s i t a hi
  refine ⟨fun hc => hi.exec_of_trap rfl (checkTarget_noncanon a hc), fun hc hp => hi.exec_of_trap rfl (checkTarget_misplaced a hc hp),
    fun hc h4 h2 => ⟨fun c v hf => ?translation, fun u x hf => ⟨fun hx => ?error, fun hx => ?form, fun hx ha => ?mark⟩⟩⟩
  all_goals have hck := checkTarget_placed (s := s) a hc h4 h2
  case translation =>
    obtain ⟨rfl, hne⟩ := fetchLine_trap hf
    exact ⟨rfl, hi.exec_of_trap hne (by rw [hck, hf]; rfl)⟩
  case error =>
    have hck : checkTarget s t a = .error (.ecc t) := by rw [hck, hf, bind_ok, lineSound, hx]; rfl
    exact hi.exec_of_error hck
  case form => exact hi.exec_of_trap rfl (by rw [hck, hf, bind_ok, lineSound, hx]; rfl)
  case mark =>
    exact hi.exec_of_trap rfl (by rw [hck, hf, bind_ok, lineSound, hx, wordIdx_eq, ha]; rfl)

end Sys2Proof.Machine

/-! SUPPORT. A BAR_OVER that an instruction takes at its pc (spec/13, R262) is also noted as taken: a further one is due after the rte of its
handler. -/

namespace Sys2Proof.Machine

open Sys2Proof

/-- A context outside a handler, no BAR_OVER taken yet, at which one refused arrival is pending. -/
def oneBarOver : State :=
  { State.reset.modCtxOf 0 true (fun c => { c with bops := [⟨0, 0, none⟩] }) with cur := ⟨0, true⟩ }

/-- done takes the pending BAR_OVER, and the context is from then on one that has taken a BAR_OVER. -/
theorem exec_done_oneBarOver : ∃ t, exec .done oneBarOver = .next t ∧ t.ctx.further = true := ⟨_, rfl, by decide⟩

theorem barTaken_oneBarOver : (barTaken oneBarOver ⟨0, 0, none⟩ []).ctx.further = false := by decide

/-- Refutes O46: the last clause says that done ends in `barTaken`, which leaves `further` as it was, but the model's `takeBarOver` sets it.
Counterexample: `oneBarOver`. -/
theorem not_dueFaultsAndTimeouts : ¬ Obligations.DueFaultsAndTimeouts := by
  unfold Obligations.DueFaultsAndTimeouts
  rintro ⟨-, -, -, hbar⟩
  have hdone : exec .done oneBarOver = .next (barTaken oneBarOver ⟨0, 0, none⟩ []) :=
    (hbar oneBarOver ⟨0, 0, none⟩ [] rfl rfl).2 .acq .core 0 0 0 0 0 0 .done (by simp)
  obtain ⟨t, ht, hfurther⟩ := exec_done_oneBarOver
  rw [ht] at hdone
  rw [Host.Outcome.next.inj hdone, barTaken_oneBarOver] at hfurther
  cases hfurther

end Sys2Proof.Machine

/-! SUPPORT. What a turn of an agent comes to (spec/02, R33 to R36, R41; spec/20, R336): every turn answers a next state, and the one of a
context or of an event is exec of its instruction, in a state in which launches have paid (R357). -/

namespace Sys2Proof.Machine

open Sys2Proof

/-! ### No fault and no refusal ends a run -/

/-- The meaning of each of the instructions and events answers a next state. -/
theorem exec_next (i : Instr) (s : State) : ∃ t, exec i s = .next t := by
  cases i <;> exact ⟨_, rfl⟩

theorem issueStep_next (s : State) (cn : Nat) (hv : Bool) : ∃ t, issueStep s cn hv = .next t := by
  unfold issueStep
  split
  · exact ⟨_, rfl⟩
  · exact exec_next _ _
  · next u t i _ =>
    obtain ⟨v, hv⟩ := exec_next i t
    rw [hv]
    exact ⟨_, rfl⟩

theorem turnStep_next (s : State) (a : Agent) : ∃ t, turnStep s a = .next t := by
  cases a with
  | issue cn hv => exact issueStep_next s cn hv
  | event i =>
    by_cases h : isEvent i
    · obtain ⟨t, ht⟩ := exec_next i (payEvent s i (exec i s))
      exact ⟨t, by rw [turnStep, if_pos h, ht]⟩
    · exact ⟨s, by rw [turnStep, if_neg h]⟩
  | _ => exact ⟨_, rfl⟩

/-- Settles O59: a step is the turn of some agent, and every turn answers a next state. -/
theorem everyStepGoesOn : Obligations.EveryStepGoesOn := by
  unfold Obligations.EveryStepGoesOn
  intro s
  exact turnStep_next (elapse (nextTurn s).1 (nextTurn s).2.wait) (nextTurn s).2.who

/-! ### What paying changes (R304, R357) -/

/-- Launches have paid between two states: of the launches their energy differs, and of the cores nothing of a context, a tile or a local
memory. -/
structure Paid (x y : State) : Prop where
  only : { y with cores := x.cores, launches := x.launches } = x
  launches : y.launches.map (fun l => { l with energy := 0 }) = x.launches.map (fun l => { l with energy := 0 })
  ctx : ∀ k h, y.ctxOf k h = x.ctxOf k h
  memory : ∀ k, (y.core k).lm = (x.core k).lm ∧ (y.core k).tiles = (x.core k).tiles

namespace Paid

theorem refl (x : State) : Paid x x := ⟨rfl, rfl, fun _ _ => rfl, fun _ => ⟨rfl, rfl⟩⟩

theorem trans {x y z : State} (h : Paid x y) (g : Paid y z) : Paid x z where
  only := (congrArg (fun w => { w with cores := x.cores, launches := x.launches }) g.only).trans h.only
  launches := g.launches.trans h.launches
  ctx k b := (g.ctx k b).trans (h.ctx k b)
  memory k := ⟨(g.memory k).1.trans (h.memory k).1, (g.memory k).2.trans (h.memory k).2⟩

theorem foldl {α : Type} (f : State → α → State) (h : ∀ s x, Paid s (f s x)) (l : List α) (s : State) : Paid s (l.foldl f s) := by
  induction l generalizing s with
  | nil => exact refl s
  | cons x rest ih => exact (h s x).trans (ih (f s x))

/-- A change of one core that leaves its contexts, its local memory and its tiles. -/
theorem modCore (s : State) (cn : Nat) (f : Core → Core) (hc : ∀ h, (f (s.core cn)).ctx h = (s.core cn).ctx h)
    (hl : (f (s.core cn)).lm = (s.core cn).lm) (ht : (f (s.core cn)).tiles = (s.core cn).tiles) : Paid s (s.modCore cn f) where
  only := rfl
  launches := rfl
  ctx k b := by
    rw [State.ctxOf, State.ctxOf, State.modCore_core]
    split
    · next h => rw [h, hc]
    · rfl
  memory k := by
    rw [State.modCore_core]
    split
    · next h => rw [h]; exact ⟨hl, ht⟩
    · exact ⟨rfl, rfl⟩

/-- The energy of a launch. -/
theorem modLaunch (s : State) (n amount : Nat) : Paid s (s.modLaunch n (fun l => { l with energy := l.energy + amount })) where
  only := rfl
  launches := by
    simp only [State.modLaunch, updWhere, List.map_map]
    refine List.map_congr_left fun l _ => ?_
    simp only [Function.comp]
    split <;> rfl
  ctx _ _ := rfl
  memory _ := ⟨rfl, rfl⟩

end Paid

theorem beginPark_paid (s : State) (cn : Nat) : Paid s (beginPark s cn) := by
  refine .modCore s cn _ (fun h => ?_) ?_ ?_ <;> split <;> rfl

theorem refreshCore_paid (s : State) (cn : Nat) : Paid s (refreshCore s cn) := by
  simp only [refreshCore]
  split
  · exact .refl s
  · split
    · exact .trans (.modCore s cn _ (fun _ => rfl) rfl rfl) (beginPark_paid _ cn)
    · exact .modCore s cn _ (fun _ => rfl) rfl rfl

theorem refreshLaunch_paid (s : State) (n : Nat) : Paid s (refreshLaunch s n) :=
  .foldl _ (fun t (p : Nat × Slice) => .foldl refreshCore refreshCore_paid (coresOf p.1) t) _ s

theorem charge_paid (s : State) (n amount : Nat) : Paid s (charge s n amount) := by
  simp only [charge]
  split
  · exact .modLaunch s n amount
  · exact .trans (.modLaunch s n amount) (refreshLaunch_paid _ n)

theorem pay_paid (s : State) (cs : List (Nat × Nat)) : Paid s (pay s cs) :=
  .foldl _ (fun t (c : Nat × Nat) => charge_paid t c.1 c.2) cs s

theorem payIssue_paid (s : State) (i : Instr) : Paid s (payIssue s i (exec i s)) := by
  obtain ⟨t, ht⟩ := exec_next i s
  rw [ht]
  exact pay_paid s _

theorem payEvent_paid (s : State) (i : Instr) : Paid s (payEvent s i (exec i s)) := by
  obtain ⟨t, ht⟩ := exec_next i s
  rw [ht]
  exact pay_paid s _

/-! ### A context that fetches (R33 to R36) -/

theorem translate_cur {s : State} {va val : Word} {k : AccKind} {pref : Option Nat} {p : State × TlbEntry}
    (h : translate s va k val pref = .ok p) : p.1.cur = s.cur := by
  unfold translate at h
  split at h
  · cases h
  · split at h
    · cases h
    · split at h
      · cases h
      · split at h <;> cases h
        rfl

theorem fetchLine_cur {s u : State} {l : Line} {va val : Word} (h : fetchLine s va val = .ok (u, l)) : u.cur = s.cur := by
  unfold fetchLine at h
  split at h
  · simp only [bind_ok] at h
    split at h <;> cases h
    rfl
  · cases ht : translate s va .x val none with
    | error e =>
      rw [ht] at h
      cases h
    | ok p =>
      simp only [ht, bind_ok] at h
      split at h <;> cases h
      exact translate_cur ht

/-- The state in which a context executes the instruction it fetched: past the rte of a handler no further BAR_OVER is noted. -/
def fetchedState (u : State) : State := u.modCtx (fun c => { c with further := c.further && c.inh })

section

variable {s u : State} {l : Line} (h : Fetches s u l)

include h

theorem Fetches.fetchInstr_ok {i : Instr} (hd : decode (l.words.drop (wordIdx s.ctx.pc)) = .ok i) :
    fetchInstr s = .ok (fetchedState u, i) := by
  obtain ⟨-, -, -, -, -, -, harrive, -, hline, hok⟩ := h
  have ha : checkArrival s = .ok s := by rw [checkArrival, harrive]
  simp only [fetchInstr, ha, bind_ok, hline, lineSound, hok, need_true, beq_self_eq_true, hd]
  rfl

theorem Fetches.fetchInstr_error {why : DecodeErr} (hd : decode (l.words.drop (wordIdx s.ctx.pc)) = .error why) :
    fetchInstr s = .error (illegal ((l.words.drop (wordIdx s.ctx.pc)).headD 0)) := by
  obtain ⟨-, -, -, -, -, -, harrive, -, hline, hok⟩ := h
  have ha : checkArrival s = .ok s := by rw [checkArrival, harrive]
  simp only [fetchInstr, ha, bind_ok, hline, lineSound, hok, need_true, beq_self_eq_true, hd]

/-- No wait and no fault comes before the instruction: the turn is its execution. -/
theorem Fetches.issueFetch_run {t : State} {i : Instr} (hf : fetchInstr s = .ok (t, i)) (ha : asyncAfter s s.cur.core s.cur.hv = none) :
    issueFetch s = .run t i := by
  obtain ⟨hmay, hdue, hunits, hend, hpflt, hmove, -, hclosed, -, -⟩ := h
  have hfall : fallen s s.cur.core s.cur.hv = none := congrArg (Option.map _) hclosed
  simp only [issueFetch, hmay, hunits, hend, hpflt, hmove, hfall, hdue, hf, ha, Option.isSome_none, Option.or_none, Bool.not_true,
    Bool.false_eq_true, if_false]

/-- An asynchronous fault is due, unless the instruction takes a BAR_OVER (R336). -/
theorem Fetches.issueFetch_due {x t : State} {i : Instr} (hf : fetchInstr s = .ok (t, i))
    (ha : asyncAfter s s.cur.core s.cur.hv = some x) : issueFetch s = .due x t i := by
  obtain ⟨hmay, hdue, hunits, hend, hpflt, hmove, -, hclosed, -, -⟩ := h
  have hfall : fallen s s.cur.core s.cur.hv = none := congrArg (Option.map _) hclosed
  simp only [issueFetch, hmay, hunits, hend, hpflt, hmove, hfall, hdue, hf, ha, Option.isSome_none, Option.or_none, Bool.not_true,
    Bool.false_eq_true, if_false]

theorem Fetches.issueFetch_stop {e : Stop} (hf : fetchInstr s = .error e) :
    issueFetch s = .stop (fetchStop s (asyncAfter s s.cur.core s.cur.hv) e) := by
  obtain ⟨hmay, hdue, hunits, hend, hpflt, hmove, -, hclosed, -, -⟩ := h
  have hfall : fallen s s.cur.core s.cur.hv = none := congrArg (Option.map _) hclosed
  simp only [issueFetch, hmay, hunits, hend, hpflt, hmove, hfall, hdue, hf, Option.isSome_none, Option.or_none, Bool.not_true,
    Bool.false_eq_true, if_false]

theorem Fetches.fetched_cur : (fetchedState u).cur = s.cur := by
  obtain ⟨-, -, -, -, -, -, -, -, hline, -⟩ := h
  exact (fetchLine_cur hline : u.cur = s.cur)

end

theorem issueStep_run {s t : State} {cn : Nat} {hv : Bool} {i : Instr} (h : issueFetch { s with cur := ⟨cn, hv⟩ } = .run t i) :
    ∃ w, Paid t w ∧ issueStep s cn hv = exec i w :=
  ⟨payIssue t i (exec i t), payIssue_paid t i, by rw [issueStep, h]⟩

theorem issueStep_stop {s t : State} {cn : Nat} {hv : Bool} (h : issueFetch { s with cur := ⟨cn, hv⟩ } = .stop t) :
    issueStep s cn hv = .next (pay t (unitCharge s t)) := by
  rw [issueStep, h]

section

variable {s x t : State} {cn : Nat} {hv : Bool} {i : Instr} (h : issueFetch { s with cur := ⟨cn, hv⟩ } = .due x t i)
  (hcur : t.cur = ⟨cn, hv⟩)

include h hcur

/-- The instruction before which an asynchronous fault is due takes a pending BAR_OVER in its place (R262). -/
theorem issueStep_due_bar (hr : exec i t = .next (takeBarOver t cn hv)) :
    issueStep s cn hv = .next (pay (takeBarOver t cn hv) (unitCharge s (takeBarOver t cn hv))) := by
  simp only [issueStep, h, pickDue, hr, payUnits, hcur, beq_self_eq_true, if_true]

/-- An asynchronous fault that is due is taken before an instruction that is no point of R262 (R336). -/
theorem issueStep_due_async {r : State} (hr : exec i t = .next r) (hne : r ≠ takeBarOver t cn hv) :
    issueStep s cn hv = .next (pay x (unitCharge s x)) := by
  simp only [issueStep, h, pickDue, hr, payUnits, hcur, beq_iff_eq, if_neg hne]

end

/-- Settles O56: the fetch comes to the decoded instruction, and what the launch pays for it comes before its exec. -/
theorem stepRunsDecodedInstruction : Obligations.StepRunsDecodedInstruction := by
  unfold Obligations.StepRunsDecodedInstruction
  intro s u l cn hv i turn e at_ v Ends PaidIn
  have paidIn {x w : State} (h : Paid x w) : PaidIn x w := ⟨h.only, h.launches, h.ctx, h.memory⟩
  refine ⟨fun hwho hf => ?context, fun hwho hev => ?event⟩
  case context =>
    have hstep : step s = issueStep e cn hv := by rw [step]; exact congrArg (turnStep e) hwho
    refine ⟨fun hnone => ⟨fun hd => ?run, fun why hd => ?illegal⟩, fun x hx hd => ?due⟩
    case run =>
      obtain ⟨w, hw, hexec⟩ := issueStep_run (hf.issueFetch_run (hf.fetchInstr_ok hd) hnone)
      exact ⟨w, paidIn hw, hstep.trans hexec⟩
    case illegal =>
      have hstop := hf.issueFetch_stop (hf.fetchInstr_error hd)
      rw [show asyncAfter at_ at_.cur.core at_.cur.hv = none from hnone] at hstop
      exact hstep.trans (issueStep_stop hstop)
    case due =>
      have hdue := hf.issueFetch_due (hf.fetchInstr_ok hd) hx
      exact ⟨fun hbar => hstep.trans (issueStep_due_bar hdue hf.fetched_cur hbar),
        fun t ht hne => hstep.trans (issueStep_due_async hdue hf.fetched_cur ht hne)⟩
  case event =>
    refine ⟨payEvent e i (exec i e), paidIn (payEvent_paid e i), ?_⟩
    have hstep : step s = turnStep e (.event i) := by rw [step]; exact congrArg (turnStep e) hwho
    rw [hstep, turnStep, if_pos hev]

end Sys2Proof.Machine

/-! SUPPORT. Requests at their home (spec/03, R69, R71, R72; spec/14, R281): what completes one, what HBM under its own label reads and
takes, and each service of a base die. -/

namespace Sys2Proof.Machine

open Sys2Proof

/-! ### Nothing of memory changes -/

namespace SameMemory

theorem refl (s : State) : SameMemory s s := ⟨fun _ _ => rfl, fun _ => rfl⟩

theorem trans {s t u : State} (h : SameMemory s t) (g : SameMemory t u) : SameMemory s u :=
  ⟨fun cn off => (g.1 cn off).trans (h.1 cn off), fun pa => (g.2 pa).trans (h.2 pa)⟩

end SameMemory

theorem HbmStored.sameMemory {s t u : State} {pa : Nat} {bs : List Byte} (h : HbmStored s t pa bs) (g : SameMemory t u) :
    HbmStored s u pa bs := by
  obtain ⟨hin, hout, hlm⟩ := h
  exact ⟨fun i hi => (g.2 _).trans (hin i hi), fun x hx => (g.2 x).trans (hout x hx), fun c x => (g.1 c x).trans (hlm c x)⟩

/-- What an agent reports leaves every context and every memory (R339). -/
theorem reportEcc_keepsContexts (s : State) (loaf core launch addr : Nat) : KeepsContexts s (reportEcc s loaf core launch addr) :=
  ⟨rfl, rfl, rfl, fun _ => rfl, fun _ => rfl, fun _ => rfl⟩

theorem send_keepsContexts (s : State) (l : Letter) : KeepsContexts s (send s l).1 := by
  have key (u : State) (f : Fab) (net : List Packet) : KeepsContexts u { u.modCore l.src (fun c => { c with fab := f }) with net := net } :=
    .trans (.modCore u l.src (fun c => { c with fab := f }) rfl rfl rfl) ⟨rfl, rfl, rfl, fun _ => rfl, fun _ => rfl, fun _ => rfl⟩
  have hnew : KeepsContexts s s.newId.1 := ⟨rfl, rfl, rfl, fun _ => rfl, fun _ => rfl, fun _ => rfl⟩
  exact hnew.trans (by unfold send; exact key _ _ _)

theorem mget_map_of_eq {α β : Type} {f : Nat × α → Nat × α} {g : α → β} (hk : ∀ p, (f p).1 = p.1) (hg : ∀ p, g (f p).2 = g p.2)
    (m : List (Nat × α)) (k : Nat) (d : α) : g (mget (m.map f) k d) = g (mget m k d) := by
  induction m with
  | nil => rfl
  | cons p rest ih =>
    simp only [mget, List.map_cons, mfind, hk] at ih ⊢
    split
    · exact hg p
    · exact ih

/-- A completed release removes tags, and no byte (R280). -/
theorem clearTags_sameMemory (s : State) (cn : Nat) (sc : Scope) : SameMemory s (clearTags s cn sc) := by
  refine ⟨fun c x => congrArg (cellGet · x) ?_, fun _ => rfl⟩
  apply mget_map_of_eq (g := fun c : Core => c.lm.bytes) <;> exact fun _ => rfl

/-! ### A request is completed (R61, R242) -/

/-- The state after a home has performed a request: it leaves the fabric, its result may join the cache, and its answer is sent. -/
def completed (t : State) (p : Packet) (r : Result) : State := answer (cacheResult (executed t p) p r) p r

theorem executed_keepsContexts (t : State) (p : Packet) : KeepsContexts t (executed t p) := by
  have htake : KeepsContexts t (t.take p.id) := ⟨rfl, rfl, rfl, fun _ => rfl, fun _ => rfl, fun _ => rfl⟩
  unfold executed
  split
  · exact .trans htake (.modCore _ _ _ rfl rfl rfl)
  · exact htake

theorem cacheResult_keepsContexts (t : State) (p : Packet) (r : Result) : KeepsContexts t (cacheResult t p r) := by
  unfold cacheResult
  split
  · exact .modCore _ _ _ rfl rfl rfl
  · split
    · split
      · exact .modCore _ _ _ rfl rfl rfl
      · exact .refl t
    · exact .refl t

theorem completed_keepsContexts (t : State) (p : Packet) (r : Result) : KeepsContexts t (completed t p r) :=
  .trans (.trans (executed_keepsContexts t p) (cacheResult_keepsContexts _ p r)) (send_keepsContexts _ _)

theorem executed_net (t : State) (p : Packet) : (executed t p).net = t.net.filter (fun q => q.id != p.id) := by
  unfold executed
  split <;> rfl

theorem cacheResult_net (t : State) (p : Packet) (r : Result) : (cacheResult t p r).net = t.net := by
  unfold cacheResult
  split
  · rfl
  · split
    · split <;> rfl
    · rfl

/-- The answer to a request is one packet on VN2 to the agent that sent it (R61, R87). -/
theorem answer_net (t : State) (p : Packet) (r : Result) : ∃ a, (answer t p r).net = t.net ++ [a] ∧ a.src = p.dst ∧ a.dst = p.src
    ∧ a.vn = 2 ∧ a.who = p.who ∧ a.req = p.req ∧ a.body = if p.body.acked then .ack r else .rply r := by
  unfold answer send
  exact ⟨_, rfl, rfl, rfl, rfl, rfl, rfl, rfl⟩

/-- The answer of a home, which asks for no place of HBM, is none of the requests that do. -/
theorem completed_answered {p : Packet} (hp : p.body.gloc.isSome) (t : State) (r : Result) : Answered (completed t p r) p r := by
  obtain ⟨a, hnet, hsrc, hdst, hvn, hwho, hreq, hbody⟩ := answer_net (cacheResult (executed t p) p r) p r
  rw [cacheResult_net, executed_net] at hnet
  have hnet : (completed t p r).net = _ := hnet
  refine ⟨fun hmem => ?_, a, by simp [hnet], hsrc, hdst, hvn, hwho, hreq, hbody⟩
  rw [hnet, List.mem_append, List.mem_filter, List.mem_singleton] at hmem
  rcases hmem with ⟨-, hid⟩ | rfl
  · simp at hid
  · rw [hbody] at hp
    split at hp <;> cases hp

section

variable {s t : State} {k : Nat} {p : Packet} {want : Body → Bool} {f : State → Packet → Served}

theorem Serviceable.serve_done {r : Result} (h : Serviceable s k p) (hw : want p.body = true) (hf : f s p = .done t r) :
    serve s k want f = completed t p r := by
  obtain ⟨hgot, htrim, hsend, hdone, hover, hrel, hcache⟩ := h
  simp [serve, hgot, htrim, hsend, hdone, hover, hrel, hcache, hw, hf, completed]

theorem Serviceable.serve_part {b : Body} (h : Serviceable s k p) (hw : want p.body = true) (hf : f s p = .part t b) :
    serve s k want f = { t with net := updWhere (fun q => q.id == k) (fun q => { q with body := b }) t.net } := by
  obtain ⟨hgot, htrim, hsend, hdone, hover, hrel, hcache⟩ := h
  simp [serve, hgot, htrim, hsend, hdone, hover, hrel, hcache, hw, hf]

end

/-! ### HBM under its own label (R63, R70) -/

theorem Labelled.tail {s : State} {g : GLoc} {n : Nat} (h : Labelled s g (n + 1)) : Labelled s { g with pa := g.pa + 1, va := g.va + 1 } n := by
  intro i hi
  have hi := h (i + 1) (by omega)
  rw [show g.pa + (i + 1) = g.pa + 1 + i by omega, show g.va + (i + 1) = g.va + 1 + i by omega] at hi
  exact hi

/-- A read under the label of its bytes gives them and draws no noise. -/
theorem hbmRead_labelled {s : State} {g : GLoc} {n : Nat} (h : Labelled s g n) :
    hbmRead s g.pa g.va g.key g.phys n = (s, cellRead s.hbm.bytes g.pa n) := by
  induction n generalizing g with
  | zero => rfl
  | succ n ih =>
    have h0 : mfind s.hbm.labels (g.pa / 32) = some (labelOf s g.key g.va g.phys) := h 0 (by omega)
    have hrest := ih h.tail
    simp only [hbmRead, h0, beq_self_eq_true, if_true, hrest, cellRead]

/-- A granule that stands under the label of a write is left as it is. -/
theorem relabel_labelled {s : State} {x : Nat} {l : Label} (h : mfind s.hbm.labels x = some l) : relabel s x l = s := by
  rw [relabel, h, beq_self_eq_true, if_pos rfl]

theorem foldl_fixed {α β : Type} (f : β → α → β) (b : β) (l : List α) (h : ∀ x ∈ l, f b x = b) : l.foldl f b = b := by
  induction l with
  | nil => rfl
  | cons x rest ih =>
    rw [List.foldl_cons, h x List.mem_cons_self]
    exact ih fun y hy => h y (List.mem_cons_of_mem x hy)

theorem mem_granules {a n x : Nat} (h : x ∈ granules a n) : 0 < n ∧ a / 32 ≤ x ∧ x ≤ (a + n - 1) / 32 := by
  unfold granules at h
  split at h
  · cases h
  · next hn =>
    simp only [natRange, List.mem_map, List.mem_range] at h
    obtain ⟨i, hi, rfl⟩ := h
    have hn : n ≠ 0 := by simpa using hn
    omega

/-- The label that a write gives a granule is the label of the first of its bytes there. -/
theorem labelOf_granule {s : State} {g : GLoc} {n x : Nat} (h : Labelled s g n) (hva : g.va % 32 = g.pa % 32) (hx : x ∈ granules g.pa n) :
    mfind s.hbm.labels x = some (labelOf s g.key (g.va + (x * 32 - g.pa) - (g.pa - x * 32)) g.phys) := by
  obtain ⟨hn, hlo, hhi⟩ := mem_granules hx
  have hi := h (x * 32 - g.pa) (by omega)
  rw [show (g.pa + (x * 32 - g.pa)) / 32 = x by omega] at hi
  rw [hi, labelOf, labelOf, show (g.va + (x * 32 - g.pa)) / 32 = (g.va + (x * 32 - g.pa) - (g.pa - x * 32)) / 32 by omega,
    show (g.va + (x * 32 - g.pa)) % 2 ^ 48 / 32 = (g.va + (x * 32 - g.pa) - (g.pa - x * 32)) % 2 ^ 48 / 32 by omega]

/-- A write under the label of its bytes changes the array of HBM there, and draws no noise. -/
theorem hbmWrite_labelled {s : State} {g : GLoc} {bs : List Byte} (h : Labelled s g bs.length) (hva : g.va % 32 = g.pa % 32) :
    ∃ bad, hbmWrite s g.pa g.va g.key g.phys bs = { s with hbm := { s.hbm with bytes := cellWrite s.hbm.bytes g.pa bs, bad := bad } } := by
  rw [hbmWrite, foldl_fixed]
  · exact ⟨_, rfl⟩
  · intro x hx
    exact relabel_labelled (labelOf_granule h hva hx)

/-- A store of a program also notes what fetches may still see (R39). -/
theorem hbmStore_labelled {s : State} {g : GLoc} {bs : List Byte} (w : Nat) (h : Labelled s g bs.length) (hva : g.va % 32 = g.pa % 32)
    (hphys : g.phys = false) : ∃ old bad, hbmStore s w g.pa g.va g.key bs =
      { s with hbm := { s.hbm with bytes := cellWrite s.hbm.bytes g.pa bs, old := old, bad := bad } } := by
  have h' : Labelled { s with hbm := { s.hbm with old := s.hbm.old ++ (linesOf g.pa bs.length).map (oldLine s w) } } g bs.length := h
  obtain ⟨bad, hw⟩ := hbmWrite_labelled h' hva
  rw [hphys] at hw
  exact ⟨_, bad, hw⟩

/-- The array of HBM has taken bytes at a place. -/
theorem hbmStored_of_bytes {s t : State} {pa : Nat} {bs : List Byte} (hwf : Memory.wf s.hbm.bytes = true)
    (hb : t.hbm.bytes = cellWrite s.hbm.bytes pa bs) (hc : t.cores = s.cores) : HbmStored s t pa bs := by
  refine ⟨fun i hi => ?_, fun x hx => ?_, fun c x => ?_⟩
  · rw [State.hbmByte, hb]
    exact cellGet_cellWrite_in _ pa i bs hwf hi
  · rw [State.hbmByte, hb]
    exact cellGet_cellWrite_other _ pa x bs hx
  · rw [State.lmByte, State.core, hc]
    rfl

theorem getElem_cellRead (m : List Host.Cell) (a : Nat) {n i : Nat} (h : i < (cellRead m a n).length) :
    (cellRead m a n)[i] = cellGet m (a + i) := by
  induction n generalizing a i with
  | zero => cases h
  | succ n ih =>
    cases i with
    | zero => rfl
    | succ i =>
      rw [show a + (i + 1) = a + 1 + i by omega]
      exact ih (a + 1) (by simpa using h)

theorem hbmStore_stored {s : State} {g : GLoc} {bs : List Byte} (w : Nat) (hwf : Memory.wf s.hbm.bytes = true)
    (h : Labelled s g bs.length) (hva : g.va % 32 = g.pa % 32) (hphys : g.phys = false) :
    HbmStored s (hbmStore s w g.pa g.va g.key bs) g.pa bs := by
  obtain ⟨old, bad, hstore⟩ := hbmStore_labelled w h hva hphys
  rw [hstore]
  exact hbmStored_of_bytes hwf rfl rfl

/-- What is there already is stored by doing nothing. -/
theorem hbmStored_cellRead (s : State) (pa n : Nat) : HbmStored s s pa (cellRead s.hbm.bytes pa n) := by
  refine ⟨fun i hi => ?_, fun _ _ => rfl, fun _ _ => rfl⟩
  exact (getElem_cellRead _ _ hi).symm

/-! ### Services of a base die -/

/-- A fault leaves the die's memory as it is (R71, R281). -/
theorem dieFault_eq (s : State) (p : Packet) (g : GLoc) (c : Cause) :
    ∃ u, dieFault s p g c = .done u (.fault c (BitVec.ofNat 64 g.va)) ∧ SameMemory s u := by
  unfold dieFault
  split
  · exact ⟨_, rfl, (reportEcc_keepsContexts s _ _ _ _).sameMemory⟩
  · exact ⟨_, rfl, .refl s⟩

/-- What an event of a base die does at one packet: it ends as `completed`, or one granule of a row has moved. -/
structure DieEvent (i : Instr) (s : State) (k : Nat) (p : Packet) (r : Served) : Prop where
  done : ∀ t x, r = .done t x → exec i s = .next (completed t p x)
  part : ∀ t b, r = .part t b →
    exec i s = .next { t with net := updWhere (fun q => q.id == k) (fun q => { q with body := b }) t.net }

section

variable {i : Instr} {s t : State} {k : Nat} {p : Packet} {g : GLoc}

theorem DieEvent.of_serve {want : Body → Bool} {f : State → Packet → Served} {r : Served} (h : Serviceable s k p)
    (hw : want p.body = true) (hi : exec i s = .next (serve s k want f)) (hr : f s p = r) : DieEvent i s k p r where
  done _ _ hd := hi.trans (congrArg _ (h.serve_done hw (hr.trans hd)))
  part _ _ hd := hi.trans (congrArg _ (h.serve_part hw (hr.trans hd)))

variable {r : Served} (e : DieEvent i s k p r) (hp : p.body.gloc.isSome)

include e hp

theorem DieEvent.answers {x : Result} (hr : r = .done t x) : ∃ u, exec i s = .next u ∧ Answered u p x ∧ KeepsContexts t u :=
  ⟨_, e.done t x hr, completed_answered hp t x, completed_keepsContexts t p x⟩

theorem DieEvent.faults {c : Cause} (hr : r = dieFault s p g c) :
    ∃ u, exec i s = .next u ∧ Answered u p (.fault c (BitVec.ofNat 64 g.va)) ∧ SameMemory s u := by
  obtain ⟨t, hf, hsame⟩ := dieFault_eq s p g c
  obtain ⟨u, hu, hans, hkeep⟩ := e.answers hp (hr.trans hf)
  exact ⟨u, hu, hans, hsame.trans hkeep.sameMemory⟩

/-- A service that changes no byte and answers. -/
theorem DieEvent.reads {x : Result} (hr : r = .done s x) : ∃ u, exec i s = .next u ∧ Answered u p x ∧ SameMemory s u := by
  obtain ⟨u, hu, hans, hkeep⟩ := e.answers hp hr
  exact ⟨u, hu, hans, hkeep.sameMemory⟩

end

section

variable {s : State} {k : Nat} {p : Packet} {g : GLoc} (h : Serviceable s k p)

include h

theorem Serviceable.grd {n : Nat} {got : List Byte} (hb : p.body = .grd g n got) : DieEvent (.grd k) s k p (dieRead s p g n got) :=
  .of_serve h (by rw [hb]) rfl (by rw [hb])

theorem Serviceable.line {born : Nat} (hb : p.body = .line g born) : DieEvent (.grd k) s k p (dieLine s p g born) :=
  .of_serve h (by rw [hb]) rfl (by rw [hb])

theorem Serviceable.gwr {data : List Byte} (hb : p.body = .gwr g data) : DieEvent (.gwr k) s k p (dieWrite s p g data) :=
  .of_serve h (by rw [hb]) rfl (by rw [hb])

theorem Serviceable.gat {o : AtomOp} {dbl : Bool} {v c : Word} (hb : p.body = .gat g o dbl v c) :
    DieEvent (.gat k) s k p (dieAtom s p g o dbl v c) :=
  .of_serve h (by rw [hb]) rfl (by rw [hb])

theorem Serviceable.gred {ty : TileType} {bits : RowBits} (hb : p.body = .gred g ty bits) :
    DieEvent (.gredPacket k) s k p (dieReduce s p g ty bits) :=
  .of_serve h (by rw [hb]) rfl (by rw [hb])

end

/-! ### Bytes, numbers and lanes -/

theorem cellRead_drop_take (m : List Host.Cell) (a k n l : Nat) (h : k + l ≤ n) :
    ((cellRead m a n).drop k).take l = cellRead m (a + k) l := by
  apply List.ext_getElem
  · simp only [List.length_take, List.length_drop, cellRead_length]
    omega
  · intro i hi _
    simp only [List.getElem_take, List.getElem_drop, getElem_cellRead, Nat.add_assoc]

theorem cellRead_append (m : List Host.Cell) (a k n : Nat) : cellRead m a k ++ cellRead m (a + k) n = cellRead m a (k + n) := by
  induction k generalizing a with
  | zero => rw [Nat.zero_add]; rfl
  | succ k ih =>
    rw [Nat.add_right_comm]
    have hrest := ih (a + 1)
    rw [show a + 1 + k = a + (k + 1) by omega] at hrest
    exact congrArg (cellGet m a :: ·) hrest

/-- The little-endian bytes of the number of some bytes. -/
theorem natLe_leNat (bs : List Byte) : natLe bs.length (leNat bs) = bs := by
  induction bs with
  | nil => rfl
  | cons b bs ih =>
    have hb := b.isLt
    have hlow : BitVec.ofNat 8 (leNat (b :: bs)) = b := by
      apply BitVec.eq_of_toNat_eq
      rw [BitVec.toNat_ofNat, leNat]
      omega
    have hrest : leNat (b :: bs) / 256 = leNat bs := by rw [leNat]; omega
    rw [List.length_cons, natLe, hlow, hrest, ih]

theorem sgn_eq_toInt {w : Nat} (hw : 0 < w) (x : Nat) : sgn w x = (BitVec.ofNat w x).toInt := by
  obtain ⟨w, rfl⟩ := Nat.exists_eq_succ_of_ne_zero hw.ne'
  rw [sgn, BitVec.toInt_eq_toNat_cond, BitVec.toNat_ofNat, Nat.succ_eq_add_one, Nat.add_sub_cancel, Nat.pow_succ']
  congr 1
  rw [Nat.mul_lt_mul_left (by decide)]

/-- What an atomic of the banks writes, and what it leaves, is what R77 gives. -/
theorem atomNew_getD (o : AtomOp) {w : Nat} (hw : 0 < w) (old v c : Nat) : (atomNew o w old v c).getD old = ruleAtom o w old v c := by
  cases o with
  | cas =>
    simp only [atomNew, ruleAtom, beq_iff_eq]
    split <;> rfl
  | max => simp only [atomNew, ruleAtom, sgn_eq_toInt hw, Option.getD_some]
  | min => simp only [atomNew, ruleAtom, sgn_eq_toInt hw, Option.getD_some]
  | _ => rfl

theorem tyW_eq_ruleWidth (ty : TileType) : tyW ty = ruleWidth ty := by cases ty <;> rfl

theorem tyLanes_eq_ruleLanes (ty : TileType) : tyLanes ty = ruleLanes ty := by cases ty <;> rfl

theorem laneOf_eq_ruleLane (ty : TileType) (r : RowBits) (k : Nat) : laneOf ty r k = ruleLane ty r k := by
  rw [laneOf, bitsOf, ruleLane, tyW_eq_ruleWidth]

/-- The lanes of a row fill it. -/
theorem succ_mul_ruleWidth_le {ty : TileType} {k : Nat} (h : k < ruleLanes ty) : (k + 1) * ruleWidth ty ≤ 512 := by
  cases ty <;> simp only [ruleLanes, ruleWidth] at * <;> omega

theorem rowOfLanes_lane (w k : Nat) (ls : List Nat) : rowOfLanes w ls / 2 ^ (k * w) % 2 ^ w = ls.getD k 0 % 2 ^ w := by
  have hw : 0 < 2 ^ w := Nat.two_pow_pos w
  induction ls generalizing k with
  | nil => simp [rowOfLanes]
  | cons x xs ih =>
    cases k with
    | zero => simp [rowOfLanes]
    | succ k =>
      have hdiv : rowOfLanes w (x :: xs) / 2 ^ w = rowOfLanes w xs := by
        rw [rowOfLanes, Nat.add_mul_div_left _ _ hw, Nat.div_eq_of_lt (Nat.mod_lt _ hw), Nat.zero_add]
      rw [Nat.succ_mul, Nat.add_comm, Nat.pow_add, ← Nat.div_div_eq_div_mul, hdiv, ih, List.getD_cons_succ]

/-- Bits of a number that a machine word holds. -/
theorem toNat_ofNat_bits (x : Nat) {n a w : Nat} (h : a + w ≤ n) : (BitVec.ofNat n x).toNat / 2 ^ a % 2 ^ w = x / 2 ^ a % 2 ^ w := by
  rw [BitVec.toNat_ofNat, show n = a + (n - a) by omega, Nat.pow_add, Nat.mod_mul_right_div_self,
    Nat.mod_mod_of_dvd _ (Nat.pow_dvd_pow 2 (by omega))]

/-- A lane of a row made of lanes. -/
theorem ruleLane_mkRow {ty : TileType} {k : Nat} (h : k < ruleLanes ty) (ls : List Nat) :
    ruleLane ty (mkRow ty ls) k = ls.getD k 0 % 2 ^ ruleWidth ty := by
  have hle := succ_mul_ruleWidth_le h
  rw [Nat.succ_mul] at hle
  rw [ruleLane, mkRow, toNat_ofNat_bits _ hle, tyW_eq_ruleWidth, rowOfLanes_lane]

/-- Adding lanes is adding them as signed numbers (R78, R214). -/
theorem ruleWrap_add (ty : TileType) (x y : Nat) :
    ruleWrap ty (ruleSigned ty x + ruleSigned ty y) = (x + y) % 2 ^ ruleWidth ty := by
  have hint (w z : Nat) : ruleInt w z % (2 : Int) ^ w = (z : Int) % 2 ^ w := by
    unfold ruleInt
    split
    · rfl
    · rw [Int.sub_emod_right]
  have hsum : (ruleSigned ty x + ruleSigned ty y) % (2 : Int) ^ ruleWidth ty = ((x + y) % 2 ^ ruleWidth ty : Nat) := by
    rw [ruleSigned, ruleSigned, Int.add_emod, hint, hint, ← Int.add_emod]
    push_cast
    rfl
  rw [ruleWrap, hsum, Int.toNat_natCast]

/-! ### The services one by one -/

section

variable {s : State} {p : Packet} {g : GLoc}

theorem dieLine_bad (born : Nat) (h : hbmBadIn s g.pa 64 = true) :
    ∃ x, dieLine s p g born = dieFault s p { g with pa := x * 32 } .eccUncorr := by
  have hsome : ((granules g.pa 64).find? (fun x => s.hbm.bad.contains x)).isSome := by
    rw [List.find?_isSome]
    exact List.any_eq_true.1 h
  obtain ⟨x, hx⟩ := Option.isSome_iff_exists.1 hsome
  exact ⟨x, by rw [dieLine, hx]⟩

/-- A line that no write changed since a fetch may have seen it is the array's (R39). -/
theorem lineSeen_new {line : Nat} (born : Nat) (h : ∀ o ∈ s.hbm.old, o.line ≠ line) :
    lineSeen s line born = (cellRead s.hbm.bytes (line * 128) 128, (List.range 4).map (fun i => mfind s.hbm.labels (line * 4 + i))) := by
  have hnone : s.hbm.old.find? (fun o => o.line == line && !o.seen born) = none := by
    rw [List.find?_eq_none]
    intro o ho hline
    rw [Bool.and_eq_true, beq_iff_eq] at hline
    exact h o ho hline.1
  rw [lineSeen, hnone]
  rfl

/-- A fill's half of a line that stands under its label is the array's 64 bytes. -/
theorem dieLine_sound (born : Nat) (hpa : g.pa % 64 = 0) (hva : g.va % 128 = g.pa % 128) (hold : ∀ o ∈ s.hbm.old, o.line ≠ g.pa / 128)
    (hbad : hbmBadIn s g.pa 64 = false) (hl : Labelled s g 64) : dieLine s p g born = .done s (.data (cellRead s.hbm.bytes g.pa 64)) := by
  have hnone : (granules g.pa 64).find? (fun x => s.hbm.bad.contains x) = none := List.find?_eq_none.2 (List.any_eq_false.1 hbad)
  obtain ⟨k, hk⟩ : ∃ k, k = g.pa / 32 % 4 := ⟨_, rfl⟩
  have hseen : dieLine s p g born = .done
      (lineBytes s { g with va := g.va - 32 * k } (cellRead s.hbm.bytes (g.pa / 128 * 128) 128)
        ((List.range 4).map (fun i => mfind s.hbm.labels (g.pa / 128 * 4 + i))) k 2).1
      (.data (lineBytes s { g with va := g.va - 32 * k } (cellRead s.hbm.bytes (g.pa / 128 * 128) 128)
        ((List.range 4).map (fun i => mfind s.hbm.labels (g.pa / 128 * 4 + i))) k 2).2) := by
    rw [dieLine, hnone, lineSeen_new born hold, hk]
  have hlabel (j : Nat) (hj : j < 2) : ((List.range 4).map (fun i => mfind s.hbm.labels (g.pa / 128 * 4 + i))).getD (k + j) none =
      some (labelOf s g.key (g.va - 32 * k + 32 * (k + j)) g.phys) := by
    have h := hl (32 * j) (by omega)
    rw [show (g.pa + 32 * j) / 32 = g.pa / 128 * 4 + (k + j) by omega] at h
    rw [show g.va + 32 * j = g.va - 32 * k + 32 * (k + j) by omega] at h
    simpa [List.getD, show k + j < 4 by omega] using h
  have hbytes (j : Nat) (hj : j < 2) : ((cellRead s.hbm.bytes (g.pa / 128 * 128) 128).drop (32 * (k + j))).take 32 =
      cellRead s.hbm.bytes (g.pa + 32 * j) 32 := by
    rw [cellRead_drop_take _ _ _ _ _ (by omega), show g.pa / 128 * 128 + 32 * (k + j) = g.pa + 32 * j by omega]
  rw [hseen]
  have h0 := hlabel 0 (by decide)
  have b0 := hbytes 0 (by decide)
  simp only [Nat.add_zero, Nat.mul_zero] at h0 b0
  have b1 := hbytes 1 (by decide)
  simp only [lineBytes, h0, hlabel 1 (by decide), beq_self_eq_true, if_true, b0, b1, List.append_nil, cellRead_append]

/-! #### GRD -/

/-- The bytes of one granule's turn of a read (R76). -/
def readBytes (p : Packet) (n : Nat) : Nat := if n = 64 ∧ p.e = false then 32 else n

theorem dieRead_eq (s : State) (p : Packet) (g : GLoc) (n : Nat) : dieRead s p g n [] =
    if hbmRace s g (readBytes p n) p.src p.launch then dieFault s p g .mmRace
    else if hbmBadIn s g.pa (readBytes p n) then dieFault s p g .eccUncorr
    else
      let x := hbmRead s g.pa g.va g.key g.phys (readBytes p n)
      if readBytes p n = n then .done x.1 (.data x.2) else .part x.1 (.grd g n x.2) := by
  simp [dieRead, readBytes]

theorem dieRead_race {n : Nat} (h : hbmRace s g (readBytes p n) p.src p.launch = true) : dieRead s p g n [] = dieFault s p g .mmRace := by
  rw [dieRead_eq, if_pos h]

theorem dieRead_bad {n : Nat} (hr : hbmRace s g (readBytes p n) p.src p.launch = false) (h : hbmBadIn s g.pa (readBytes p n) = true) :
    dieRead s p g n [] = dieFault s p g .eccUncorr := by
  rw [dieRead_eq, hr, h]
  rfl

theorem dieRead_sound {n : Nat} (hr : hbmRace s g (readBytes p n) p.src p.launch = false) (hb : hbmBadIn s g.pa (readBytes p n) = false)
    (hl : Labelled s g (readBytes p n)) : dieRead s p g n [] =
      if readBytes p n = n then .done s (.data (cellRead s.hbm.bytes g.pa (readBytes p n)))
      else .part s (.grd g n (cellRead s.hbm.bytes g.pa (readBytes p n))) := by
  rw [dieRead_eq, hr, hb, hbmRead_labelled hl]
  rfl

/-! #### GWR -/

theorem dieWrite_race {data : List Byte} (hlen : data.length ≠ 32) (h : hbmRace s g data.length p.src p.launch = true) :
    dieWrite s p g data = dieFault s p g .mmRace := by
  simp [dieWrite, hlen, h]

theorem dieWrite_bad {data : List Byte} (hr : hbmRace s g data.length p.src p.launch = false)
    (h : hbmBadPart s g.pa data.length = true) : dieWrite s p g data = dieFault s p g .eccUncorr := by
  simp [dieWrite, hr, h]

theorem dieWrite_sound {data : List Byte} (hr : hbmRace s g data.length p.src p.launch = false)
    (h : hbmBadPart s g.pa data.length = false) : dieWrite s p g data =
      if data.length = 64 ∧ p.e = false then
        .part (dieStore s p g (data.take 32)) (.gwr { g with pa := g.pa + 32, va := g.va + 32 } (data.drop 32))
      else .done (dieStore s p g data) .ack := by
  simp [dieWrite, hr, h]

theorem mfind_foldl_mset {α : Type} (m : List (Nat × α)) (v : α) (l : List Nat) {x : Nat} (h : x ∈ l ∨ mfind m x = some v) :
    mfind (l.foldl (fun t y => mset t y v) m) x = some v := by
  induction l generalizing m with
  | nil => exact h.resolve_left List.not_mem_nil
  | cons y rest ih =>
    apply ih
    by_cases hxy : x = y
    · exact .inr (hxy ▸ mfind_mset_same m x v)
    · rw [mfind_mset_other _ _ _ _ hxy]
      exact h.imp (fun hm => (List.mem_cons.1 hm).resolve_left hxy) id

/-- A plain store puts its bytes, and marks their granules where the page keeps tags (R70, R279). -/
theorem dieStore_labelled {bs : List Byte} (hwf : Memory.wf s.hbm.bytes = true) (hva : g.va % 32 = g.pa % 32) (hphys : g.phys = false)
    (hl : Labelled s g bs.length) : HbmStored s (dieStore s p g bs) g.pa bs ∧ (dieStore s p g bs).net = s.net
      ∧ (g.rchk = true → ∀ x ∈ granules g.pa bs.length, mfind (dieStore s p g bs).hbm.tags x = some ⟨p.src, p.launch⟩) := by
  obtain ⟨old, bad, hstore⟩ := hbmStore_labelled p.src hl hva hphys
  rw [dieStore, hstore]
  unfold hbmMark
  split
  · exact ⟨hbmStored_of_bytes hwf rfl rfl, rfl, fun _ x hx => mfind_foldl_mset _ _ _ (.inl hx)⟩
  · next hr => exact ⟨hbmStored_of_bytes hwf rfl rfl, rfl, fun h => absurd h hr⟩

theorem Labelled.mono {m n : Nat} (h : Labelled s g n) (hmn : m ≤ n) : Labelled s g m := fun i hi => h i (by omega)

/-! #### GAT -/

theorem dieAtom_bad (o : AtomOp) {dbl : Bool} (v c : Word) (h : hbmBadIn s g.pa (if dbl then 8 else 4) = true) :
    dieAtom s p g o dbl v c = dieFault s p g .eccUncorr := by
  rw [dieAtom]
  exact if_pos h

/-- An atomic answers the old value, and the bank holds what R77 gives. -/
theorem dieAtom_sound (o : AtomOp) {dbl : Bool} (v c : Word) (hwf : Memory.wf s.hbm.bytes = true) (hva : g.va % 32 = g.pa % 32)
    (hphys : g.phys = false) : let n := if dbl then 8 else 4
    let old := leNat (cellRead s.hbm.bytes g.pa n)
    hbmBadIn s g.pa n = false → Labelled s g n → ∃ t, dieAtom s p g o dbl v c = .done t (.val (BitVec.ofNat 64 old))
      ∧ HbmStored s t g.pa (natLe n (ruleAtom o (8 * n) old (v.toNat % 2 ^ (8 * n)) (c.toNat % 2 ^ (8 * n)))) := by
  intro n old hbad hl
  have hn : 0 < 8 * n := by simp only [n]; split <;> omega
  have hread : hbmRead s g.pa g.va g.key false n = (s, cellRead s.hbm.bytes g.pa n) := hphys ▸ hbmRead_labelled hl
  rw [← atomNew_getD o hn]
  cases hnew : atomNew o (8 * n) old (v.toNat % 2 ^ (8 * n)) (c.toNat % 2 ^ (8 * n)) with
  | none =>
    refine ⟨s, ?_, ?_⟩
    · simp only [dieAtom, hbad, hread, hnew, n, old, Bool.false_eq_true, if_false]
    · have hsame : natLe n old = cellRead s.hbm.bytes g.pa n := by
        have h := natLe_leNat (cellRead s.hbm.bytes g.pa n)
        rwa [cellRead_length] at h
      rw [Option.getD_none, hsame]
      exact hbmStored_cellRead s g.pa n
  | some x =>
    have hst : HbmStored s (hbmStore s p.src g.pa g.va g.key (natLe n x)) g.pa (natLe n x) :=
      hbmStore_stored p.src hwf (by rwa [natLe_length]) hva hphys
    refine ⟨if p.rel then clearTags (hbmStore s p.src g.pa g.va g.key (natLe n x)) p.src .dev
      else hbmStore s p.src g.pa g.va g.key (natLe n x), ?_, ?_⟩
    · simp only [dieAtom, hbad, hread, hnew, n, old, Bool.false_eq_true, if_false]
    · rw [Option.getD_some]
      split
      · exact hst.sameMemory (clearTags_sameMemory _ _ _)
      · exact hst

/-! #### GRED -/

theorem dieReduce_bad (ty : TileType) (bits : RowBits) (h : hbmBadIn s g.pa 64 = true) :
    dieReduce s p g ty bits = dieFault s p g .eccUncorr := by
  rw [dieReduce, if_pos h]

/-- The row that a reduction leaves: LaneAdd of each lane, the memory's first (R78, R214). -/
def reducedRow (ty : TileType) (old bits : RowBits) (core : Nat) : RowBits :=
  mkRow ty ((List.range (tyLanes ty)).map (fun i => (laneAdd ty (laneOf ty old i) (laneOf ty bits i) core).bits))

theorem dieReduce_sound (ty : TileType) (bits : RowBits) (hwf : Memory.wf s.hbm.bytes = true) (hva : g.va % 32 = g.pa % 32)
    (hphys : g.phys = false) (hbad : hbmBadIn s g.pa 64 = false) (hl : Labelled s g 64) :
    let row := reducedRow ty (rowOfBytes (cellRead s.hbm.bytes g.pa 64)) bits p.src
    ∃ t, dieReduce s p g ty bits = .done t .ack ∧ HbmStored s t g.pa (rowBytes row) := by
  intro row
  have hread : hbmRead s g.pa g.va g.key false 64 = (s, cellRead s.hbm.bytes g.pa 64) := hphys ▸ hbmRead_labelled hl
  have hlen : (rowBytes row).length = 64 := natLe_length 64 _
  refine ⟨hbmStore s p.src g.pa g.va g.key (rowBytes row), ?_, hbmStore_stored p.src hwf (by rwa [hlen]) hva hphys⟩
  simp only [dieReduce, hbad, hread, Bool.false_eq_true, if_false, row, reducedRow]

/-- Integer lanes add modulo 2^w. -/
theorem reducedRow_integer {ty : TileType} (hty : ty.isFloat = false) (old bits : RowBits) (core : Nat) {j : Nat} (hj : j < ruleLanes ty) :
    ruleLane ty (reducedRow ty old bits core) j = ruleWrap ty (ruleSigned ty (ruleLane ty old j) + ruleSigned ty (ruleLane ty bits j)) := by
  have hj' : j < tyLanes ty := by rwa [tyLanes_eq_ruleLanes]
  rw [reducedRow, ruleLane_mkRow hj, ruleWrap_add, ← laneOf_eq_ruleLane, ← laneOf_eq_ruleLane]
  simp [List.getD, hj', laneAdd, hty, tyW_eq_ruleWidth]

end

/-- Settles O23, service by service: each ends its event in `completed` or moves one granule, and only a store, an atomic or a reduction
changes a byte of memory. -/
theorem baseDieServices : Obligations.BaseDieServices := by
  unfold Obligations.BaseDieServices
  intro s k p g hs hwf hva hphys va Faults
  refine ⟨fun born hb hpa hva128 hold => ?line, fun n hb => ?grd, fun data hb => ?gwrFaults, fun data hb hrace hbad hl => ?gwr,
    fun o dbl v c hb => ?gat, fun ty bits hb => ?gred⟩
  all_goals have hp : p.body.gloc.isSome := by rw [hb]; rfl
  case line =>
    refine ⟨fun hbad => ?_, fun hbad hl => (hs.line hb).reads hp (dieLine_sound born hpa hva128 hold hbad hl)⟩
    obtain ⟨x, hx⟩ := dieLine_bad (p := p) born hbad
    exact (hs.line hb).faults (g := { g with pa := x * 32 }) hp hx
  case grd =>
    refine ⟨fun hr => (hs.grd hb).faults hp (dieRead_race hr), fun hr hbad => (hs.grd hb).faults hp (dieRead_bad hr hbad),
      fun hr hbad hl => ⟨fun hm => ?_, fun hm => ?_⟩⟩
    · exact (hs.grd hb).reads hp ((dieRead_sound hr hbad hl).trans (if_pos hm))
    · exact ⟨_, (hs.grd hb).part _ _ ((dieRead_sound hr hbad hl).trans (if_neg hm)), ⟨fun _ _ => rfl, fun _ => rfl⟩, rfl⟩
  case gwrFaults =>
    exact ⟨fun hlen hr => (hs.gwr hb).faults hp (dieWrite_race hlen hr), fun hr hbad => (hs.gwr hb).faults hp (dieWrite_bad hr hbad)⟩
  case gwr =>
    have hw := dieWrite_sound hrace hbad
    refine ⟨fun hlen => ?_, fun hlen he => ?_⟩
    · obtain ⟨hst, -, htags⟩ := dieStore_labelled (p := p) hwf hva hphys hl
      obtain ⟨u, hu, hans, hkeep⟩ := (hs.gwr hb).answers hp (hw.trans (if_neg hlen))
      exact ⟨u, hu, hans, hst.sameMemory hkeep.sameMemory, by rw [hkeep.hbm]; exact htags⟩
    · have hl32 : Labelled s g (data.take 32).length := hl.mono (by rw [List.length_take]; omega)
      obtain ⟨hst, hnet, -⟩ := dieStore_labelled (p := p) hwf hva hphys hl32
      exact ⟨_, (hs.gwr hb).part _ _ (hw.trans (if_pos ⟨hlen, he⟩)), hst.sameMemory ⟨fun _ _ => rfl, fun _ => rfl⟩, by rw [hnet]⟩
  case gat =>
    refine ⟨fun hbad => (hs.gat hb).faults hp (dieAtom_bad o v c hbad), fun hbad hl => ?_⟩
    obtain ⟨t, ht, hst⟩ := dieAtom_sound (p := p) o v c hwf hva hphys hbad hl
    obtain ⟨u, hu, hans, hkeep⟩ := (hs.gat hb).answers hp ht
    exact ⟨u, hu, hans, hst.sameMemory hkeep.sameMemory⟩
  case gred =>
    refine ⟨fun hbad => (hs.gred hb).faults hp (dieReduce_bad ty bits hbad), fun hbad hl => ?_⟩
    obtain ⟨t, ht, hst⟩ := dieReduce_sound (p := p) ty bits hwf hva hphys hbad hl
    obtain ⟨u, hu, hans, hkeep⟩ := (hs.gred hb).answers hp ht
    refine ⟨u, _, hu, hans, hst.sameMemory hkeep.sameMemory, fun hty j hj => reducedRow_integer ?_ _ _ _ hj⟩
    rcases hty with rfl | rfl | rfl <;> rfl

end Sys2Proof.Machine

/-! SUPPORT. Page walks, line fills and the migration of a task (spec/02, R34; spec/03, R58 to R64; spec/16, R299): a walker's move in each
phase, the marking of a leaf at its base die, and what a walk or a fill has when its answer comes. -/

namespace Sys2Proof.Machine

open Sys2Proof

/-! ### Walks of a slice -/

@[simp] theorem State.modSlice_slice_same (s : State) (n : Nat) (f : Slice → Slice) : (s.modSlice n f).slice n = f (s.slice n) := by
  simp [State.modSlice, State.slice]

theorem modSlice_keepsContexts (s : State) (n : Nat) (f : Slice → Slice) : KeepsContexts s (s.modSlice n f) :=
  ⟨rfl, rfl, rfl, fun _ => rfl, fun _ => rfl, fun _ => rfl⟩

/-- A change of a context leaves every memory. -/
theorem modCtxOf_sameMemory (s : State) (cn : Nat) (hv : Bool) (f : Ctx → Ctx) : SameMemory s (s.modCtxOf cn hv f) := by
  refine ⟨fun c off => ?_, fun _ => rfl⟩
  rw [State.lmByte, State.lmByte, State.modCtxOf, State.modCore_core]
  split
  · next h => subst h; cases hv <;> rfl
  · rfl

theorem find?_updWhere {α : Type} {p : α → Bool} {f : α → α} (hp : ∀ x, p (f x) = p x) (l : List α) :
    (updWhere p f l).find? p = (l.find? p).map f := by
  induction l with
  | nil => rfl
  | cons x rest ih =>
    rw [updWhere, List.map_cons, ← updWhere]
    cases hx : p x with
    | true => simp [hp, hx]
    | false => simp [hx, ih]

/-- The walk of a core for a requester, in a state. -/
def State.walkOf (s : State) (cn : Nat) (who : WalkFor) : Option Walk :=
  (s.slice (sliceOf cn)).walks.find? (fun w => w.core == cn && w.who == who)

theorem setPhase_walkOf (s : State) (cn : Nat) (who : WalkFor) (ph : WalkPhase) :
    (s.setPhase cn who ph).walkOf cn who = (s.walkOf cn who).map (fun w => { w with phase := ph }) := by
  simp only [State.setPhase, State.walkOf, State.modSlice_slice_same]
  apply find?_updWhere
  exact fun _ => rfl

theorem setPhase_keepsContexts (s : State) (cn : Nat) (who : WalkFor) (ph : WalkPhase) : KeepsContexts s (s.setPhase cn who ph) :=
  modSlice_keepsContexts s _ _

/-- A walk among the first of its slice is the slice's walk for its requester. -/
theorem walkOf_of_take {s : State} {cn n : Nat} {who : WalkFor} {w : Walk}
    (h : ((s.slice (sliceOf cn)).walks.take n).find? (fun w => w.core == cn && w.who == who) = some w) : s.walkOf cn who = some w := by
  rw [State.walkOf, ← List.take_append_drop n (s.slice (sliceOf cn)).walks, List.find?_append, h]
  rfl

theorem walkOf_core_who {s : State} {cn : Nat} {who : WalkFor} {w : Walk} (h : s.walkOf cn who = some w) : w.core = cn ∧ w.who = who := by
  have h := List.find?_some h
  rwa [Bool.and_eq_true, beq_iff_eq, beq_iff_eq] at h

/-! ### A walker's request (R58, R60) -/

/-- A walker of a core has sent one request for an entry, and its walk waits for the answer in `phase`. -/
structure WalkAsked (s t : State) (cn : Nat) (who : WalkFor) (pte : Nat) (body : Body) (phase : Nat → WalkPhase) (p : Packet) : Prop where
  net : t.net = s.net ++ [p]
  sender : p.who = .walk who
  src : p.src = cn
  dst : p.dst = dieCore pte
  body : p.body = body
  memory : SameMemory s t
  phase : (t.walkOf cn who).map (·.phase) = some (phase p.id)

theorem send_walkOf (s : State) (l : Letter) (cn : Nat) (who : WalkFor) : (send s l).1.walkOf cn who = s.walkOf cn who := rfl

section

variable {s : State} {w : Walk} (hw : s.walkOf w.core w.who = some w)

include hw

/-- The letter of a walker, and the phase in which its walk then waits. -/
theorem walkAsked_send (l : Letter) (pte : Nat) (phase : Nat → WalkPhase) (hwho : l.who = .walk w.who) (hsrc : l.src = w.core)
    (hdst : l.dst = dieCore pte) : ∃ p, WalkAsked s ((send s l).1.setPhase w.core w.who (phase (send s l).2)) w.core w.who pte l.body phase p := by
  refine ⟨_, rfl, hwho, hsrc, hdst, rfl, ?_, ?_⟩
  · exact ((send_keepsContexts s l).trans (setPhase_keepsContexts _ _ _ _)).sameMemory
  · rw [setPhase_walkOf, send_walkOf, hw]
    rfl

theorem askEntry_asks {launch table lvl : Nat} (hs : canSend s w.core (dieCore (table + ptIndex (w.req.va.toNat % 2 ^ 48) lvl * 8)) 1 = true) :
    let pte := table + ptIndex (w.req.va.toNat % 2 ^ 48) lvl * 8
    ∃ p, WalkAsked s (askEntry s w launch table lvl) w.core w.who pte (.grd (pteLoc pte) 8 []) (.asked table lvl ·) p := by
  intro pte
  rw [askEntry, if_pos hs]
  exact walkAsked_send hw _ pte (.asked table lvl ·) rfl rfl rfl

theorem askMark_asks {launch pte lvl e : Nat} (hs : canSend s w.core (dieCore pte) 1 = true) :
    ∃ p, WalkAsked s (askMark s w launch pte lvl e) w.core w.who pte (.mark (pteLoc pte) w.req.kind e) (.marking pte lvl e ·) p := by
  rw [askMark, if_pos hs]
  exact walkAsked_send hw _ pte (.marking pte lvl e ·) rfl rfl rfl

end

/-! ### The end of a walk (R58, R64) -/

theorem fillTlbs_sameMemory (s : State) (cn : Nat) (x : Bool) (e : TlbEntry) : SameMemory s (fillTlbs s cn x e) := by
  have hcore : KeepsContexts s (s.modCore cn (fun c => c.addTlb x e)) := by cases x <;> exact .modCore s cn _ rfl rfl rfl
  exact (hcore.trans (modSlice_keepsContexts _ _ _)).sameMemory

/-- The walk of a context ended at a leaf: the context goes on, and the leaf is in the TLB of its kind and in the second level. -/
structure WalkFilled (s t : State) (cn : Nat) (hv : Bool) (k : AccKind) (e : TlbEntry) : Prop where
  memory : SameMemory s t
  walk : (t.ctxOf cn hv).walk = none
  itlb : k = .x → (t.core cn).itlb.head? = some e
  dtlb : k ≠ .x → (t.core cn).dtlb.head? = some e
  tlb : e ∈ (t.slice (sliceOf cn)).tlb

theorem tlbAdd_head? (cap : Nat) (e : TlbEntry) (l : List TlbEntry) : (tlbAdd (cap + 1) e l).head? = some e := rfl

theorem fillTlbs_filled (s : State) (cn : Nat) (hv : Bool) (k : AccKind) (e : TlbEntry) (hw : (s.ctxOf cn hv).walk = none) :
    WalkFilled s (fillTlbs s cn (k == .x) e) cn hv k e where
  memory := fillTlbs_sameMemory s cn _ e
  walk := by
    rw [fillTlbs, State.modSlice_ctxOf, State.ctxOf, State.modCore_core_same]
    cases k <;> cases hv <;> exact hw
  itlb hk := by
    subst hk
    rw [fillTlbs, State.modSlice_core, State.modCore_core_same]
    exact tlbAdd_head? 15 e _
  dtlb hk := by
    rw [fillTlbs, State.modSlice_core, State.modCore_core_same, beq_false_of_ne hk]
    exact tlbAdd_head? 31 e _
  tlb := by
    rw [fillTlbs, State.modSlice_slice_same]
    exact List.mem_cons_self

theorem endWalk_leaf {s : State} {w : Walk} {cn : Nat} {hv : Bool} (hc : w.core = cn) (hwho : w.who = .ctx hv) (e : TlbEntry) :
    WalkFilled s (endWalk s w (.leaf e)) cn hv w.req.kind e := by
  subst hc
  let u := (s.modSlice (sliceOf w.core) (fun sl => { sl with walks := sl.walks.filter (fun x => !(x.core == w.core && x.who == w.who)) })).modCtxOf
    w.core hv (fun c => { c with walk := none })
  have hu : SameMemory s u := (modSlice_keepsContexts s _ _).sameMemory.trans (modCtxOf_sameMemory _ _ _ _)
  have hend : endWalk s w (.leaf e) = fillTlbs u w.core (w.req.kind == .x) e := by
    simp only [endWalk, hwho, walkCtx, u]
  have hfill := fillTlbs_filled u w.core hv w.req.kind e (by simp [u])
  rw [hend]
  exact { hfill with memory := hu.trans hfill.memory }

/-- A walk's fault is a precise one of the instruction that waits (R58). -/
theorem endWalk_fault {s : State} {w : Walk} {hv : Bool} (hwho : w.who = .ctx hv) (hpref : w.req.pref = none) (c : Cause) :
    endWalk s w (.fault c) = precise { (s.modSlice (sliceOf w.core) (fun y =>
      { y with walks := y.walks.filter (fun x => !(x.core == w.core && x.who == .ctx hv)) })).modCtxOf w.core hv (fun x => { x with walk := none })
      with cur := ⟨w.core, hv⟩ } c w.req.val := by
  simp only [endWalk, hwho, walkCtx, hpref, preciseAt]

/-! ### The leaf that is read again (R60) -/

theorem sameLeaf_iff (e x : Nat) : sameLeaf e x = true ↔ x.testBit 0 = true ∧ leafKey x = leafKey e := by
  rw [sameLeaf, Bool.and_eq_true, beq_iff_eq]

theorem markedFor_iff (k : AccKind) (e : Nat) : markedFor k e = true ↔ e.testBit 7 = true ∧ (k ≠ .w ∨ e.testBit 8 = true) := by
  rw [markedFor, Bool.and_eq_true, Bool.or_eq_true, bne_iff_ne]

theorem markResult_same {va lvl launch pte e x : Nat} (hv : x.testBit 0 = true) (hk : leafKey x = leafKey e) :
    markResult va lvl launch pte e x = .leaf (leafEntry va lvl launch pte x) := by
  rw [markResult, (sameLeaf_iff e x).2 ⟨hv, hk⟩, hv]
  rfl

theorem markResult_other {va lvl launch pte e x : Nat} (hv : x.testBit 0 = true) (hk : leafKey x ≠ leafKey e) :
    markResult va lvl launch pte e x = .fault .pageProt := by
  have hs : sameLeaf e x = false := Bool.eq_false_iff.2 fun h => hk ((sameLeaf_iff e x).1 h).2
  rw [markResult, hs, hv]
  rfl

theorem markResult_gone {va lvl launch pte e x : Nat} (hv : x.testBit 0 = false) (hp : x.testBit 1 = false) :
    markResult va lvl launch pte e x = .fault .pageNotPresent := by
  rw [markResult, hv, hp]
  rfl

/-- The parts of a leaf that a TLB entry keeps are those that R60 compares. -/
theorem leafKey_bits {e : TlbEntry} (h : e.frame < 2 ^ 39) : leafKey e.bits = (true, e.frame / 65536, e.rd, e.wr, e.ex) := by
  obtain ⟨n, hn⟩ : ∃ n, n = e.frame / 65536 := ⟨_, rfl⟩
  have hlt : n < 2 ^ 23 := by omega
  simp only [leafKey, TlbEntry.bits, bitsOf, Nat.testBit_eq_decide_div_mod_eq, ← hn, Prod.mk.injEq]
  cases e.rd <;> cases e.wr <;> cases e.ex <;> simp <;> omega

theorem Serviceable.mark {s : State} {k : Nat} {p : Packet} {g : GLoc} {kind : AccKind} {e : Nat} (h : Serviceable s k p)
    (hb : p.body = .mark g kind e) : DieEvent (.gat k) s k p (dieMark s p g kind e) :=
  .of_serve h (by rw [hb]) rfl (by rw [hb])

section

variable {s : State} {pa x : Nat} (h : EntryAt s pa x)

include h

theorem EntryAt.hbmRead_eq : hbmRead s pa pa 0 true 8 = (s, cellRead s.hbm.bytes pa 8) := by
  obtain ⟨-, -, -, hl, -, -⟩ := h
  have hread := hbmRead_labelled hl
  simpa only [pteLoc] using hread

theorem EntryAt.dieMark_eq (p : Packet) (kind : AccKind) (e : Nat) : dieMark s p (pteLoc pa) kind e =
    .done (markEntry s pa kind e).1 (.val (BitVec.ofNat 64 (markEntry s pa kind e).2)) := by
  obtain ⟨-, -, hbad, -, -, -⟩ := h
  simp only [dieMark, pteLoc, hbad, Bool.false_eq_true, if_false]

/-- An entry that is no longer the leaf is not changed (R60). -/
theorem EntryAt.markEntry_other {e : Nat} (kind : AccKind) (hs : sameLeaf e x = false) : markEntry s pa kind e = (s, x) := by
  have hread := h.hbmRead_eq
  obtain ⟨-, -, -, -, -, hx⟩ := h
  simp only [markEntry, hread, hx, hs, Bool.not_false, if_true]

theorem EntryAt.markEntry_same {e : Nat} (kind : AccKind) (hs : sameLeaf e x = true) :
    ∃ t, markEntry s pa kind e = (t, marked kind x) ∧ HbmStored s t pa (natLe 8 (marked kind x)) := by
  have hread := h.hbmRead_eq
  obtain ⟨hwf, -, -, hl, -, hx⟩ := h
  have hmark : markEntry s pa kind e = (if marked kind x == x then s else hbmWrite s pa pa 0 true (natLe 8 (marked kind x)), marked kind x) := by
    simp only [markEntry, hread, hx, hs, Bool.not_true, Bool.false_eq_true, if_false]
  refine ⟨_, hmark, ?_⟩
  split
  · next heq =>
    have hsame := natLe_leNat (cellRead s.hbm.bytes pa 8)
    rw [cellRead_length, hx] at hsame
    rw [beq_iff_eq.1 heq, hsame]
    exact hbmStored_cellRead s pa 8
  · obtain ⟨bad, hw⟩ := hbmWrite_labelled (g := pteLoc pa) (bs := natLe 8 (marked kind x)) (by rwa [natLe_length]) rfl
    rw [show hbmWrite s pa pa 0 true (natLe 8 (marked kind x)) = _ from hw]
    exact hbmStored_of_bytes hwf rfl rfl

end

/-! ### An answer comes to its agent (R61, R241) -/

theorem KeepsContexts.ctxOf {s t : State} (h : KeepsContexts s t) (cn : Nat) (hv : Bool) : t.ctxOf cn hv = s.ctxOf cn hv := by
  simp only [State.ctxOf, Core.ctx, h.owner, h.harv]

/-- The state in which an answer's agent takes it: the answer has left the fabric, and its request's copy is dropped. -/
def answerTaken (s : State) (p : Packet) : State := dropKept (executed s p) p.dst p.req

theorem answerTaken_keepsContexts (s : State) (p : Packet) : KeepsContexts s (answerTaken s p) :=
  (executed_keepsContexts s p).trans (.modCore (executed s p) p.dst
    (fun c => { c with fab := { c.fab with kept := c.fab.kept.filter (fun x => x.pkt.id != p.req) } }) rfl rfl rfl)

theorem answerTaken_slices (s : State) (p : Packet) : (answerTaken s p).slices = s.slices := by
  unfold answerTaken executed
  split <;> rfl

theorem answerTaken_walkOf (s : State) (p : Packet) (cn : Nat) (who : WalkFor) : (answerTaken s p).walkOf cn who = s.walkOf cn who := by
  rw [State.walkOf, State.walkOf, State.slice, State.slice, answerTaken_slices]

theorem not_mem_answerTaken_net (s : State) (p : Packet) : p ∉ (answerTaken s p).net := by
  have hnet : (answerTaken s p).net = _ := executed_net s p
  simp [hnet]

theorem sendEack_keepsContexts (s : State) (p : Packet) : KeepsContexts s (sendEack s p) := by
  unfold sendEack
  split
  · exact send_keepsContexts s _
  · exact .refl s

theorem sendEack_walkOf (s : State) (p : Packet) (cn : Nat) (who : WalkFor) : (sendEack s p).walkOf cn who = s.walkOf cn who := by
  unfold sendEack
  split <;> rfl

/-- The acknowledgement of a reply is not that reply. -/
theorem not_mem_sendEack_net {s : State} {p : Packet} {r : Result} (hb : p.body = .rply r) (h : p ∉ s.net) : p ∉ (sendEack s p).net := by
  unfold sendEack
  split
  · obtain ⟨q, hnet, -, -, -, -, -, hq, -⟩ := send_net s
      { who := p.who, src := p.dst, dst := p.src, vn := 0, launch := p.launch, ord := false, rel := false, req := none, body := .eack p.seq p.vn }
    rw [hnet, List.mem_append, List.mem_singleton]
    rintro (hmem | rfl)
    · exact h hmem
    · rw [hq] at hb
      cases hb
  · exact h

section

variable {s : State} {k : Nat} {p : Packet} {r : Result} (hgot : s.got k = some p) (htrim : p.trim = false) (hdone : s.isDone p = false)
  (hb : p.body = .rply r)

include hgot htrim hdone hb

theorem exec_rply_eq {t : State} (hnew : (p.e && (s.core p.dst).fab.executed p.src p.vn p.seq) = false → landAnswer s p r = t) :
    exec (.rply k) s = .next (sendEack t p) := by
  have hexec : exec (.rply k) s = execRply k s := rfl
  rw [State.isDone, htrim] at hdone
  rw [hexec, execRply, hgot]
  simp only [hb, htrim, Bool.false_eq_true, if_false, hnew hdone]

/-- A reply that was not executed before goes to its walker. -/
theorem exec_rply_walk {who : WalkFor} (hwho : p.who = .walk who) :
    exec (.rply k) s = .next (sendEack (walkReply (answerTaken s p) p.dst who p.req r) p) := by
  refine exec_rply_eq hgot htrim hdone hb fun hnew => ?_
  rw [landAnswer, hnew, hwho]
  rfl

/-- A reply that was not executed before goes to its line fill. -/
theorem exec_rply_fill {hv : Bool} (hwho : p.who = .fill hv) :
    exec (.rply k) s = .next (sendEack (fillReply (answerTaken s p) p.dst hv p.req r) p) := by
  refine exec_rply_eq hgot htrim hdone hb fun hnew => ?_
  rw [landAnswer, hnew, hwho]
  rfl

/-- The walk that an answer puts into another phase. -/
theorem exec_rply_phase {who : WalkFor} {w : Walk} {ph : WalkPhase} (hwho : p.who = .walk who) (hw : s.walkOf p.dst who = some w)
    (hph : walkReply (answerTaken s p) p.dst who p.req r = (answerTaken s p).setPhase p.dst who ph) :
    ∃ t, exec (.rply k) s = .next t ∧ SameMemory s t ∧ p ∉ t.net ∧ (t.walkOf p.dst who).map (·.phase) = some ph := by
  refine ⟨_, exec_rply_walk hgot htrim hdone hb hwho, ?_, ?_, ?_⟩
  · rw [hph]
    exact ((answerTaken_keepsContexts s p).trans ((setPhase_keepsContexts _ _ _ _).trans (sendEack_keepsContexts _ p))).sameMemory
  · rw [hph]
    exact not_mem_sendEack_net hb (not_mem_answerTaken_net s p)
  · rw [hph, sendEack_walkOf, setPhase_walkOf, answerTaken_walkOf, hw]
    rfl

end

theorem walkReply_asked {u : State} {cn req table lvl : Nat} {who : WalkFor} {w : Walk} (bs : List Byte) (hw : u.walkOf cn who = some w)
    (hp : w.phase = .asked table lvl req) : walkReply u cn who req (.data bs) = u.setPhase cn who (.got table lvl (leNat bs)) := by
  rw [State.walkOf] at hw
  simp only [walkReply, hw, hp, beq_self_eq_true, if_true]

theorem walkReply_marking {u : State} {cn req pa lvl e : Nat} {who : WalkFor} {w : Walk} (x : Word) (hw : u.walkOf cn who = some w)
    (hp : w.phase = .marking pa lvl e req) : walkReply u cn who req (.val x) = u.setPhase cn who (.marked pa lvl e x.toNat) := by
  rw [State.walkOf] at hw
  simp only [walkReply, hw, hp, beq_self_eq_true, if_true]

theorem walkReply_fault {u : State} {cn req pa lvl : Nat} {who : WalkFor} {w : Walk} (c : Cause) (v : Word) (hw : u.walkOf cn who = some w)
    (hp : w.phase = .asked pa lvl req ∨ ∃ e, w.phase = .marking pa lvl e req) :
    walkReply u cn who req (.fault c v) = u.setPhase cn who (.failed c) := by
  rw [State.walkOf] at hw
  rcases hp with hp | ⟨e, hp⟩ <;> simp only [walkReply, hw, hp, beq_self_eq_true, if_true]

/-! ### Line fills (R34) -/

/-- A context's fill ended with a line in its cache. -/
theorem takeLine_cached (s : State) (cn : Nat) (hv : Bool) (l : Line) :
    ((takeLine s cn hv l).ctxOf cn hv).fill = none ∧ ((takeLine s cn hv l).ctxOf cn hv).line l.addr = some l := by
  simp [takeLine, Ctx.line]

theorem takeLine_sameMemory (s : State) (cn : Nat) (hv : Bool) (l : Line) : SameMemory s (takeLine s cn hv l) :=
  modCtxOf_sameMemory s cn hv _

section

variable {u : State} {cn req : Nat} {hv : Bool} {f : Fill} (hf : (u.ctxOf cn hv).fill = some f) (hask : f.asked = some req)

include hf hask

theorem fillReply_first (bs : List Byte) (hgot : f.got = []) : fillReply u cn hv req (.data bs) =
    u.modCtxOf cn hv (fun c => { c with fill := some { f with asked := none, got := bs } }) := by
  simp only [fillReply, hf, hask, hgot, beq_self_eq_true, if_true, List.isEmpty_nil]

theorem fillReply_last (bs : List Byte) (hgot : f.got ≠ []) : fillReply u cn hv req (.data bs) =
    takeLine u cn hv (lineFrom f.addr (f.got ++ bs)) := by
  simp only [fillReply, hf, hask, beq_self_eq_true, if_true, List.isEmpty_eq_false_iff.2 hgot, Bool.false_eq_true, if_false]

theorem fillReply_fault (c : Cause) (v : Word) : fillReply u cn hv req (.fault c v) =
    takeLine u cn hv { addr := f.addr, state := .ecc, words := [] } := by
  simp only [fillReply, hf, hask, beq_self_eq_true, if_true]

end

section

variable {s : State} {cn : Nat} {hv : Bool} {f : Fill} (hf : (s.ctxOf cn hv).fill = some f)

include hf

theorem exec_lineFill_own (ho : ownFetch s cn hv f.addr = true) : exec (.lineFill cn hv) s =
    .next (takeLine s cn hv (lineFrom f.addr (cellRead (s.svcMem cn) f.addr.toNat 128))) := by
  have hexec : exec (.lineFill cn hv) s = execLineFill cn hv s := rfl
  simp only [hexec, execLineFill, hf, ho, if_true]

/-- A fill asks for the next half of its line with one request to the port of its die (R34, R234). -/
theorem exec_lineFill_asks {e : TlbEntry} (ho : ownFetch s cn hv f.addr = false) (hask : f.asked = none)
    (hl : lookup s cn (s.ctxOf cn hv).launch f.addr .x = .hit e)
    (hs : canSend s cn (dieCore (e.loc (f.addr + BitVec.ofNat 64 f.got.length)).pa) 1 = true) :
    let g := e.loc (f.addr + BitVec.ofNat 64 f.got.length)
    ∃ t p, exec (.lineFill cn hv) s = .next t ∧ SameMemory s t ∧ t.net = s.net ++ [p] ∧ p.who = .fill hv ∧ p.src = cn
      ∧ p.dst = dieCore g.pa ∧ p.body = .line g (s.ctxOf cn hv).born ∧ (t.ctxOf cn hv).fill = some { f with asked := some p.id } := by
  intro g
  have hexec : exec (.lineFill cn hv) s = execLineFill cn hv s := rfl
  simp only [hexec, execLineFill, hf, ho, hask, hl, hs, Bool.false_eq_true, if_false, Option.isSome_none, if_true]
  refine ⟨_, _, rfl, ?_, rfl, rfl, rfl, rfl, rfl, ?_⟩
  · exact (send_keepsContexts s _).sameMemory.trans (modCtxOf_sameMemory _ _ _ _)
  · rw [State.modCtxOf_ctxOf_same]
    rfl

end

/-! ### The walker's move in each phase -/

/-- A move of a slice's walker for a context. -/
theorem exec_tlbWalk_ctx {s : State} {cn : Nat} {hv : Bool} {w : Walk}
    (h : ((s.slice (sliceOf cn)).walks.take 4).find? (fun w => w.core == cn && w.who == .ctx hv) = some w) :
    exec (.tlbWalk cn (.ctx hv)) s = .next (walkMove s w (s.ctxOf cn hv).launch) := by
  have hexec : exec (.tlbWalk cn (.ctx hv)) s = execTlbWalk cn (.ctx hv) s := rfl
  rw [hexec, execTlbWalk, h]
  rfl

/-- What a move of a walk in phase `got` comes to, by what the entry means (R58). -/
theorem walkMove_got_table {s : State} {w : Walk} {launch table lvl e t : Nat} (hp : w.phase = .got table lvl e)
    (h : entryStep w.req.kind (w.req.va.toNat.testBit 47) lvl e = .table t) : walkMove s w launch = askEntry s w launch t (lvl - 1) := by
  simp only [walkMove, hp, h]

theorem walkMove_got_fault {s : State} {w : Walk} {launch table lvl e : Nat} {c : Cause} (hp : w.phase = .got table lvl e)
    (h : entryStep w.req.kind (w.req.va.toNat.testBit 47) lvl e = .fault c) : walkMove s w launch = endWalk s w (.fault c) := by
  simp only [walkMove, hp, h]

theorem walkMove_got_leaf {s : State} {w : Walk} {launch table lvl e : Nat} (hp : w.phase = .got table lvl e)
    (h : entryStep w.req.kind (w.req.va.toNat.testBit 47) lvl e = .leaf) : walkMove s w launch =
      let pte := table + ptIndex (w.req.va.toNat % 2 ^ 48) lvl * 8
      if markedFor w.req.kind e then endWalk s w (.leaf (leafEntry (w.req.va.toNat % 2 ^ 48) lvl (rootOf s launch w.req.va).2 pte e))
      else askMark s w launch pte lvl e := by
  simp only [walkMove, hp, h]

/-- Settles O29: a walker's move is one request, the end of its walk at a leaf, or a fault; an answer moves its walk or its fill on. -/
theorem walkFillAndMigration : Obligations.WalkFillAndMigration := by
  unfold Obligations.WalkFillAndMigration
  refine ⟨fun s cn hv w hfind => ?walk, fun e he => leafKey_bits he, fun s k p pa x e kind hs hb hx => ?mark,
    fun s k p who w hgot htrim hdone hwho hw => ?reply, fun s cn hv f hf => ?fill, fun s cn hv home dest k hmove htask htags hheld hdest => ?migrate⟩
  case walk =>
    intro run mine va upper root pte Asks Fills Faults Marks Leaf
    have hwalk := walkOf_of_take hfind
    have hrun : run = _ := exec_tlbWalk_ctx hfind
    obtain ⟨hcore, hwho⟩ := walkOf_core_who hwalk
    have hself : s.walkOf w.core w.who = some w := by rw [hcore, hwho]; exact hwalk
    have asks {table lvl : Nat} (h : walkMove s w (s.ctxOf cn hv).launch = askEntry s w (s.ctxOf cn hv).launch table lvl) : Asks table lvl := by
      intro hsend
      obtain ⟨p, hp⟩ := askEntry_asks hself (launch := (s.ctxOf cn hv).launch) (by rw [hcore]; exact hsend)
      rw [hcore, hwho] at hp
      exact ⟨_, p, hrun.trans (congrArg _ h), hp.net, hp.sender, hp.src, hp.dst, hp.body, hp.memory, hp.phase⟩
    have marks {pa lvl e : Nat} (h : walkMove s w (s.ctxOf cn hv).launch = askMark s w (s.ctxOf cn hv).launch pa lvl e) : Marks pa lvl e := by
      intro hsend
      obtain ⟨p, hp⟩ := askMark_asks hself (launch := (s.ctxOf cn hv).launch) (lvl := lvl) (e := e) (by rw [hcore]; exact hsend)
      rw [hcore, hwho] at hp
      exact ⟨_, p, hrun.trans (congrArg _ h), hp.net, hp.sender, hp.src, hp.dst, by rw [hp.body]; rfl, hp.body, hp.memory, hp.phase⟩
    have leaf {pa lvl x : Nat} (h : walkMove s w (s.ctxOf cn hv).launch = endWalk s w (.leaf (leafEntry va lvl root.2 pa x))) : Leaf pa lvl x := by
      have hend := endWalk_leaf (s := s) hcore hwho (leafEntry va lvl root.2 pa x)
      exact ⟨_, hrun.trans (congrArg _ h), hend.memory, hend.walk, hend.itlb, hend.dtlb, hend.tlb⟩
    have faults {c : Cause} (h : walkMove s w (s.ctxOf cn hv).launch = endWalk s w (.fault c)) : Faults c := by
      intro hpref
      rw [endWalk_fault hwho hpref, hcore] at h
      exact hrun.trans (congrArg _ h)
    refine ⟨fun table lvl hp => asks (by simp only [walkMove, hp]), fun hp hm => asks (by simp only [walkMove, hp, hm]; rfl),
      fun e hp hm => marks (by simp only [walkMove, hp, hm]), fun pa lvl e hp => marks (by simp only [walkMove, hp]),
      fun pa lvl e x hp => ?marked, fun c hp => faults (by simp only [walkMove, hp]), fun table lvl e hp => ?got⟩
    case marked =>
      have hmove : walkMove s w (s.ctxOf cn hv).launch = endWalk s w (markResult va lvl root.2 pa e x) := by simp only [walkMove, hp]; rfl
      exact ⟨fun hv hk => leaf (by rw [hmove, markResult_same hv hk]), fun hv hk => faults (by rw [hmove, markResult_other hv hk]),
        fun hv hn => faults (by rw [hmove, markResult_gone hv hn])⟩
    case got =>
      refine ⟨fun t ht => asks (walkMove_got_table hp ht), fun c hc => faults (walkMove_got_fault hp hc), fun hl => ?_⟩
      have hmove := walkMove_got_leaf (s := s) (launch := (s.ctxOf cn hv).launch) hp hl
      exact ⟨fun hm => leaf (hmove.trans (if_pos ((markedFor_iff _ _).2 hm))),
        fun hm => marks (hmove.trans (if_neg fun h => hm ((markedFor_iff _ _).1 h)))⟩
  case mark =>
    intro y same
    have hp : p.body.gloc.isSome := by rw [hb]; rfl
    have hdie := hx.dieMark_eq p kind e
    have hy : marked kind x = y := by simp only [marked, y, beq_iff_eq]
    refine ⟨fun hsame => ?_, fun hother => ?_⟩
    · obtain ⟨t, ht, hst⟩ := hx.markEntry_same kind ((sameLeaf_iff e x).2 hsame)
      rw [ht, hy] at hdie
      rw [hy] at hst
      obtain ⟨u, hu, hans, hkeep⟩ := (hs.mark hb).answers hp hdie
      exact ⟨u, hu, hans, hst.sameMemory hkeep.sameMemory⟩
    · rw [hx.markEntry_other kind (Bool.eq_false_iff.2 fun h => hother ((sameLeaf_iff e x).1 h))] at hdie
      exact (hs.mark hb).reads hp hdie
  case reply =>
    intro Phase
    have htaken : (answerTaken s p).walkOf p.dst who = some w := (answerTaken_walkOf s p p.dst who).trans hw
    exact ⟨fun table lvl bs hp hb => exec_rply_phase hgot htrim hdone hb hwho hw (walkReply_asked bs htaken hp),
      fun pa lvl e x hp hb => exec_rply_phase hgot htrim hdone hb hwho hw (walkReply_marking x htaken hp),
      fun pa lvl c v hp hb => exec_rply_phase hgot htrim hdone hb hwho hw (walkReply_fault c v htaken hp)⟩
  case fill =>
    intro Cached
    have cached (u : State) (bs : List Byte) (h : SameMemory s u) : Cached (takeLine u cn hv (lineFrom f.addr bs)) bs := by
      obtain ⟨hfill, hline⟩ := takeLine_cached u cn hv (lineFrom f.addr bs)
      exact ⟨h.trans (takeLine_sameMemory u cn hv _), hfill, hline⟩
    refine ⟨fun ho => ⟨_, exec_lineFill_own hf ho, cached s _ (.refl s)⟩, fun e ho hask hl => exec_lineFill_asks hf ho hask hl,
      fun k p hgot htrim hdone hdst hwho hask => ?_⟩
    subst hdst
    have hkeep := answerTaken_keepsContexts s p
    have hfill : ((answerTaken s p).ctxOf p.dst hv).fill = some f := by rw [hkeep.ctxOf]; exact hf
    refine ⟨fun bs hb hempty => ?first, fun bs hb hsome => ?last, fun c v hb => ?fault⟩
    all_goals have hexec := exec_rply_fill hgot htrim hdone hb hwho
    case first =>
      rw [fillReply_first hfill hask bs hempty] at hexec
      have hack := sendEack_keepsContexts
        ((answerTaken s p).modCtxOf p.dst hv (fun c => { c with fill := some { f with asked := none, got := bs } })) p
      refine ⟨_, hexec, hkeep.sameMemory.trans ((modCtxOf_sameMemory _ _ _ _).trans hack.sameMemory), ?_⟩
      rw [hack.ctxOf, State.modCtxOf_ctxOf_same]
    case last =>
      rw [fillReply_last hfill hask bs hsome] at hexec
      have hack := sendEack_keepsContexts (takeLine (answerTaken s p) p.dst hv (lineFrom f.addr (f.got ++ bs))) p
      obtain ⟨hmem, hnone, hline⟩ := cached (answerTaken s p) (f.got ++ bs) hkeep.sameMemory
      exact ⟨_, hexec, hmem.trans hack.sameMemory, by rw [hack.ctxOf]; exact hnone, by rw [hack.ctxOf]; exact hline⟩
    case fault =>
      rw [fillReply_fault hfill hask c v] at hexec
      have hack := sendEack_keepsContexts (takeLine (answerTaken s p) p.dst hv { addr := f.addr, state := .ecc, words := [] }) p
      refine ⟨_, hexec, ?_⟩
      rw [hack.ctxOf, (takeLine_cached _ _ _ _).2]
      rfl
  case migrate =>
    intro r
    refine ⟨rfl, rfl, rfl, ?_⟩
    have hout : (s.ctxOf cn hv).out.any (·.tag.isSome) = false :=
      List.any_eq_false.2 fun o ho => by rw [htags o ho]; exact Bool.false_ne_true
    have hexec : exec (.migration cn hv) s = execMigration cn hv s := rfl
    simp only [hexec, execMigration, hmove, htask, hout, hheld, hdest, List.isEmpty_nil, Bool.not_true, Bool.or_self, Bool.false_eq_true,
      if_false]
    rfl

end Sys2Proof.Machine

section

/-! SUPPORT. The proofs of this sitting are elaborated one after another: run side by side with the proofs before them, they would hold more
memory at once than a compile of the whole text may take. -/

set_option Elab.async false

/-! SUPPORT. The issue of a split-phase request (spec/03, R66; spec/04, R89; spec/12, R241, R242): what it needs, the request and the
outstanding access that it leaves, and what stays as it was. -/

namespace Sys2Proof.Machine

open Sys2Proof

/-- A state in which a request of the issuing context is sent just as in another: same context, tags, fabric and memory. -/
structure SameIssue (s t : State) : Prop where
  cur : t.cur = s.cur
  owner : (t.core s.cur.core).owner = s.me.owner
  harv : (t.core s.cur.core).harv = s.me.harv
  fab : (t.core s.cur.core).fab = s.me.fab
  tiles : (t.core s.cur.core).tiles = s.me.tiles
  loan : (t.core s.cur.core).loan = s.me.loan
  loaves : t.loaves = s.loaves
  net : t.net = s.net
  memory : SameMemory s t

namespace SameIssue

variable {s t : State} (h : SameIssue s t)

theorem refl (s : State) : SameIssue s s := ⟨rfl, rfl, rfl, rfl, rfl, rfl, rfl, rfl, .refl s⟩

theorem addTlb (s : State) (x : Bool) (e : TlbEntry) : SameIssue s (s.modMe (fun c => c.addTlb x e)) where
  cur := rfl
  owner := by cases x <;> simp [State.modMe, State.me, Core.addTlb]
  harv := by cases x <;> simp [State.modMe, State.me, Core.addTlb]
  fab := by cases x <;> simp [State.modMe, State.me, Core.addTlb]
  tiles := by cases x <;> simp [State.modMe, State.me, Core.addTlb]
  loan := by cases x <;> simp [State.modMe, State.me, Core.addTlb]
  loaves := rfl
  net := rfl
  memory := KeepsContexts.sameMemory (by cases x <;> exact .modCore s _ _ rfl rfl rfl)

include h

theorem me : t.me = t.core s.cur.core := by rw [State.me, h.cur]

theorem ctx : t.ctx = s.ctx := by
  simp only [State.ctx, State.ctxOf, Core.ctx, h.cur, h.owner, h.harv, State.me]

theorem myLaunch : t.myLaunch = s.myLaunch := by rw [State.myLaunch, State.myLaunch, h.ctx]

theorem present_iff (d : SReg) : Present t d ↔ Present s d := by rw [Present, Present, h.ctx]

theorem row (v : VReg) : t.me.row v = s.me.row v := by
  simp only [h.me, Core.row, h.tiles]

theorem rowBarred (v : VReg) : rowBarred t v = Machine.rowBarred s v := by
  simp only [Machine.rowBarred, h.cur, h.me, h.loan]

theorem canSend (dst : Nat) : canSend t t.cur.core dst 1 = Machine.canSend s s.cur.core dst 1 := by
  simp only [Machine.canSend, canSpare, needsE, modeEOf, State.loaf, h.loaves, h.cur, h.fab, State.me]

theorem sendReady {peer : Bool} {dst : Nat} (hs : SendReady s peer dst) : SendReady t peer dst := by
  obtain ⟨⟨n, htag⟩, hroom⟩ := hs
  refine ⟨⟨n, ?_⟩, (h.canSend dst).trans hroom⟩
  simpa only [takeTag, h.me, h.owner, h.harv, h.cur, h.ctx] using htag

theorem datRoom {dst : Nat} (hs : DatRoom s dst) : DatRoom t dst := by
  simpa only [DatRoom, datOpen, h.cur, h.fab, State.me] using hs

theorem readable {r : SReg} (hr : Readable s r) : Readable t r := by
  simpa only [Readable, Present, NoBarAt, h.ctx] using hr

theorem val (r : SReg) : t.val r = s.val r := by rw [State.val, State.val, h.ctx]

theorem loadReady (hr : LoadReady s) : LoadReady t := by simpa only [LoadReady, h.ctx] using hr

theorem storeReady (hr : StoreReady s) : StoreReady t := by
  simpa only [StoreReady, LoadReady, h.ctx] using hr

end SameIssue

theorem orderOk_of_loadReady {s : State} (h : LoadReady s) : orderOk s false = .ok () := orderOk_load h

theorem orderOk_of_storeReady {s : State} (h : StoreReady s) : orderOk s true = .ok () := by
  obtain ⟨hacq, hload, hrels⟩ := h
  exact orderOk_store hacq hload hrels

/-- A request is on its way and its access is outstanding; the instruction has not yet moved on. `s` is the state before the
instruction. -/
structure Issued (s u : State) (a : Access) (p : Packet) (o : Out) : Prop where
  net : u.net = s.net ++ [p]
  src : p.src = s.cur.core
  dst : p.dst = a.dst
  vn : p.vn = 1
  launch : p.launch = s.myLaunch
  who : p.who = .ctx s.cur.hv
  rel : p.rel = a.rel
  trim : p.trim = false
  body : p.body = a.body
  ctx : u.ctx = { s.ctx with out := s.ctx.out ++ [o] }
  id : o.id = p.id
  dest : o.dest = a.dest
  tag : ∃ n, o.tag = some (a.peer, n)
  acq : o.acq = a.acq
  epc : o.epc = s.ctx.pc
  addr : o.addr = a.addr
  handler : o.handler = s.ctx.inh
  tiles : u.me.tiles = s.me.tiles
  memory : SameMemory s u

theorem SameMemory.modCtx {s t : State} (h : SameMemory s t) (f : Ctx → Ctx) : SameMemory s (t.modCtx f) :=
  h.trans (modCtxOf_sameMemory t _ _ f)

/-- An instruction that ends leaves memory as its effect has left it. -/
theorem SameMemory.advance_ran {s t : State} (h : SameMemory s t) (len : Nat) : SameMemory s (t.advance len).ran :=
  (h.modCtx _).modCtx _

theorem send_tiles (s : State) (l : Letter) (cn : Nat) : ((send s l).1.core cn).tiles = (s.core cn).tiles := by
  have key (u : State) (f : Fab) : ((u.modCore l.src (fun c => { c with fab := f })).core cn).tiles = (u.core cn).tiles := by
    rw [State.modCore_core]
    split
    · next h => rw [h]
    · rfl
  simp only [send]
  exact key _ _

/-- The request of an access that has taken tag `n`. -/
def Access.letter (a : Access) (s : State) (n : Nat) : Letter :=
  { who := .ctx s.cur.hv, src := s.cur.core, dst := a.dst, vn := 1, launch := s.myLaunch, ord := false, rel := a.rel, req := none,
    body := a.body, tag := BitVec.ofNat 8 ((if a.peer then 64 else 0) + n), mod_ := a.mod_ }

/-- What the issuing context keeps of an access that has taken tag `n` and whose request has number `id`. -/
def Access.outstanding (a : Access) (c : Ctx) (n id : Nat) : Out :=
  { id := id, tag := some (a.peer, n), dest := a.dest, load := a.load, store := a.store, acq := a.acq, home := a.home, epc := c.pc,
    addr := a.addr, handler := c.inh, serial := a.serial }

theorem issueAccess_eq {s : State} {a : Access} {n : Nat} (htag : takeTag s a.peer = .ok n)
    (hroom : canSend s s.cur.core a.dst 1 = true) (hd : isDat a.body = true → DatRoom s a.dst) :
    issueAccess s a =
      .ok ((send s (a.letter s n)).1.modCtx (fun c => { c with out := c.out ++ [a.outstanding c n s.ids] })) := by
  have hwait : (canSend s s.cur.core a.dst 1 && (!isDat a.body || datOpen s s.cur.core a.dst < 16)) = true := by
    cases hb : isDat a.body with
    | false => simp [hroom]
    | true =>
      have hopen : datOpen s s.cur.core a.dst < 16 := hd hb
      simp [hroom, hopen]
  simp only [issueAccess, htag, bind_ok, hwait, waitFor_true]
  rfl

/-- The packet of a letter. -/
theorem send_packet (s : State) (l : Letter) : ∃ p : Packet, (send s l).1.net = s.net ++ [p] ∧ p.id = s.ids ∧ p.who = l.who
    ∧ p.src = l.src ∧ p.dst = l.dst ∧ p.vn = l.vn ∧ p.launch = l.launch ∧ p.body = l.body ∧ p.rel = l.rel ∧ p.trim = false :=
  ⟨_, rfl, rfl, rfl, rfl, rfl, rfl, rfl, rfl, rfl, rfl⟩

/-- With a tag and room for the request, the access is issued (R66, R89, R241, R242). -/
theorem issueAccess_ok {s : State} {a : Access} (h : SendReady s a.peer a.dst) (hd : isDat a.body = true → DatRoom s a.dst) :
    ∃ u p o, issueAccess s a = .ok u ∧ Issued s u a p o := by
  obtain ⟨⟨n, htag⟩, hroom⟩ := h
  obtain ⟨p, hnet, hid, hwho, hsrc, hdst, hvn, hlaunch, hbody, hrel, htrim⟩ := send_packet s (a.letter s n)
  refine ⟨_, p, a.outstanding s.ctx n s.ids, issueAccess_eq htag hroom hd, ?_⟩
  exact
    { net := hnet, src := hsrc, dst := hdst, vn := hvn, launch := hlaunch, who := hwho, rel := hrel, trim := htrim, body := hbody
      ctx := by rw [State.modCtx_ctx, send_ctx]
      id := hid.symm
      dest := rfl, tag := ⟨n, rfl⟩, acq := rfl, epc := rfl, addr := rfl, handler := rfl
      tiles := by
        rw [State.modCtx_eq_modMe, State.modMe_me, Core.setCtx_tiles]
        exact send_tiles s _ _
      memory := (send_keepsContexts s _).sameMemory.trans (modCtxOf_sameMemory _ _ _ _) }

namespace Issued

variable {s u : State} {a : Access} {p : Packet} {o : Out}

theorem of_sameIssue {r : State} (hr : SameIssue r s) (h : Issued s u a p o) : Issued r u a p o where
  net := hr.net ▸ h.net
  src := hr.cur ▸ h.src
  dst := h.dst
  vn := h.vn
  launch := h.launch.trans hr.myLaunch
  who := hr.cur ▸ h.who
  rel := h.rel
  trim := h.trim
  body := h.body
  ctx := hr.ctx ▸ h.ctx
  id := h.id
  dest := h.dest
  tag := h.tag
  acq := h.acq
  epc := hr.ctx ▸ h.epc
  addr := h.addr
  handler := hr.ctx ▸ h.handler
  tiles := h.tiles.trans (hr.me ▸ hr.tiles)
  memory := hr.memory.trans h.memory

variable (h : Issued s u a p o) (len : Nat)

include h

theorem nextPc : u.ctx.nextPc len = s.ctx.nextPc len := by rw [h.ctx]; rfl

/-- What a state says of the request, once its instruction has moved on. -/
theorem sent_of {t : State} (hnet : t.net = u.net) (hout : t.ctx.out = u.ctx.out) (hmem : SameMemory u t)
    (hpc : (t.ctx.pc, t.ctx.closedFrom) = u.ctx.nextPc len) : Sent s t a.dst a.body a.peer a.dest a.addr a.acq a.rel len :=
  ⟨p, o, hnet.trans h.net, h.src, h.dst, h.vn, h.launch, h.who, h.rel, h.trim, h.body, by rw [hout, h.ctx], h.id, h.dest, h.tag, h.acq,
    h.epc, h.addr, h.handler, hpc.trans (h.nextPc len), h.memory.trans hmem⟩

/-- A request without a result: the instruction only moves on. -/
theorem sent_advance : Sent s (u.advance len).ran a.dst a.body a.peer a.dest a.addr a.acq a.rel len
    ∧ SameRegs s (u.advance len).ran := by
  exact ⟨h.sent_of len rfl (by simp) ((SameMemory.refl u).advance_ran len) (by simp), fun r => by simp [h.ctx]⟩

/-- A request with a result in a register, which is then non-present. -/
theorem sentFor_clearReg (d : SReg) :
    SentFor s ((u.clearReg d).advance len).ran d a.dst a.body a.peer a.dest a.addr a.acq a.rel len := by
  refine ⟨h.sent_of len rfl (by simp) (((SameMemory.refl u).modCtx _).advance_ran len) ?_, ?_, fun r hr => ?_⟩
  · simp only [State.ran_ctx, State.advance_ctx, State.clearReg_ctx]
    rfl
  · simp only [Present, State.ran_ctx, State.advance_ctx, State.clearReg_ctx, Ctx.clearReg_at]
    exact Bool.false_ne_true
  · simp only [State.ran_ctx, State.advance_ctx, State.clearReg_ctx, Ctx.clearReg_other _ _ _ hr, h.ctx]

end Issued

end Sys2Proof.Machine

/-! SUPPORT. Peer memory (spec/04, R92, R93): a peer address that passes its checks, and what ldp, stp, stp.n and amol send to its door. -/

namespace Sys2Proof.Machine

open Sys2Proof

/-! ### Peer addresses -/

theorem peerCore_ofNat {sum : Nat} (h : sum < 2147483648) : peerCore (BitVec.ofNat 64 sum) = sum / 65536 := by
  have hsum : sum % 2 ^ 64 = sum := Nat.mod_eq_of_lt (by omega)
  rw [peerCore, bitsOf, BitVec.toNat_ofNat, hsum]
  omega

theorem peerOff_ofNat {sum : Nat} (h : sum < 2147483648) : peerOff (BitVec.ofNat 64 sum) = sum % 65536 := by
  have hsum : sum % 2 ^ 64 = sum := Nat.mod_eq_of_lt (by omega)
  rw [peerOff, bitsOf, BitVec.toNat_ofNat, hsum]
  omega

/-- The address of aligned bytes of a core of the launch passes R92's checks, and names that core and its offset. -/
theorem PeerPlace.names {s : State} {sum n : Nat} (h : PeerPlace s sum n) :
    peerAligned s (sum : Int) n = .ok (BitVec.ofNat 64 sum) ∧ peerCore (BitVec.ofNat 64 sum) = sum / 65536
      ∧ peerOff (BitVec.ofNat 64 sum) = sum % 65536 := by
  obtain ⟨hlt, hplaced, halign⟩ := h
  refine ⟨?_, peerCore_ofNat hlt, peerOff_ofNat hlt⟩
  have hsum : sum % 2 ^ 64 = sum := Nat.mod_eq_of_lt (by omega)
  have hok : peerOk s s.myLaunch (BitVec.ofNat 64 sum) = true := by
    rw [peerOk, peerCore_ofNat hlt, hplaced, BitVec.toNat_ofNat, hsum, Bool.and_true, decide_eq_true_eq]
    omega
  have hrange : (decide (0 ≤ (sum : Int)) && decide ((sum : Int) < 2147483648)) = true := by
    rw [Bool.and_eq_true, decide_eq_true_eq, decide_eq_true_eq]
    omega
  rw [peerAligned, peerAddr]
  simp only [BitVec.ofInt_natCast, hrange, hok, Bool.and_true, need_true, bind_ok, peerOff_ofNat hlt, halign, beq_self_eq_true]

/-! ### What the peer instructions send -/

section

variable {s : State} {d a : SReg} {y : Except Stop Word} {w pa : Word} (ha : Readable s a) (hy : y = .ok w)
  (hs : SendReady s true (peerCore pa))

include ha hy hs

theorem peerLoad_sends {z : LoadSize} (len : Nat) (hd : Present s d) (ho : LoadReady s)
    (hp : peerAligned s ((s.val a).toNat + w.toNat) (szBytes z) = .ok pa) :
    ∃ t, finish s (peerLoad d a y z len s) = .next t
      ∧ SentFor s t d (peerCore pa) (.drd (peerOff pa) (szBytes z)) true (.reg d z) pa false false len := by
  obtain ⟨u, p, o, hu, hi⟩ := issueAccess_ok
    (a := doorAccess pa (.reg d z) true false false false (.drd (peerOff pa) (szBytes z))) hs nofun
  refine ⟨((u.clearReg d).advance len).ran, ?_, hi.sentFor_clearReg len d⟩
  rw [peerLoad, readReg_ok ha, bind_ok, hy, bind_ok]
  dsimp only
  rw [hp, bind_ok, destFree_ok hd, bind_ok, orderOk_of_loadReady ho, bind_ok, hu, bind_ok,
    finish_ok]

theorem peerStore_sends {z : StoreSize} (len : Nat) (hd : Readable s d) (ho : StoreReady s)
    (hp : peerAligned s ((s.val a).toNat + w.toNat) (stBytes z) = .ok pa) :
    ∃ t, finish s (peerStore d a y z len s) = .next t ∧ SameRegs s t
      ∧ Sent s t (peerCore pa) (.dwr (peerOff pa) (natLe (stBytes z) (s.val d).toNat)) true .none pa false false len := by
  obtain ⟨u, p, o, hu, hi⟩ := issueAccess_ok
    (a := doorAccess pa .none false true false false (.dwr (peerOff pa) (natLe (stBytes z) (s.val d).toNat))) hs nofun
  obtain ⟨hsent, hregs⟩ := hi.sent_advance len
  refine ⟨(u.advance len).ran, ?_, hregs, hsent⟩
  rw [peerStore, readReg_ok ha, bind_ok, hy, bind_ok]
  dsimp only
  rw [hp, bind_ok, readReg_ok hd, bind_ok, orderOk_of_storeReady ho, bind_ok, hu, bind_ok,
    finish_ok]

theorem peerNibble_sends (k : Bool) (len : Nat) (hd : Readable s d) (ho : StoreReady s)
    (hp : peerAligned s ((s.val a).toNat + w.toNat) 1 = .ok pa) :
    ∃ t, finish s (peerNibble d a y k len s) = .next t ∧ SameRegs s t
      ∧ Sent s t (peerCore pa) (.nibble (peerOff pa) k ((s.val d).setWidth 4)) true .none pa false false len := by
  obtain ⟨u, p, o, hu, hi⟩ := issueAccess_ok
    (a := doorAccess pa .none true true false false (.nibble (peerOff pa) k ((s.val d).setWidth 4))) hs nofun
  obtain ⟨hsent, hregs⟩ := hi.sent_advance len
  refine ⟨(u.advance len).ran, ?_, hregs, hsent⟩
  rw [peerNibble, readReg_ok ha, bind_ok, hy, bind_ok, hp, bind_ok, readReg_ok hd, bind_ok, orderOk_of_storeReady ho, bind_ok, hu, bind_ok,
    finish_ok]

end

/-! ### Atomics -/

theorem ordAcq_eq (r : AtomOrd) : ordAcq r = atomAcq r := by cases r <;> rfl

theorem ordRel_eq (r : AtomOrd) : ordRel r = atomRel r := by cases r <;> rfl

/-- An atomic reads its operand, and for cas its destination as the compare value (R77). -/
theorem atomOperands_ok {s : State} {o : AtomOp} {d : SReg} {v : Word} (hd : o = .cas → Readable s d) :
    atomOperands s o d (.ok v) = .ok (v, if o = .cas then s.val d else 0) := by
  by_cases ho : o = .cas
  · simp [atomOperands, ho, readReg_ok (hd ho)]
  · simp [atomOperands, ho]

/-- The operand of the register form, which the load form does not read (R77). -/
theorem atomOperand_ok {s : State} {o : AtomOp} {b : SReg} (hb : o ≠ .ld → Readable s b) :
    (if o == .ld then .ok 0 else readReg s b) = (.ok (if o = .ld then 0 else s.val b) : Except Stop Word) := by
  by_cases ho : o = .ld
  · simp [ho]
  · simp [ho, readReg_ok (hb ho)]

theorem peerAtom_sends {s : State} {d a : SReg} {y : Except Stop Word} {v pa : Word} (o : AtomOp) (dbl : Bool) (r : AtomOrd)
    (len : Nat) (hy : y = .ok v) (ha : Readable s a) (hd : Present s d) (hc : o = .cas → Readable s d) (ho : StoreReady s)
    (hs : SendReady s true (peerCore pa)) (hr : DatRoom s (peerCore pa))
    (hp : peerAligned s (s.val a).toNat (atomBytes dbl) = .ok pa) :
    ∃ t, finish s (peerAtom o dbl r d a y len s) = .next t
      ∧ SentFor s t d (peerCore pa) (.dat (peerOff pa) (.atom o dbl v (if o = .cas then s.val d else 0))) true (.reg d .d)
          pa (atomAcq r) (atomRel r) len := by
  obtain ⟨u, p, q, hu, hi⟩ := issueAccess_ok
    (a := { doorAccess pa (.reg d .d) true true (ordAcq r) (ordRel r)
      (.dat (peerOff pa) (.atom o dbl v (if o = .cas then s.val d else 0))) with mod_ := atomMod o dbl r })
    hs (fun _ => hr)
  refine ⟨((u.clearReg d).advance len).ran, ?_, ordAcq_eq r ▸ ordRel_eq r ▸ hi.sentFor_clearReg len d⟩
  rw [peerAtom, readReg_ok ha, bind_ok, hp, bind_ok, hy, atomOperands_ok hc, bind_ok]
  dsimp only
  rw [destFree_ok hd, bind_ok, orderOk_of_storeReady ho,
    bind_ok, hu, bind_ok, finish_ok]

/-- Settles O8: the exact sum names core and offset, the checks pass, and the access is issued to that core's door. -/
theorem peerAccesses : Obligations.PeerAccesses := by
  unfold Obligations.PeerAccesses
  refine ⟨fun s d a b z x k l ha hb => ?_, fun s o dbl r d a b l ha hd hb hc ho => ?_⟩
  · intro Case
    have hcase (y : Except Stop Word) (w : Word) (len : Nat) (hy : y = .ok w) (ldp stp stpN : SReg → Instr)
        (hldp : ∀ d, exec (ldp d) s = finish s (peerLoad d a y z len s))
        (hstp : ∀ d, exec (stp d) s = finish s (peerStore d a y x len s))
        (hstpN : ∀ d, exec (stpN d) s = finish s (peerNibble d a y k len s)) : Case w len ldp stp stpN := by
      refine ⟨fun hd ho hs hp => ?_, fun hd ho hs hp => ?_, fun hd ho hs hp => ?_⟩ <;>
        obtain ⟨hpa, hcore, hoff⟩ := hp.names <;> rw [← hcore] at hs ⊢ <;> rw [← hoff]
      · rw [hldp]; exact peerLoad_sends ha hy hs len hd ho hpa
      · rw [hstp]; exact peerStore_sends ha hy hs len hd ho hpa
      · rw [hstpN]; exact peerNibble_sends ha hy hs k len hd ho hpa
    exact ⟨hcase (readReg s b) (s.val b) 1 (readReg_ok hb) (.ldp · a b z) (.stp · a b x) (.stpN · a b k) (fun _ => rfl) (fun _ => rfl) (fun _ => rfl),
      hcase (.ok l) l 3 rfl (.ldpLit · a z l) (.stpLit · a x l) (.stpNLit · a k l) (fun _ => rfl) (fun _ => rfl) (fun _ => rfl)⟩
  · intro sum c hs hr hp
    obtain ⟨hpa, hcore, hoff⟩ := hp.names
    rw [BitVec.ofNat_toNat, BitVec.setWidth_eq] at hpa hcore hoff
    rw [← hcore] at hs hr ⊢
    rw [← hoff]
    exact ⟨peerAtom_sends o dbl r 1 (atomOperand_ok hb) ha hd hc ho hs hr hpa, peerAtom_sends o dbl r 3 rfl ha hd hc ho hs hr hpa⟩

end Sys2Proof.Machine

/-! SUPPORT. Global memory (spec/03, R53, R58, R74 to R79): an address that passes its checks and is translated, and what the global
instructions send to its base die. -/

namespace Sys2Proof.Machine

open Sys2Proof

/-! ### Places -/

theorem canonRange_ok {sum : Int} {n : Nat} (h0 : 0 ≤ sum) (h1 : sum + n ≤ 18446744073709551616)
    (hva : isCanon (BitVec.ofInt 64 sum) = true) (hla : isCanon (BitVec.ofInt 64 sum + BitVec.ofNat 64 (n - 1)) = true)
    (hhalf : (BitVec.ofInt 64 sum).toNat.testBit 47 = (BitVec.ofInt 64 sum + BitVec.ofNat 64 (n - 1)).toNat.testBit 47) :
    canonRange sum n = true := by
  rw [canonRange, decide_eq_true h0, decide_eq_true h1, hva, hla, hhalf]
  simp

/-- A translation that hits leaves the entry in the first-level TLB (R58, R64). -/
theorem translate_hit {s : State} {va val : Word} {k : AccKind} {pref : Option Nat} {e : TlbEntry} (hva : isCanon va = true)
    (hmode : va.toNat.testBit 47 = true → s.ctx.mode = true) (hbusy : walkBusy s = false)
    (hhit : lookup s s.cur.core s.myLaunch va k = .hit e) :
    translate s va k val pref = .ok (s.modMe (fun c => c.addTlb (k == .x) e), e) := by
  have hprot : (va.toNat.testBit 47 && !s.ctx.mode) = false := by
    cases hb : va.toNat.testBit 47 with
    | false => rfl
    | true => simp [hmode hb]
  have hfree : (k != .x && walkBusy s) = false := by rw [hbusy, Bool.and_false]
  rw [translate, hva, hprot, hfree, hhit]
  rfl

/-- A global address that is ready is placed by its entry, in a state that sends as before (R74). -/
theorem globalPlace_ok {s : State} {sum : Int} {n : Nat} {k : AccKind} {e : TlbEntry} (h : GlobalReady s sum n k e) (hk : k ≠ .x) :
    ∃ r, globalPlace s sum n k = .ok (r, e.loc (BitVec.ofInt 64 sum), BitVec.ofInt 64 sum) ∧ SameIssue s r := by
  obtain ⟨h0, h1, halign, hva, hla, hhalf, hmode, hbusy, hhit, hmig⟩ := h
  have hx : (k == .x) = false := beq_false_of_ne hk
  refine ⟨s.modMe (fun c => c.addTlb false e), ?_, .addTlb s false e⟩
  rw [globalPlace, globalAddr]
  dsimp only
  rw [halign, canonRange_ok h0 h1 hva hla hhalf, beq_self_eq_true, need_true, bind_ok, need_true, bind_ok, bind_ok,
    translate_hit hva hmode hbusy hhit, bind_ok]
  dsimp only
  rw [hx, hmig]
  rfl

/-! ### Scalar loads and stores -/

section

variable {s r : State} {d a : SReg} {x : BitVec 13} {g : GLoc} {va : Word} (ha : Readable s a) (hr : SameIssue s r)
  (hs : SendReady s false (dieCore g.pa))

include ha hr hs

theorem execLdg_sends {z : LoadSize} (hd : Present s d) (ho : LoadReady s)
    (hp : globalPlace s (offSum (s.val a) x) (szBytes z) .rd = .ok (r, g, va)) :
    ∃ t, execLdg d a z x s = .next t
      ∧ SentFor s t d (dieCore g.pa) (.grd g (szBytes z) []) false (.reg d z) va false false 1 := by
  obtain ⟨u, p, o, hu, hi⟩ := issueAccess_ok
    (a := dieAccess g va (.reg d z) true false false false (.grd g (szBytes z) [])) (hr.sendReady hs) nofun
  refine ⟨((u.clearReg d).advance 1).ran, ?_, (hi.of_sameIssue hr).sentFor_clearReg 1 d⟩
  rw [execLdg, readReg_ok ha, bind_ok]
  dsimp only
  rw [hp, bind_ok]
  dsimp only
  rw [destFree_ok ((hr.present_iff d).mpr hd), bind_ok, orderOk_of_loadReady (hr.loadReady ho), bind_ok, hu, bind_ok, finish_ok]

theorem execStg_sends {z : StoreSize} (hd : Readable s d) (ho : StoreReady s)
    (hp : globalPlace s (offSum (s.val a) x) (stBytes z) .w = .ok (r, g, va)) :
    ∃ t, execStg d a z x s = .next t ∧ SameRegs s t
      ∧ Sent s t (dieCore g.pa) (.gwr g (natLe (stBytes z) (s.val d).toNat)) false .none va false false 1 := by
  obtain ⟨u, p, o, hu, hi⟩ := issueAccess_ok
    (a := dieAccess g va .none false true false false (.gwr g (natLe (stBytes z) (s.val d).toNat))) (hr.sendReady hs) nofun
  obtain ⟨hsent, hregs⟩ := (hi.of_sameIssue hr).sent_advance 1
  refine ⟨(u.advance 1).ran, ?_, hregs, hsent⟩
  rw [execStg, readReg_ok ha, bind_ok]
  dsimp only
  rw [hp, bind_ok]
  dsimp only
  rw [readReg_ok (hr.readable hd), bind_ok, orderOk_of_storeReady (hr.storeReady ho), bind_ok, hr.val, hu, bind_ok, finish_ok]

end

/-! ### Rows -/

/-- Every row but `v` is as before. -/
def SameRowsBut (s t : State) (v : VReg) : Prop := ∀ x : VReg, x ≠ v → t.me.row x = s.me.row x

theorem advance_ran_row (u : State) (len : Nat) (v : VReg) : (u.advance len).ran.me.row v = u.me.row v := by
  simp [State.ran, State.advance, State.modCtx_eq_modMe]

/-- A request with a result in a row, which is then non-present. -/
theorem Issued.sent_clearRow {s u : State} {a : Access} {p : Packet} {o : Out} (h : Issued s u a p o) (len : Nat) (v : VReg) :
    let t := ((u.clearRow v).advance len).ran
    Sent s t a.dst a.body a.peer a.dest a.addr a.acq a.rel len ∧ SameRegs s t ∧ ¬ RowPresent t v ∧ SameRowsBut s t v := by
  intro t
  have hclear : SameMemory u (u.clearRow v) := (KeepsContexts.modCore u _ _ rfl rfl rfl).sameMemory
  refine ⟨h.sent_of len rfl (by simp [t]) (hclear.advance_ran len) (by simp [t]), fun r => by simp [t, h.ctx], ?_, fun x hx => ?_⟩
  · rw [RowPresent, advance_ran_row, State.clearRow, State.modMe_me, Core.setRow_row]
    exact Bool.false_ne_true
  · rw [advance_ran_row, State.clearRow, State.modMe_me, Core.setRow_row_other _ _ _ _ hx, Core.row, Core.row, h.tiles]

theorem Issued.row_advance {s u : State} {a : Access} {p : Packet} {o : Out} (h : Issued s u a p o) (len : Nat) (x : VReg) :
    (u.advance len).ran.me.row x = s.me.row x := by
  rw [advance_ran_row, Core.row, Core.row, h.tiles]

theorem rowAllowed_ok {s : State} {v : VReg} (h : rowBarred s v = false) : rowAllowed s v = .ok () := by
  rw [rowAllowed, h]
  rfl

section

variable {s r : State} {v : VReg} {a : SReg} {g : GLoc} {va : Word} (add len : Nat) (ha : Readable s a) (hr : SameIssue s r)
  (hs : SendReady s false (dieCore g.pa)) (hv : RowPresent s v) (hb : rowBarred s v = false)

include hr hv

theorem SameIssue.rowPresent : RowPresent r v := (congrArg Row.present (hr.row v)).trans hv

theorem SameIssue.readRow : readRow r v = .ok (s.me.row v).bits := by rw [readRow_ok (hr.rowPresent hv), hr.row]

include ha hs hb

theorem globalLoadRow_sends (ho : LoadReady s)
    (hp : globalPlace s (((s.val a).toNat + add : Nat) : Int) 64 .rd = .ok (r, g, va)) :
    ∃ t, finish s (globalLoadRow v a add len s) = .next t
      ∧ Sent s t (dieCore g.pa) (.grd g 64 []) false (.row v) va false false len ∧ SameRegs s t ∧ ¬ RowPresent t v
      ∧ SameRowsBut s t v := by
  obtain ⟨u, p, o, hu, hi⟩ := issueAccess_ok
    (a := dieAccess g va (.row v) true false false false (.grd g 64 [])) (hr.sendReady hs) nofun
  refine ⟨((u.clearRow v).advance len).ran, ?_, (hi.of_sameIssue hr).sent_clearRow len v⟩
  rw [globalLoadRow, readReg_ok ha, bind_ok, hp, bind_ok]
  dsimp only
  rw [rowAllowed_ok ((hr.rowBarred v).trans hb), bind_ok, rowFree_ok (hr.rowPresent hv), bind_ok,
    orderOk_of_loadReady (hr.loadReady ho), bind_ok, hu, bind_ok, finish_ok]

theorem globalStoreRow_sends (ho : StoreReady s)
    (hp : globalPlace s (((s.val a).toNat + add : Nat) : Int) 64 .w = .ok (r, g, va)) :
    ∃ t, finish s (globalStoreRow v a add len s) = .next t
      ∧ Sent s t (dieCore g.pa) (.gwr g (rowBytes (s.me.row v).bits)) false .none va false false len ∧ SameRegs s t
      ∧ ∀ x, t.me.row x = s.me.row x := by
  obtain ⟨u, p, o, hu, hi⟩ := issueAccess_ok
    (a := dieAccess g va .none false true false false (.gwr g (rowBytes (s.me.row v).bits))) (hr.sendReady hs) nofun
  obtain ⟨hsent, hregs⟩ := (hi.of_sameIssue hr).sent_advance len
  refine ⟨(u.advance len).ran, ?_, hsent, hregs, (hi.of_sameIssue hr).row_advance len⟩
  rw [globalStoreRow, readReg_ok ha, bind_ok, hp, bind_ok]
  dsimp only
  rw [rowAllowed_ok ((hr.rowBarred v).trans hb), bind_ok, hr.readRow hv, bind_ok,
    orderOk_of_storeReady (hr.storeReady ho), bind_ok, hu, bind_ok, finish_ok]

theorem globalReduce_sends (ho : StoreReady s)
    (hp : globalPlace s (((s.val a).toNat + add : Nat) : Int) 64 .w = .ok (r, g, va)) :
    ∃ t, finish s (globalReduce v a add len s) = .next t
      ∧ Sent s t (dieCore g.pa) (.gred g s.me.tiles[v.val / 16].ty (s.me.row v).bits) false .none va false false len ∧ SameRegs s t
      ∧ ∀ x, t.me.row x = s.me.row x := by
  have hty : r.me.tiles[(rowIdx v).1].ty = s.me.tiles[v.val / 16].ty := by simp only [hr.me, hr.tiles]; rfl
  obtain ⟨u, p, o, hu, hi⟩ := issueAccess_ok
    (a := dieAccess g va .none true true false false (.gred g s.me.tiles[v.val / 16].ty (s.me.row v).bits)) (hr.sendReady hs) nofun
  obtain ⟨hsent, hregs⟩ := (hi.of_sameIssue hr).sent_advance len
  refine ⟨(u.advance len).ran, ?_, hsent, hregs, (hi.of_sameIssue hr).row_advance len⟩
  rw [globalReduce, readReg_ok ha, bind_ok, hp, bind_ok]
  dsimp only
  rw [rowAllowed_ok ((hr.rowBarred v).trans hb), bind_ok, hr.readRow hv, bind_ok,
    orderOk_of_storeReady (hr.storeReady ho), bind_ok]
  rw [hty, hu, bind_ok, finish_ok]

end

/-! ### Atomics -/

theorem globalAtom_sends {s r : State} {d a : SReg} {y : Except Stop Word} {v va : Word} {g : GLoc} (o : AtomOp) (dbl : Bool)
    (q : AtomOrd) (len : Nat) (hy : y = .ok v) (ha : Readable s a) (hr : SameIssue s r) (hd : Present s d)
    (hc : o = .cas → Readable s d) (ho : StoreReady s) (hs : SendReady s false (dieCore g.pa)) (hm : DatRoom s (dieCore g.pa))
    (hp : globalPlace s (s.val a).toNat (atomBytes dbl) (if o = .ld then .rd else .w) = .ok (r, g, va)) :
    ∃ t, finish s (globalAtom o dbl q d a y len s) = .next t
      ∧ SentFor s t d (dieCore g.pa) (.gat g o dbl v (if o = .cas then s.val d else 0)) false (.reg d .d) va (atomAcq q)
          (atomRel q) len := by
  have hkind : (if o == .ld then AccKind.rd else .w) = if o = .ld then AccKind.rd else .w := by simp
  obtain ⟨u, p, x, hu, hi⟩ := issueAccess_ok
    (a := { dieAccess g va (.reg d .d) true true (ordAcq q) (ordRel q)
      (.gat g o dbl v (if o = .cas then s.val d else 0)) with mod_ := atomMod o dbl q })
    (hr.sendReady hs) (fun _ => hr.datRoom hm)
  refine ⟨((u.clearReg d).advance len).ran, ?_, ordAcq_eq q ▸ ordRel_eq q ▸ (hi.of_sameIssue hr).sentFor_clearReg len d⟩
  rw [globalAtom, readReg_ok ha, bind_ok, hkind, hp, bind_ok, hy]
  dsimp only
  rw [atomOperands_ok hc, bind_ok]
  dsimp only
  rw [destFree_ok ((hr.present_iff d).mpr hd), bind_ok, orderOk_of_storeReady (hr.storeReady ho), bind_ok, hu, bind_ok, finish_ok]

/-! ### A row's bytes -/

theorem natLe_eq_map (n v : Nat) : natLe n v = (List.range n).map (fun i => BitVec.ofNat 8 (v / 2 ^ (8 * i))) := by
  induction n generalizing v with
  | zero => rfl
  | succ n ih =>
    rw [natLe, ih, List.range_succ_eq_map, List.map_cons, List.map_map]
    congr 1
    · rw [Nat.mul_zero, Nat.pow_zero, Nat.div_one]
    · refine List.map_congr_left fun i _ => congrArg (BitVec.ofNat 8) ?_
      rw [Nat.div_div_eq_div_mul, Nat.mul_succ, Nat.pow_add', Nat.pow_mul]

theorem rowBytes_eq_map (b : RowBits) : rowBytes b = (List.range 64).map (fun i => b.extractLsb' (8 * i) 8) := by
  rw [rowBytes, natLe_eq_map]
  refine List.map_congr_left fun i _ => BitVec.eq_of_toNat_eq ?_
  rw [BitVec.toNat_ofNat, BitVec.extractLsb'_toNat, Nat.shiftRight_eq_div_pow]

/-! ### Prefetch -/

theorem fillTlbs_keepsContexts (s : State) (cn : Nat) (x : Bool) (e : TlbEntry) : KeepsContexts s (fillTlbs s cn x e) := by
  have hcore : KeepsContexts s (s.modCore cn (fun c => c.addTlb x e)) := by cases x <;> exact .modCore s cn _ rfl rfl rfl
  exact hcore.trans (modSlice_keepsContexts _ _ _)

/-- An instruction that only moves on, after a change that leaves every context and every memory. -/
theorem KeepsContexts.movedOn {s t : State} (h : KeepsContexts s t) (len : Nat) :
    SameRegs s (t.advance len).ran ∧ SameMemory s (t.advance len).ran ∧ MovedOn s (t.advance len).ran len :=
  ⟨fun r => by simp [h.ctx], h.sameMemory.advance_ran len, by simp [MovedOn, h.ctx]⟩

section

variable {s : State} {a : SReg} {y : Except Stop Word} {w : Word} (len : Nat) (ha : Readable s a) (hy : y = .ok w)

include ha hy

/-- A prefetch beyond the address space does nothing (R79). -/
theorem prefetch_beyond (h : 18446744073709551616 ≤ (s.val a).toNat + w.toNat) : prefetch a y len s = .ok (s.advance len) := by
  have hsum : (18446744073709551616 : Int) ≤ ((s.val a).toNat : Int) + w.toNat := by exact_mod_cast h
  rw [prefetch, readReg_ok ha, bind_ok, hy, bind_ok]
  exact if_pos hsum

/-- A prefetch of an address that the TLBs translate fills them (R79). -/
theorem prefetch_hit {e : TlbEntry} (hlt : ¬ (18446744073709551616 : Int) ≤ ((s.val a).toNat : Int) + w.toNat)
    (hva : isCanon (BitVec.ofInt 64 (((s.val a).toNat : Int) + w.toNat)) = true)
    (hmode : (BitVec.ofInt 64 (((s.val a).toNat : Int) + w.toNat)).toNat.testBit 47 = true → s.ctx.mode = true)
    (hbusy : walkBusy s = false)
    (hhit : lookup s s.cur.core s.myLaunch (BitVec.ofInt 64 (((s.val a).toNat : Int) + w.toNat)) .rd = .hit e) :
    prefetch a y len s = .ok ((fillTlbs (s.modMe (fun c => c.addTlb false e)) s.cur.core false e).advance len) := by
  rw [prefetch, readReg_ok ha, bind_ok, hy, bind_ok]
  dsimp only
  rw [if_neg hlt, translate_hit hva hmode hbusy hhit]
  rfl

theorem prefetch_done (e : TlbEntry)
    (h : 18446744073709551616 ≤ (s.val a).toNat + w.toNat
      ∨ (isCanon (BitVec.ofInt 64 (((s.val a).toNat : Int) + w.toNat)) = true
        ∧ ((BitVec.ofInt 64 (((s.val a).toNat : Int) + w.toNat)).toNat.testBit 47 = true → s.ctx.mode = true) ∧ walkBusy s = false
        ∧ lookup s s.cur.core s.myLaunch (BitVec.ofInt 64 (((s.val a).toNat : Int) + w.toNat)) .rd = .hit e)) :
    ∃ t, finish s (prefetch a y len s) = .next t ∧ SameRegs s t ∧ SameMemory s t ∧ t.net = s.net ∧ MovedOn s t len := by
  by_cases hsum : 18446744073709551616 ≤ (s.val a).toNat + w.toNat
  · obtain ⟨hregs, hmem, hpc⟩ := (KeepsContexts.refl s).movedOn len
    exact ⟨(s.advance len).ran, by rw [prefetch_beyond len ha hy hsum, finish_ok], hregs, hmem, rfl, hpc⟩
  · obtain ⟨hva, hmode, hbusy, hhit⟩ := h.resolve_left hsum
    have hadd : KeepsContexts s (s.modMe (fun c => c.addTlb false e)) := .modCore s _ _ rfl rfl rfl
    obtain ⟨hregs, hmem, hpc⟩ := (hadd.trans (fillTlbs_keepsContexts _ s.cur.core false e)).movedOn len
    refine ⟨_, ?_, hregs, hmem, rfl, hpc⟩
    rw [prefetch_hit len ha hy (by exact_mod_cast hsum) hva hmode hbusy hhit, finish_ok]

end

/-- Settles O13: the address passes its checks and is translated, and the access is issued to the base die of its place; a prefetch at
most fills the TLBs. -/
theorem globalInstructions : Obligations.GlobalInstructions := by
  unfold Obligations.GlobalInstructions
  refine ⟨fun s a e ha => ⟨?loads, ?stores, ?rows, ?atoms⟩, ?prefetches⟩
  case loads =>
    intro d z x hd ho sum hs hg
    obtain ⟨r, hp, hr⟩ := globalPlace_ok hg nofun
    obtain ⟨t, ht, hsent, hpres, hregs⟩ := execLdg_sends ha hr hs hd ho hp
    exact ⟨t, ht, hpres, hregs, hsent⟩
  case stores =>
    intro d z x hd ho sum hs hg
    obtain ⟨r, hp, hr⟩ := globalPlace_ok hg nofun
    exact execStg_sends ha hr hs hd ho hp
  case rows =>
    intro v n l hv hb bits Row s1 s3 place bs
    have hload (add len : Nat) (i : Instr) (hi : exec i s = finish s (globalLoadRow v a add len s)) (ho : LoadReady s) :
        Row (((s.val a).toNat + add : Nat) : Int) .rd i len (.grd (place (((s.val a).toNat + add : Nat) : Int)) 64 []) (.row v) := by
      intro hs hg
      obtain ⟨r, hp, hr⟩ := globalPlace_ok hg nofun
      obtain ⟨t, ht, hsent, hregs, hpres, hrows⟩ := globalLoadRow_sends add len ha hr hs hv hb ho hp
      exact ⟨t, hi.trans ht, hregs, hsent, fun _ => hpres, hrows⟩
    have hstore (add len : Nat) (i : Instr) (hi : exec i s = finish s (globalStoreRow v a add len s)) (ho : StoreReady s) :
        Row (((s.val a).toNat + add : Nat) : Int) .w i len (.gwr (place (((s.val a).toNat + add : Nat) : Int)) bs) .none := by
      intro hs hg
      obtain ⟨r, hp, hr⟩ := globalPlace_ok hg nofun
      obtain ⟨t, ht, hsent, hregs, hrows⟩ := globalStoreRow_sends add len ha hr hs hv hb ho hp
      rw [rowBytes_eq_map] at hsent
      exact ⟨t, hi.trans ht, hregs, hsent, nofun, fun x _ => hrows x⟩
    have hreduce (add len : Nat) (i : Instr) (hi : exec i s = finish s (globalReduce v a add len s)) (ho : StoreReady s) :
        Row (((s.val a).toNat + add : Nat) : Int) .w i len
          (.gred (place (((s.val a).toNat + add : Nat) : Int)) s.me.tiles[v.val / 16].ty bits) .none := by
      intro hs hg
      obtain ⟨r, hp, hr⟩ := globalPlace_ok hg nofun
      obtain ⟨t, ht, hsent, hregs, hrows⟩ := globalReduce_sends add len ha hr hs hv hb ho hp
      exact ⟨t, hi.trans ht, hregs, hsent, nofun, fun x _ => hrows x⟩
    exact ⟨fun ho => ⟨hload (n.val * 64) 1 (.ldgV v a n) rfl ho, hload l.toNat 3 (.ldgVLit v a l) rfl ho⟩,
      fun ho => ⟨hstore (n.val * 64) 1 (.stgV v a n) rfl ho, hstore l.toNat 3 (.stgVLit v a l) rfl ho,
        hreduce (n.val * 64) 1 (.gred v a n) rfl ho, hreduce l.toNat 3 (.gredLit v a l) rfl ho⟩⟩
  case atoms =>
    intro o dbl q d b l hd hb hc ho sum c place hs hm hg
    obtain ⟨r, hp, hr⟩ := globalPlace_ok hg (by split <;> nofun)
    obtain ⟨t, ht, hsent, hpres, hregs⟩ := globalAtom_sends o dbl q 1 (atomOperand_ok hb) ha hr hd hc ho hs hm hp
    obtain ⟨t', ht', hsent', hpres', hregs'⟩ := globalAtom_sends o dbl q 3 (y := .ok l) rfl ha hr hd hc ho hs hm hp
    exact ⟨⟨t, ht, hpres, hregs, hsent⟩, ⟨t', ht', hpres', hregs', hsent'⟩⟩
  case prefetches =>
    intro s a b l e ha hb Done
    exact ⟨prefetch_done 1 ha (readReg_ok hb) e, prefetch_done 3 ha rfl e⟩

end Sys2Proof.Machine

/-! SUPPORT. O27: what an answer does to the context that waits for it (R61, R66, R67, R73, R105, R106, R262). The answer leaves the fabric and
frees its tag; everything else that it does is one change of that context, or of one row of its core. -/

namespace Sys2Proof.Machine

open Sys2Proof

/-! ### Values of a load -/

theorem extendSz_eq_ruleExtend (z : LoadSize) (v : Nat) : extendSz z v = ruleExtend z v := by
  have zero {w : Nat} (hw : w ≤ 64) : BitVec.ofNat 64 (v % 2 ^ w) = (BitVec.ofNat w v).setWidth 64 := by
    apply BitVec.eq_of_toNat_eq
    simp
  have sign {w : Nat} (hw : 0 < w) : signExtend v w = (BitVec.ofNat w v).signExtend 64 := by
    rw [signExtend, sgn_eq_toInt hw, BitVec.signExtend]
  cases z with
  | b => exact zero (w := 8) (by decide)
  | h => exact zero (w := 16) (by decide)
  | w => exact zero (w := 32) (by decide)
  | d => exact (zero (w := 64) (by decide)).trans (BitVec.setWidth_eq _)
  | sb => exact sign (by decide)
  | sh => exact sign (by decide)
  | sw => exact sign (by decide)

/-! ### What stands beside the contexts of a core -/

/-- The tiles of a core, and the two places where a context's registers may stand apart from it. -/
def Core.standing (c : Core) : Vector Tile 4 × Bool × Option Preempt := (c.tiles, c.parked, c.preempt)

theorem Core.banked_of_standing {c d : Core} (h : c.standing = d.standing) (hv : Bool) : c.banked hv = d.banked hv := by
  obtain ⟨-, hk⟩ := Prod.mk.inj h
  obtain ⟨hparked, hpreempt⟩ := Prod.mk.inj hk
  rw [Core.banked, Core.banked, hparked, hpreempt]

theorem Core.row_of_standing {c d : Core} (h : c.standing = d.standing) (v : VReg) : c.row v = d.row v := by
  exact congrArg (fun ts : Vector Tile 4 => ts[(rowIdx v).1].rows[(rowIdx v).2]) (Prod.mk.inj h).1

theorem modCore_standing {s : State} {cn : Nat} {f : Core → Core} (hf : (f (s.core cn)).standing = (s.core cn).standing) (i : Nat) :
    ((s.modCore cn f).core i).standing = (s.core i).standing := by
  rw [State.modCore_core]
  split
  · next h => rw [h, hf]
  · rfl

theorem modFab_standing (s : State) (cn : Nat) (f : Core → Fab) (i : Nat) :
    ((s.modCore cn (fun c => { c with fab := f c })).core i).standing = (s.core i).standing :=
  modCore_standing rfl i

theorem modCtxOf_standing (s : State) (cn : Nat) (hv : Bool) (f : Ctx → Ctx) (i : Nat) :
    ((s.modCtxOf cn hv f).core i).standing = (s.core i).standing := by
  refine modCore_standing ?_ i
  cases hv <;> rfl

theorem send_standing (s : State) (l : Letter) (i : Nat) : ((send s l).1.core i).standing = (s.core i).standing := by
  have key (u : State) (f : Fab) (net : List Packet) :
      (State.core { u.modCore l.src (fun c => { c with fab := f }) with net := net } i).standing = (u.core i).standing :=
    modFab_standing u l.src (fun _ => f) i
  exact (key s.newId.1 _ _ :)

theorem sendEack_standing (s : State) (p : Packet) (i : Nat) : ((sendEack s p).core i).standing = (s.core i).standing := by
  unfold sendEack
  split
  · exact send_standing ..
  · rfl

theorem answerTaken_standing (s : State) (p : Packet) (i : Nat) : ((answerTaken s p).core i).standing = (s.core i).standing := by
  refine (modFab_standing (executed s p) p.dst _ i).trans ?_
  unfold executed
  split
  · exact modFab_standing (s.take p.id) p.dst _ i
  · rfl

/-- A completed release removes tags of local memory and of HBM, and nothing else of a core. -/
theorem clearTags_core {α : Type} {g : Core → α} (hg : ∀ (c : Core) (m : LMem) (fs : List Frame), g { c with lm := m, frames := fs } = g c)
    (s : State) (cn : Nat) (sc : Scope) (i : Nat) : g ((clearTags s cn sc).core i) = g (s.core i) := by
  apply mget_map_of_eq (g := g)
  · exact fun _ => rfl
  · exact fun p => hg p.2 _ _

theorem clearTags_ctxOf (s : State) (cn : Nat) (sc : Scope) (i : Nat) (hv : Bool) : (clearTags s cn sc).ctxOf i hv = s.ctxOf i hv :=
  clearTags_core (g := fun c => c.ctx hv) (fun _ _ _ => rfl) s cn sc i

theorem clearTags_standing (s : State) (cn : Nat) (sc : Scope) (i : Nat) :
    ((clearTags s cn sc).core i).standing = (s.core i).standing :=
  clearTags_core (g := Core.standing) (fun _ _ _ => rfl) s cn sc i

/-! ### The state in which a context takes an answer -/

theorem modCtxOf_congr {s : State} {cn : Nat} {hv : Bool} {f g : Ctx → Ctx} (h : f (s.ctxOf cn hv) = g (s.ctxOf cn hv)) :
    s.modCtxOf cn hv f = s.modCtxOf cn hv g :=
  congrArg (fun c => s.setCore cn ((s.core cn).setCtx hv c)) h

/-- A context after its access number `id` has freed its tag, with the marks of its releases that are left. -/
def Ctx.closed (c : Ctx) (id : Nat) (rels : List RelMark) : Ctx := { c with out := c.out.filter (fun x => x.id != id), rels := rels }

/-- `u` is `s` after a context's access number `id` has freed its tag: the access is no longer outstanding, and only the marks of releases
differ in the context. -/
structure AccessClosed (s u : State) (cn : Nat) (hv : Bool) (id : Nat) : Prop where
  ctx : ∃ rels, u.ctxOf cn hv = (s.ctxOf cn hv).closed id rels
  standing : (u.core cn).standing = (s.core cn).standing
  memory : SameMemory s u
  net : u.net = s.net

theorem settleRels_closed {s u : State} {cn : Nat} {hv : Bool} {id : Nat} (h : AccessClosed s u cn hv id) :
    AccessClosed s (settleRels u cn hv) cn hv id := by
  have clear (marks : List RelMark) (v : State) (hv' : AccessClosed s v cn hv id) :
      AccessClosed s (marks.foldl (fun v m => clearTags v cn m.scope) v) cn hv id := by
    induction marks generalizing v with
    | nil => exact hv'
    | cons m rest ih =>
      obtain ⟨hctx, hst, hmem, hnet⟩ := hv'
      exact ih _ ⟨by rwa [clearTags_ctxOf], (clearTags_standing ..).trans hst, hmem.trans (clearTags_sameMemory v cn m.scope), hnet⟩
  obtain ⟨⟨rels, hctx⟩, hst, hmem, hnet⟩ := h
  refine clear _ _ ⟨?_, (modCtxOf_standing ..).trans hst, hmem.trans (modCtxOf_sameMemory ..), hnet⟩
  rw [State.modCtxOf_ctxOf_same, hctx]
  exact ⟨_, rfl⟩

theorem closeOut_closed (s : State) (cn : Nat) (hv : Bool) (id : Nat) : AccessClosed s (closeOut s cn hv id) cn hv id := by
  refine settleRels_closed ⟨⟨(s.ctxOf cn hv).rels, ?_⟩, modCtxOf_standing .., modCtxOf_sameMemory .., rfl⟩
  rw [State.modCtxOf_ctxOf_same]
  rfl

/-- The state in which a context takes an answer: the answer has left the fabric, and its access has freed its tag. -/
def answerClosed (s : State) (p : Packet) (hv : Bool) : State := closeOut (answerTaken s p) p.dst hv p.req

theorem answerClosed_closed (s : State) (p : Packet) (hv : Bool) :
    (∃ rels, (answerClosed s p hv).ctxOf p.dst hv = (s.ctxOf p.dst hv).closed p.req rels)
    ∧ ((answerClosed s p hv).core p.dst).standing = (s.core p.dst).standing ∧ SameMemory s (answerClosed s p hv)
    ∧ p ∉ (answerClosed s p hv).net := by
  obtain ⟨⟨rels, hctx⟩, hst, hmem, hnet⟩ := closeOut_closed (answerTaken s p) p.dst hv p.req
  have hkeep := answerTaken_keepsContexts s p
  rw [hkeep.ctxOf] at hctx
  refine ⟨⟨rels, hctx⟩, hst.trans (answerTaken_standing ..), hkeep.sameMemory.trans hmem, ?_⟩
  rw [answerClosed, hnet]
  exact not_mem_answerTaken_net s p

/-! ### What each answer does there -/

/-- A value arrives in the register itself while no handler that did not ask for it runs and no register of the context stands elsewhere. -/
theorem deliver_live {s : State} {cn : Nat} {hv handler : Bool} (r : SReg) (v : Word)
    (hlive : handler = true ∨ ((s.ctxOf cn hv).inh = false ∧ (s.ctxOf cn hv).stop = false)) (hbank : (s.core cn).banked hv = false) :
    deliver s cn hv r handler v = s.modCtxOf cn hv (fun c => c.setReg r v) := by
  rw [deliver, hbank]
  refine modCtxOf_congr ?_
  dsimp only
  rw [if_neg]
  rcases hlive with rfl | ⟨hinh, hstop⟩
  · simp
  · simp [hinh, hstop]

/-- A fault of an access is held until the context takes it, unless it is a running handler's own. -/
theorem accessFault_held {s : State} {cn : Nat} {hv : Bool} {o : Out} (e : Cause) (v : Word)
    (hno : ¬ (o.handler = true ∧ (s.ctxOf cn hv).inh = true)) :
    accessFault s cn hv o e v
      = s.modCtxOf cn hv (fun c => { c with held := c.held ++ [⟨(s.ctxOf cn hv).launch, e, o.epc, v⟩] }) := by
  refine if_neg ?_
  rwa [Bool.and_eq_true]

/-- After an answer: it has left the fabric, its access is no longer outstanding, and no byte of memory has changed. -/
structure AnswerDone (s : State) (p : Packet) (hv : Bool) (t : State) : Prop where
  net : p ∉ t.net
  out : (t.ctxOf p.dst hv).out = (s.ctxOf p.dst hv).out.filter (fun x => x.id != p.req)
  memory : SameMemory s t

section

variable {s : State} {k : Nat} {p : Packet} {hv : Bool} {o : Out} (hgot : s.got k = some p) (htrim : p.trim = false) (hwho : p.who = .ctx hv)
  (hdone : s.isDone p = false) (hfind : (s.ctxOf p.dst hv).out.find? (fun o => o.id == p.req) = some o)

include hfind in
theorem ctxReply_answerTaken (r : Result) : ctxReply (answerTaken s p) p.dst hv p.req r = match r with
    | .fault e v => landFault (answerClosed s p hv) p.dst hv o e v
    | _ => landReply (answerClosed s p hv) p.dst hv o r := by
  rw [ctxReply, (answerTaken_keepsContexts s p).ctxOf, hfind]
  cases r <;> rfl

include hgot htrim hwho hdone

theorem exec_rply_ctx {r : Result} (hb : p.body = .rply r) :
    exec (.rply k) s = .next (sendEack (ctxReply (answerTaken s p) p.dst hv p.req r) p) := by
  refine exec_rply_eq hgot htrim hdone hb fun hnew => ?_
  rw [landAnswer, hnew, hwho]
  rfl

theorem exec_ack_ctx {r : Result} (hb : p.body = .ack r) :
    exec (.ack k) s = .next (ctxReply (answerTaken s p) p.dst hv p.req r) := by
  have hexec : exec (.ack k) s = execAck k s := rfl
  rw [State.isDone, htrim] at hdone
  rw [hexec, execAck, hgot]
  simp only [hb, htrim, Bool.false_eq_true, if_false] at hdone ⊢
  rw [landAnswer, hdone, hwho]
  rfl

/-- A reply that changes the context by `f`. -/
theorem exec_rply_modCtxOf {r : Result} {f : Ctx → Ctx} (hb : p.body = .rply r)
    (hland : ctxReply (answerTaken s p) p.dst hv p.req r = (answerClosed s p hv).modCtxOf p.dst hv f) (hout : ∀ c, (f c).out = c.out) :
    ∃ t, exec (.rply k) s = .next t ∧ AnswerDone s p hv t
      ∧ ∃ rels, t.ctxOf p.dst hv = f ((s.ctxOf p.dst hv).closed p.req rels) := by
  obtain ⟨⟨rels, hctx⟩, -, hmem, hnet⟩ := answerClosed_closed s p hv
  have heack := sendEack_keepsContexts ((answerClosed s p hv).modCtxOf p.dst hv f) p
  refine ⟨_, exec_rply_ctx hgot htrim hwho hdone hb, ?_⟩
  rw [hland]
  refine ⟨⟨not_mem_sendEack_net hb hnet, ?_, (hmem.trans (modCtxOf_sameMemory ..)).trans heack.sameMemory⟩, rels, ?_⟩
  case refine_2 => rw [heack.ctxOf, State.modCtxOf_ctxOf_same, hctx]
  rw [heack.ctxOf, State.modCtxOf_ctxOf_same, hout, hctx]
  rfl

/-- An acknowledgement that changes the context by `f`. -/
theorem exec_ack_modCtxOf {r : Result} {f : Ctx → Ctx} (hb : p.body = .ack r)
    (hland : ctxReply (answerTaken s p) p.dst hv p.req r = (answerClosed s p hv).modCtxOf p.dst hv f) (hout : ∀ c, (f c).out = c.out) :
    ∃ t, exec (.ack k) s = .next t ∧ AnswerDone s p hv t
      ∧ ∃ rels, t.ctxOf p.dst hv = f ((s.ctxOf p.dst hv).closed p.req rels) := by
  obtain ⟨⟨rels, hctx⟩, -, hmem, hnet⟩ := answerClosed_closed s p hv
  refine ⟨_, exec_ack_ctx hgot htrim hwho hdone hb, ?_⟩
  rw [hland]
  refine ⟨⟨hnet, ?_, hmem.trans (modCtxOf_sameMemory ..)⟩, rels, ?_⟩
  case refine_2 => rw [State.modCtxOf_ctxOf_same, hctx]
  rw [State.modCtxOf_ctxOf_same, hout, hctx]
  rfl

end

/-! ### A reply's value arrives -/

/-- Only one register differs, and it has the value. -/
def OnlyReg (c x : Ctx) (d : SReg) (v : Word) : Prop := x.regs[d] = ⟨v, true⟩ ∧ ∀ r : SReg, r ≠ d → x.regs[r] = c.regs[r]

theorem onlyReg_setReg (c : Ctx) (d : SReg) (v : Word) : OnlyReg c (c.setReg d v) d v :=
  ⟨Ctx.setReg_at c d v, fun r hr => Ctx.setReg_other c d r v hr⟩

section

variable {s : State} {k : Nat} {p : Packet} {hv : Bool} {o : Out} (hgot : s.got k = some p) (htrim : p.trim = false) (hwho : p.who = .ctx hv)
  (hdone : s.isDone p = false) (hfind : (s.ctxOf p.dst hv).out.find? (fun o => o.id == p.req) = some o)
  (hlive : (o.handler = true ∨ ((s.ctxOf p.dst hv).inh = false ∧ (s.ctxOf p.dst hv).stop = false)) ∧ (s.core p.dst).banked hv = false)

include hlive in
theorem deliver_answerClosed (d : SReg) (v : Word) : deliver (answerClosed s p hv) p.dst hv d o.handler v
    = (answerClosed s p hv).modCtxOf p.dst hv (fun c => c.setReg d v) := by
  obtain ⟨hlive, hbank⟩ := hlive
  obtain ⟨⟨rels, hctx⟩, hst, -, -⟩ := answerClosed_closed s p hv
  refine deliver_live d v ?_ ((Core.banked_of_standing hst hv).trans hbank)
  rw [hctx]
  exact hlive

include hgot htrim hwho hdone hlive

/-- A load's or an atomic's register gets the value of the reply. -/
theorem exec_rply_deliver {r : Result} {d : SReg} {v : Word} (hb : p.body = .rply r)
    (hland : ctxReply (answerTaken s p) p.dst hv p.req r = deliver (answerClosed s p hv) p.dst hv d o.handler v) :
    ∃ t, exec (.rply k) s = .next t ∧ AnswerDone s p hv t ∧ OnlyReg (s.ctxOf p.dst hv) (t.ctxOf p.dst hv) d v := by
  rw [deliver_answerClosed hlive] at hland
  obtain ⟨t, ht, hd, rels, hctx⟩ := exec_rply_modCtxOf hgot htrim hwho hdone hb hland (fun _ => rfl)
  refine ⟨t, ht, hd, ?_⟩
  rw [hctx]
  exact onlyReg_setReg ((s.ctxOf p.dst hv).closed p.req rels) d v

include hfind

theorem exec_rply_data {d : SReg} {z : LoadSize} {bs : List Byte} (hb : p.body = .rply (.data bs)) (hdest : o.dest = .reg d z) :
    ∃ t, exec (.rply k) s = .next t ∧ AnswerDone s p hv t
      ∧ OnlyReg (s.ctxOf p.dst hv) (t.ctxOf p.dst hv) d (ruleExtend z (leNat bs)) := by
  refine exec_rply_deliver hgot htrim hwho hdone hlive hb ((ctxReply_answerTaken hfind _).trans ?_)
  simp only [landReply, hdest, extendSz_eq_ruleExtend]

theorem exec_rply_val {d : SReg} {z : LoadSize} {v : Word} (hb : p.body = .rply (.val v)) (hdest : o.dest = .reg d z) :
    ∃ t, exec (.rply k) s = .next t ∧ AnswerDone s p hv t ∧ OnlyReg (s.ctxOf p.dst hv) (t.ctxOf p.dst hv) d v := by
  refine exec_rply_deliver hgot htrim hwho hdone hlive hb ((ctxReply_answerTaken hfind _).trans ?_)
  simp only [landReply, hdest]

/-- An arrival's register gets the new count, and a refused arrival is noted. -/
theorem exec_rply_arrive {d : SReg} {v : Word} (hb : p.body = .rply (.val v)) (hdest : o.dest = .arrive (some d)) :
    ∃ t, exec (.rply k) s = .next t ∧ AnswerDone s p hv t ∧ OnlyReg (s.ctxOf p.dst hv) (t.ctxOf p.dst hv) d v
      ∧ (v = all1 → (t.ctxOf p.dst hv).bops.getLast? = some ⟨o.epc, o.addr, some d⟩)
      ∧ (v ≠ all1 → (t.ctxOf p.dst hv).bops.length = (s.ctxOf p.dst hv).bops.length) := by
  have hreply := ctxReply_answerTaken hfind (.val v)
  simp only [landReply, hdest, deliverTo, deliver_answerClosed hlive] at hreply
  split at hreply
  · next hall =>
    rw [State.modCtxOf_modCtxOf] at hreply
    obtain ⟨t, ht, hd, rels, hctx⟩ := exec_rply_modCtxOf hgot htrim hwho hdone hb hreply (fun _ => rfl)
    refine ⟨t, ht, hd, ?_⟩
    rw [hctx]
    exact ⟨onlyReg_setReg ((s.ctxOf p.dst hv).closed p.req rels) d v, fun _ => List.getLast?_concat, fun hne => absurd (beq_iff_eq.1 hall) hne⟩
  · next hall =>
    obtain ⟨t, ht, hd, rels, hctx⟩ := exec_rply_modCtxOf hgot htrim hwho hdone hb hreply (fun _ => rfl)
    refine ⟨t, ht, hd, ?_⟩
    rw [hctx]
    exact ⟨onlyReg_setReg ((s.ctxOf p.dst hv).closed p.req rels) d v, fun heq => absurd (beq_iff_eq.2 heq) hall, fun _ => List.length_map _⟩

/-- A producer's bind writes the position that the ring gave it, and sets the handle unless the ring refused it. -/
theorem exec_rply_bindP {d : SReg} {h : HandleNo} {v : Word} {q base lsize lslots : Nat}
    (hb : p.body = .rply (.bound v q base lsize lslots)) (hdest : o.dest = .bindP (some d) h) :
    ∃ t, exec (.rply k) s = .next t ∧ AnswerDone s p hv t ∧ OnlyReg (s.ctxOf p.dst hv) (t.ctxOf p.dst hv) d v
      ∧ (t.ctxOf p.dst hv).handles[h] = if v = all1 then .unbound else .producer o.addr q base lsize lslots := by
  have hreply := ctxReply_answerTaken hfind (.bound v q base lsize lslots)
  simp only [landReply, hdest, deliverTo, deliver_answerClosed hlive, bindHandle, State.modCtxOf_modCtxOf] at hreply
  obtain ⟨t, ht, hd, rels, hctx⟩ := exec_rply_modCtxOf hgot htrim hwho hdone hb hreply (fun _ => rfl)
  refine ⟨t, ht, hd, ?_⟩
  rw [hctx]
  refine ⟨onlyReg_setReg ((s.ctxOf p.dst hv).closed p.req rels) d v, ?_⟩
  simp

/-- A consumer's bind writes 0, sets the handle, and the context goes on behind the instruction. -/
theorem exec_rply_bindC {d : SReg} {h : HandleNo} {v : Word} {q base lsize lslots : Nat}
    (hb : p.body = .rply (.bound v q base lsize lslots)) (hdest : o.dest = .bindC (some d) h) (hserial : o.serial = true) :
    ∃ t, exec (.rply k) s = .next t ∧ AnswerDone s p hv t ∧ OnlyReg (s.ctxOf p.dst hv) (t.ctxOf p.dst hv) d 0
      ∧ (t.ctxOf p.dst hv).handles[h] = .consumer o.addr base lsize lslots
      ∧ ((t.ctxOf p.dst hv).pc, (t.ctxOf p.dst hv).closedFrom) = (s.ctxOf p.dst hv).nextPc 1 := by
  have hreply := ctxReply_answerTaken hfind (.bound v q base lsize lslots)
  simp only [landReply, hdest, hserial, if_true, deliverTo, deliver_answerClosed hlive, bindHandle, State.advanceOf,
    State.modCtxOf_modCtxOf] at hreply
  obtain ⟨t, ht, hd, rels, hctx⟩ := exec_rply_modCtxOf hgot htrim hwho hdone hb hreply (fun _ => rfl)
  refine ⟨t, ht, hd, ?_⟩
  rw [hctx]
  refine ⟨onlyReg_setReg ((s.ctxOf p.dst hv).closed p.req rels) d 0, ?_, rfl⟩
  simp

end

/-! ### A row, a fault and an acknowledgement -/

section

variable {s : State} {k : Nat} {p : Packet} {hv : Bool} {o : Out} (hgot : s.got k = some p) (htrim : p.trim = false) (hwho : p.who = .ctx hv)
  (hdone : s.isDone p = false) (hfind : (s.ctxOf p.dst hv).out.find? (fun o => o.id == p.req) = some o)

include hgot htrim hwho hdone hfind

theorem exec_rply_row {v : VReg} {bs : List Byte} (hb : p.body = .rply (.data bs)) (hdest : o.dest = .row v) :
    ∃ t, exec (.rply k) s = .next t ∧ AnswerDone s p hv t ∧ (t.core p.dst).row v = ⟨rowOfBytes bs, true⟩
      ∧ ∀ x : VReg, x ≠ v → (t.core p.dst).row x = (s.core p.dst).row x := by
  obtain ⟨⟨rels, hctx⟩, hst, hmem, hnet⟩ := answerClosed_closed s p hv
  have hreply := ctxReply_answerTaken hfind (.data bs)
  simp only [landReply, hdest] at hreply
  have hrow : KeepsContexts (answerClosed s p hv) ((answerClosed s p hv).modCore p.dst (fun c => c.setRow v ⟨rowOfBytes bs, true⟩)) :=
    .modCore _ _ _ rfl rfl rfl
  have heack := sendEack_keepsContexts ((answerClosed s p hv).modCore p.dst (fun c => c.setRow v ⟨rowOfBytes bs, true⟩)) p
  have hrows := Core.row_of_standing (sendEack_standing
    ((answerClosed s p hv).modCore p.dst (fun c => c.setRow v ⟨rowOfBytes bs, true⟩)) p p.dst)
  refine ⟨_, exec_rply_ctx hgot htrim hwho hdone hb, ?_⟩
  rw [hreply]
  refine ⟨⟨not_mem_sendEack_net hb hnet, ?_, (hmem.trans hrow.sameMemory).trans heack.sameMemory⟩, ?_, fun x hx => ?_⟩
  · rw [heack.ctxOf, hrow.ctxOf, hctx]
    rfl
  · rw [hrows, State.modCore_core_same, Core.setRow_row]
  · rw [hrows, State.modCore_core_same, Core.setRow_row_other _ _ _ _ hx, Core.row_of_standing hst]

omit hgot htrim hwho hdone hfind in
/-- A fault that is not a running handler's own is held for the context. -/
theorem accessFault_answerClosed (e : Cause) (v : Word) (hno : ¬ (o.handler = true ∧ (s.ctxOf p.dst hv).inh = true)) :
    accessFault (answerClosed s p hv) p.dst hv o e v = (answerClosed s p hv).modCtxOf p.dst hv
      (fun c => { c with held := c.held ++ [⟨(s.ctxOf p.dst hv).launch, e, o.epc, v⟩] }) := by
  obtain ⟨⟨rels, hctx⟩, -, -, -⟩ := answerClosed_closed s p hv
  rw [accessFault_held e v (by rwa [hctx]), hctx]
  rfl

theorem exec_rply_fault {e : Cause} {v : Word} {d : SReg} {z : LoadSize} (hb : p.body = .rply (.fault e v)) (hdest : o.dest = .reg d z)
    (hno : ¬ (o.handler = true ∧ (s.ctxOf p.dst hv).inh = true)) :
    ∃ t, exec (.rply k) s = .next t ∧ AnswerDone s p hv t ∧ (t.ctxOf p.dst hv).regs = (s.ctxOf p.dst hv).regs
      ∧ (t.ctxOf p.dst hv).held = (s.ctxOf p.dst hv).held ++ [⟨(s.ctxOf p.dst hv).launch, e, o.epc, v⟩] := by
  have hreply := ctxReply_answerTaken hfind (.fault e v)
  simp only [landFault, hdest, accessFault_answerClosed e v hno] at hreply
  obtain ⟨t, ht, hd, rels, hctx⟩ := exec_rply_modCtxOf hgot htrim hwho hdone hb hreply (fun _ => rfl)
  refine ⟨t, ht, hd, ?_⟩
  rw [hctx]
  exact ⟨rfl, rfl⟩

/-- The acknowledgement of a store frees its tag, and nothing else changes. -/
theorem exec_ack_none (hb : p.body = .ack .ack) (hdest : o.dest = .none) :
    ∃ t, exec (.ack k) s = .next t ∧ AnswerDone s p hv t ∧ (t.ctxOf p.dst hv).regs = (s.ctxOf p.dst hv).regs
      ∧ (t.ctxOf p.dst hv).held = (s.ctxOf p.dst hv).held := by
  obtain ⟨⟨rels, hctx⟩, -, hmem, hnet⟩ := answerClosed_closed s p hv
  have hreply := ctxReply_answerTaken hfind .ack
  simp only [landReply, hdest] at hreply
  refine ⟨_, exec_ack_ctx hgot htrim hwho hdone hb, ?_⟩
  rw [hreply]
  refine ⟨⟨hnet, ?_, hmem⟩, ?_⟩
  · rw [hctx]
    rfl
  · rw [hctx]
    exact ⟨rfl, rfl⟩

theorem exec_ack_fault {e : Cause} {v : Word} (hb : p.body = .ack (.fault e v)) (hdest : o.dest = .none) (hserial : o.serial = false)
    (hno : ¬ (o.handler = true ∧ (s.ctxOf p.dst hv).inh = true)) :
    ∃ t, exec (.ack k) s = .next t ∧ AnswerDone s p hv t
      ∧ (t.ctxOf p.dst hv).held = (s.ctxOf p.dst hv).held ++ [⟨(s.ctxOf p.dst hv).launch, e, o.epc, v⟩] := by
  have hreply := ctxReply_answerTaken hfind (.fault e v)
  simp only [landFault, hdest, hserial, Bool.false_eq_true, if_false, accessFault_answerClosed e v hno] at hreply
  obtain ⟨t, ht, hd, rels, hctx⟩ := exec_ack_modCtxOf hgot htrim hwho hdone hb hreply (fun _ => rfl)
  refine ⟨t, ht, hd, ?_⟩
  rw [hctx]
  rfl

end

/-- Settles O27. An answer frees its access and does one change of its context or of a row; each clause is the case of what waits for the
answer and of what it carries. -/
theorem answersLand : Obligations.AnswersLand := by
  unfold Obligations.AnswersLand
  intro s k p hv o hgot htrim hwho hdone hfind c live Done Only
  have done {t : State} (h : AnswerDone s p hv t) : Done t := ⟨h.net, h.out, h.memory⟩
  refine ⟨fun d z bs hb hdest hlive => ?_, fun d z v hb hdest hlive => ?_, fun v bs hb hdest => ?_, fun d v hb hdest hlive => ?_,
    fun d h v q base lsize lslots hb hdest hlive => ?_, fun d h v q base lsize lslots hb hdest hlive hserial => ?_,
    fun e v d z hb hdest hno => ?_, fun hb hdest => ?_, fun e v hb hdest hserial hno => ?_⟩
  · obtain ⟨t, ht, hd, hreg⟩ := exec_rply_data hgot htrim hwho hdone hfind hlive hb hdest
    exact ⟨t, ht, done hd, hreg⟩
  · obtain ⟨t, ht, hd, hreg⟩ := exec_rply_val hgot htrim hwho hdone hfind hlive hb hdest
    exact ⟨t, ht, done hd, hreg⟩
  · obtain ⟨t, ht, hd, hrow⟩ := exec_rply_row hgot htrim hwho hdone hfind hb hdest
    exact ⟨t, ht, done hd, hrow⟩
  · obtain ⟨t, ht, hd, harrived⟩ := exec_rply_arrive hgot htrim hwho hdone hfind hlive hb hdest
    exact ⟨t, ht, done hd, harrived⟩
  · obtain ⟨t, ht, hd, hbound⟩ := exec_rply_bindP hgot htrim hwho hdone hfind hlive hb hdest
    exact ⟨t, ht, done hd, hbound⟩
  · obtain ⟨t, ht, hd, hbound⟩ := exec_rply_bindC hgot htrim hwho hdone hfind hlive hb hdest hserial
    exact ⟨t, ht, done hd, hbound⟩
  · obtain ⟨t, ht, hd, hheld⟩ := exec_rply_fault hgot htrim hwho hdone hfind hb hdest hno
    exact ⟨t, ht, done hd, hheld⟩
  · obtain ⟨t, ht, hd, hsame⟩ := exec_ack_none hgot htrim hwho hdone hfind hb hdest
    exact ⟨t, ht, done hd, hsame⟩
  · obtain ⟨t, ht, hd, hheld⟩ := exec_ack_fault hgot htrim hwho hdone hfind hb hdest hserial hno
    exact ⟨t, ht, done hd, hheld⟩

end Sys2Proof.Machine

/-! SUPPORT. O16: a reduction at a physical address. The base die reads under the label of a virtual address (R63, R78), so that it finds
noise there, and its write turns the whole granule into noise first. -/

namespace Sys2Proof.Machine

open Sys2Proof

/-! ### HBM under another label -/

/-- A read of bytes that all stand under physical addresses draws noise for each byte. -/
theorem hbmRead_physical {s : State} (hphys : ∀ x l, mfind s.hbm.labels x = some l → l.phys = true) (pa addr key n : Nat) :
    (hbmRead s pa addr key false n).1 = { s with fresh := s.fresh + n } := by
  induction n generalizing s pa addr with
  | zero => rfl
  | succ n ih =>
    have hno : (mfind s.hbm.labels (pa / 32) == some (labelOf s key addr false)) = false :=
      beq_eq_false_iff_ne.2 fun h => Bool.false_ne_true (hphys _ _ h)
    have hrest := ih (s := { s with fresh := s.fresh + 1 }) hphys (pa + 1) (addr + 1)
    rw [show s.fresh + (n + 1) = s.fresh + 1 + n by omega]
    simp only [hbmRead, hno, Bool.false_eq_true, if_false]
    exact hrest

/-- One byte of HBM becomes noise. -/
def noiseAt (s : State) (a : Nat) : State :=
  { s with fresh := s.fresh + 1, hbm := { s.hbm with bytes := cellSet s.hbm.bytes a (Config.freeByte s.fresh) } }

theorem foldl_noiseAt_other {x : Nat} {l : List Nat} (hx : x ∉ l) (s : State) : (l.foldl noiseAt s).hbmByte x = s.hbmByte x := by
  induction l generalizing s with
  | nil => rfl
  | cons a rest ih =>
    rw [List.foldl_cons, ih fun h => hx (List.mem_cons_of_mem a h)]
    exact cellGet_cellSet_other _ a x _ fun h => hx (h ▸ List.mem_cons_self)

theorem noise_eq_noiseAt : (fun (s : State) a =>
    let (s, b) := s.noise
    { s with hbm := { s.hbm with bytes := cellSet s.hbm.bytes a b } }) = noiseAt := rfl

/-- What a new label does to the bytes of its granule. -/
theorem relabel_hbmByte {s : State} {g : Nat} {l : Label} (hl : mfind s.hbm.labels g ≠ some l) (x : Nat) :
    (relabel s g l).hbmByte x = ((natRange (g * 32) 32).foldl noiseAt s).hbmByte x := by
  rw [relabel, if_neg (by simpa using hl), noise_eq_noiseAt, State.hbmByte, State.hbmByte]

/-- A granule that stood under another label is noise from its first byte on. -/
theorem relabel_first {s : State} {g : Nat} {l : Label} (hwf : Memory.wf s.hbm.bytes = true) (hl : mfind s.hbm.labels g ≠ some l) :
    (relabel s g l).hbmByte (g * 32) = Config.freeByte s.fresh := by
  have hrange : natRange (g * 32) 32 = g * 32 :: natRange (g * 32 + 1) 31 := by
    rw [natRange, natRange, List.range_succ_eq_map, List.map_cons, List.map_map]
    refine congrArg₂ _ (by simp) (List.map_congr_left fun i _ => ?_)
    simp only [Function.comp]
    omega
  have hrest : g * 32 ∉ natRange (g * 32 + 1) 31 := by
    simp only [natRange, List.mem_map, not_exists, not_and]
    omega
  rw [relabel_hbmByte hl, hrange, List.foldl_cons, foldl_noiseAt_other hrest]
  exact cellGet_cellSet_same _ _ _ 0 hwf

theorem relabel_other (s : State) {g x : Nat} (l : Label) (hx : x / 32 ≠ g) : (relabel s g l).hbmByte x = s.hbmByte x := by
  have hout : x ∉ natRange (g * 32) 32 := by
    simp only [natRange, List.mem_map, List.mem_range, not_exists, not_and]
    omega
  by_cases hl : mfind s.hbm.labels g = some l
  · rw [relabel, if_pos (beq_iff_eq.2 hl)]
  · rw [relabel_hbmByte hl, foldl_noiseAt_other hout]

/-- A store of 64 bytes from the middle of granule 0x2000 on: its first byte, which lies before them, becomes noise where the granules stood
under physical addresses. -/
theorem hbmStore_physical {s : State} (hwf : Memory.wf s.hbm.bytes = true) (hphys : ∀ x l, mfind s.hbm.labels x = some l → l.phys = true)
    (w addr key : Nat) {bs : List Byte} (hlen : bs.length = 64) :
    (hbmStore s w 0x40010 addr key bs).hbmByte 0x40000 = Config.freeByte s.fresh := by
  have hgran : granules 0x40010 64 = [0x2000, 0x2001, 0x2002] := by decide
  rw [hbmStore, hbmWrite, hlen, hgran]
  simp only [List.foldl_cons, List.foldl_nil]
  rw [State.hbmByte, cellGet_cellWrite_other _ _ _ _ (.inl (by decide)), ← State.hbmByte, relabel_other _ _ (by decide),
    relabel_other _ _ (by decide)]
  exact relabel_first (g := 0x2000) hwf fun h => Bool.false_ne_true (hphys _ _ h)

/-! ### A reduction at a physical address -/

/-- A reduction stores a row after its read. -/
theorem dieReduce_stores {s : State} (p : Packet) {g : GLoc} (ty : TileType) (bits : RowBits) (hbad : hbmBadIn s g.pa 64 = false) :
    ∃ row, dieReduce s p g ty bits
      = .done (hbmStore (hbmRead s g.pa g.va g.key false 64).1 p.src g.pa g.va g.key (rowBytes row)) .ack := by
  rw [dieReduce, hbad]
  generalize hbmRead s g.pa g.va g.key false 64 = x
  exact ⟨_, rfl⟩

/-- A place of 64 bytes from the middle of a granule on, by its physical address. -/
def physPlace : GLoc := { pa := 0x40010, va := 0x40010, key := 1, rchk := false, phys := true }

/-- A reduction there. -/
def physGred : Packet :=
  { id := 5, who := .ctx false, src := 1, dst := 0, vn := 1, launch := 1, seq := 0, trim := false, retx := false, ord := false, e := false,
    rel := false, req := 5, body := .gred physPlace .f32 0, iseq := 0, tag := 0, at_ := .arrived, esc := false }

/-- The reduction has arrived at its die. The granules stand under their physical addresses, and the byte before the place is not the noise
that the reduction will leave there. -/
def physState : State :=
  { State.reset with
    net := [physGred]
    hbm := { State.reset.hbm with
      bytes := cellSet [] 0x40000 (Config.freeByte 64 + 1)
      labels := [(0x2000, ⟨1, 0, 0x2000, true⟩), (0x2001, ⟨1, 0, 0x2001, true⟩), (0x2002, ⟨1, 0, 0x2002, true⟩)] } }

theorem physState_serviceable : Serviceable physState 5 physGred :=
  ⟨rfl, rfl, rfl, rfl, rfl, rfl, rfl⟩

theorem physState_wf : Memory.wf physState.hbm.bytes = true := cellSet_wf [] 0x40000 _ rfl

theorem physState_labels : ∀ x l, mfind physState.hbm.labels x = some l → l.phys = true := by
  intro x l h
  simp only [physState, mfind] at h
  split at h
  · cases h
    rfl
  · split at h
    · cases h
      rfl
    · split at h
      · cases h
        rfl
      · cases h

theorem physState_labelled : Labelled physState physPlace 64 := by
  unfold Labelled
  decide

/-- The reduction changes a byte that lies before its row. -/
theorem physState_gred {t : State} (ht : exec (.gredPacket 5) physState = .next t) : t.hbmByte 0x40000 = Config.freeByte 64 := by
  obtain ⟨row, hdone⟩ := dieReduce_stores physGred .f32 0 (s := physState) (g := physPlace) (by decide)
  obtain ⟨u, hu, -, hkeep⟩ := (physState_serviceable.gred rfl).answers rfl hdone
  rw [hu] at ht
  cases ht
  have hlen : (rowBytes row).length = 64 := natLe_length 64 _
  have hstore := hbmStore_physical (s := { physState with fresh := physState.fresh + 64 }) physState_wf physState_labels physGred.src
    physPlace.va physPlace.key hlen
  have hpa : physPlace.pa = 0x40010 := rfl
  have hfresh : Config.freeByte (physState.fresh + 64) = Config.freeByte 64 := by rw [show physState.fresh = 0 from rfl]
  rw [State.hbmByte, hkeep.hbm, hbmRead_physical physState_labels, hpa, ← State.hbmByte]
  exact hstore.trans hfresh

/-- Refutes O16: the clause of R78 does not ask, as `BaseDieServices` does, that the place is virtual. Under physical addresses the base die
finds another label, and the reduction leaves noise in a byte before its row, so that no row is stored as the clause says. -/
theorem not_floatingLaneValues : ¬ Obligations.FloatingLaneValues := by
  unfold Obligations.FloatingLaneValues
  rintro ⟨-, h⟩
  obtain ⟨t, row, ht, ⟨-, hout, -⟩, -⟩ := h physState 5 physGred physPlace .f32 0 physState_serviceable physState_wf (.inl rfl) rfl (by decide)
    rfl physState_labelled
  have hsame : t.hbmByte 0x40000 = physState.hbmByte 0x40000 := hout 0x40000 (.inl (by decide))
  have hold : physState.hbmByte 0x40000 = Config.freeByte 64 + 1 := cellGet_cellSet_same [] 0x40000 _ 0 rfl
  rw [physState_gred ht, hold] at hsame
  generalize Config.freeByte 64 = b at hsame
  bv_omega

end Sys2Proof.Machine

end
